-- ==== Sys2Proof/Word.lean ====
section
/-!
DEFINITION. The word types of the machine (R3, R10).
-/

namespace Sys2Proof

/-- An X register (R10). -/
abbrev Word := BitVec 64
/-- A predicate register, one bit per cell lane (R10). -/
abbrev PWord := BitVec 32
/-- A byte. -/
abbrev Byte := BitVec 8
/-- A handle register (R50). -/
abbrev HWord := BitVec 128

end Sys2Proof
end

