-- ==== Sys2Proof/Config.lean ====
section
/-!
DEFINITION. What the spec leaves open, as constants with no body: times of untimed work, orders the spec does not give,
keys, and functions that lie outside it (the translator, what a sounding measures). Nothing can prove a value of one.
-/

namespace Sys2Proof.Config

/-- The time an untimed operation takes beyond what the spec states, in pulses or ticks (log entry 5, DESIGN CHOICE). -/
opaque latency : Nat → Nat

/-- A byte the spec leaves open. -/
opaque byte : Nat → Byte

/-- A 64-bit value the spec leaves open. -/
opaque word : Nat → Word

/-- The base die, 0 to 7, of a 64 KiB page of HBM: the spec does not say how addresses spread over the stacks (R93, R436). -/
opaque baseDie : Nat → Nat

/-- The private number of the device identity key, which the wellhead holds (R318). Log entry 44 (DESIGN CHOICE). -/
opaque deviceKey : Nat

/-- The public point of Galaro's provisioning key, which the wellhead holds in read-only memory (R439). Log entry 44 (DESIGN CHOICE). -/
opaque provisioningKey : Nat × Nat

/-- The number that the wellhead draws for its signature of a digest (R318, R441). Log entry 44 (DESIGN CHOICE). -/
opaque signNonce : BitVec 384 → Nat

/-- What the translator makes of a portable image for a class under a map (R329): a function of the image's bytes, the map record's
bytes, the class and the firmware version. Parts 0 to 3 are the code of CT, LD, MX and ST, part 4 the units it uses, its entry
offsets and its safe points. Log entry 44 (DESIGN CHOICE). -/
opaque translate : List Byte → List Byte → Nat → Nat → Nat → List Byte

/-- The digest of code that the spec does not give: 0 the queue-core firmware of a version, 1 the wellhead's, 2 the runtime
(R441). Log entry 44 (DESIGN CHOICE). -/
opaque codeDigest : Nat → Nat → BitVec 384

/-- The figures that a sounding finds, by the sounding and the figure (R311, R312). Log entry 44 (DESIGN CHOICE). -/
opaque measure : Nat → Nat → Nat

end Sys2Proof.Config
end

