-- ==== Sys2Proof/Syntax.lean ====
section
/-!
DEFINITION. The instructions of the Henut and the events and operations of its opcode table: one constructor of `Instr`
per row of spec/opcode_table.json (R124 to R148, and chapters 06 to 09 for the operand layouts). Fields keep the names
of the table or of the entry; a field of one bit is a Bool.
-/

namespace Sys2Proof

/-- The four sequencers of a core, in the order of their codes (R10, R153). -/
inductive SeqId where
  | ct | ld | mx | st
  deriving DecidableEq, Repr

/-- The ARITH prefix (R73): rounding mode, saturate, NaN to zero, flush subnormals. -/
structure Arith where
  rm : BitVec 3
  sat : Bool
  nanz : Bool
  ftz : Bool
  deriving DecidableEq, Repr

/-- The MEM prefix (R106): alias class, scope, hint. -/
structure MemPfx where
  cls : BitVec 3
  scope : BitVec 3
  hint : BitVec 2
  deriving DecidableEq, Repr

/-- The PRED prefix (R131): the predicate register and whether it is complemented. -/
structure PredPfx where
  preg : BitVec 3
  inv : Bool
  deriving DecidableEq, Repr

/-- The prefixes of an issue unit, at most one of each kind (R126, R129). -/
structure Pfx where
  arith : Option Arith
  imm : Option (BitVec 25)
  mem : Option MemPfx
  pred : Option PredPfx
  deriving DecidableEq, Repr

/-- What a short form carries beside its operands: the P bit of the unit's first parcel (R127) and the prefixes. -/
structure Short where
  p : Bool
  pfx : Pfx
  deriving DecidableEq, Repr

/-- What a long form carries beside its operands: as a short form, and its WAIT and SIGNAL bytes (R134 to R136). -/
structure Long where
  p : Bool
  pfx : Pfx
  wait : BitVec 8
  signal : BitVec 8
  deriving DecidableEq, Repr

/-- Operands of register-register arithmetic (R147, R161). -/
structure RRR where
  d : BitVec 5
  a : BitVec 5
  b : BitVec 5
  w : Bool
  deriving DecidableEq, Repr

/-- Operands of CLZ and POPC (R147, R161). -/
structure RR where
  d : BitVec 5
  a : BitVec 5
  w : Bool
  deriving DecidableEq, Repr

/-- Operands of SEL (R147, R161). -/
structure Sel where
  d : BitVec 5
  a : BitVec 5
  b : BitVec 5
  w : Bool
  t : BitVec 3
  deriving DecidableEq, Repr

/-- Operands of MOV (R147, R161). -/
structure Mov where
  d : BitVec 5
  a : BitVec 5
  deriving DecidableEq, Repr

/-- Operands of register-immediate arithmetic (R147, R162). -/
structure RI where
  d : BitVec 5
  a : BitVec 5
  i : BitVec 13
  deriving DecidableEq, Repr

/-- Operands of LI (R147, R162). -/
structure Li where
  d : BitVec 5
  i : BitVec 13
  deriving DecidableEq, Repr

/-- Operands of CMP (R147, R164). -/
structure Cmp where
  e : BitVec 3
  a : BitVec 5
  b : BitVec 5
  c : BitVec 4
  w : Bool
  deriving DecidableEq, Repr

/-- Operands of CMPI (R147, R164). -/
structure Cmpi where
  e : BitVec 3
  a : BitVec 5
  c : BitVec 4
  i : BitVec 11
  deriving DecidableEq, Repr

/-- Operands of PAND, POR and PXOR (R147, R165). -/
structure PPP where
  e : BitVec 3
  f : BitVec 3
  g : BitVec 3
  deriving DecidableEq, Repr

/-- Operands of PNOT and PMOV (R147, R165). -/
structure PP where
  e : BitVec 3
  f : BitVec 3
  deriving DecidableEq, Repr

/-- Operands of BR and CALL (R147, R166). -/
structure Off23 where
  o : BitVec 23
  deriving DecidableEq, Repr

/-- Operands of BP and BNP (R147, R166). -/
structure BrP where
  f : BitVec 3
  o : BitVec 20
  deriving DecidableEq, Repr

/-- Operands of RET and JMPX (R147, R166). -/
structure JmpX where
  a : BitVec 5
  deriving DecidableEq, Repr

/-- Operands of LOOP (R147, R168). -/
structure LoopX where
  a : BitVec 5
  o : BitVec 18
  deriving DecidableEq, Repr

/-- Operands of TKPOST and TKWAIT (R147, R171). -/
structure Tk where
  q : BitVec 4
  n : BitVec 3
  deriving DecidableEq, Repr

/-- Operands of TKCNT (R147, R171). -/
structure TkCnt where
  d : BitVec 5
  q : BitVec 4
  deriving DecidableEq, Repr

/-- Operands of BRK and TRAP (R147, R176). -/
structure Code where
  k : BitVec 16
  deriving DecidableEq, Repr

/-- Operands of LDX (R147, R246). -/
structure Ldx where
  d : BitVec 5
  a : BitVec 5
  y : BitVec 2
  x : Bool
  o : BitVec 10
  deriving DecidableEq, Repr

/-- Operands of STX (R147, R246). -/
structure Stx where
  s : BitVec 5
  a : BitVec 5
  y : BitVec 2
  o : BitVec 10
  deriving DecidableEq, Repr

/-- Operands of RDSR (R147, R178). -/
structure Rdsr where
  d : BitVec 5
  r : BitVec 10
  deriving DecidableEq, Repr

/-- Operands of WRSR (R147, R178). -/
structure Wrsr where
  r : BitVec 10
  a : BitVec 5
  deriving DecidableEq, Repr

/-- Operands of ADDI.L (R163). -/
structure AddiL where
  d : BitVec 5
  a : BitVec 5
  w : Bool
  i : BitVec 26
  deriving DecidableEq, Repr

/-- Operands of LIH (R163). -/
structure Lih where
  d : BitVec 5
  i : BitVec 32
  deriving DecidableEq, Repr

/-- Operands of MAD (R163). -/
structure Mad where
  d : BitVec 5
  a : BitVec 5
  b : BitVec 5
  c : BitVec 5
  w : Bool
  deriving DecidableEq, Repr

/-- Operands of CMP.L (R164). -/
structure CmpL where
  e : BitVec 3
  a : BitVec 5
  c : BitVec 4
  w : Bool
  i : BitVec 24
  deriving DecidableEq, Repr

/-- Operands of LOOP.L (R168). -/
structure LoopL where
  o : BitVec 20
  n : BitVec 17
  deriving DecidableEq, Repr

/-- Operands of CRGN.OPEN (R180). -/
structure CrgnOpen where
  id : BitVec 8
  o : BitVec 29
  deriving DecidableEq, Repr

/-- Operands of ROTB and SETRB (R184). -/
structure Rot where
  k : BitVec 4
  deriving DecidableEq, Repr

/-- Operands of XLATE (R242). -/
structure Xlate where
  h : BitVec 5
  a : BitVec 5
  deriving DecidableEq, Repr

/-- Operands of HINV (R243). -/
structure Hinv where
  h : BitVec 5
  all : Bool
  deriving DecidableEq, Repr

/-- Operands of HQRY (R244). -/
structure Hqry where
  d : BitVec 5
  h : BitVec 5
  part : BitVec 2
  deriving DecidableEq, Repr

/-- Operands of PGREQ and PREF (R245, R255). -/
structure HX where
  h : BitVec 5
  o : BitVec 5
  deriving DecidableEq, Repr

/-- Operands of CHKP on an MRF vector (R185). -/
structure ChkpM where
  m : BitVec 12
  o : BitVec 24
  deriving DecidableEq, Repr

/-- Operands of CHKP on an X register (R185). -/
structure ChkpX where
  a : BitVec 5
  o : BitVec 24
  deriving DecidableEq, Repr

/-- Operands of CHKR (R186). -/
structure Chkr where
  sq : BitVec 2
  pr : BitVec 3
  o : BitVec 29
  deriving DecidableEq, Repr

/-- Operands of LDG (R247). -/
structure Ldg where
  d : BitVec 5
  h : BitVec 5
  o : BitVec 5
  y : BitVec 2
  x : Bool
  disp : BitVec 15
  deriving DecidableEq, Repr

/-- Operands of LDG.P (R247). -/
structure LdgP where
  d : BitVec 5
  h : BitVec 5
  o : BitVec 5
  y : BitVec 2
  x : Bool
  f : BitVec 3
  disp : BitVec 15
  deriving DecidableEq, Repr

/-- Operands of STG (R247). -/
structure Stg where
  s : BitVec 5
  h : BitVec 5
  o : BitVec 5
  y : BitVec 2
  disp : BitVec 15
  deriving DecidableEq, Repr

/-- Operands of VLD (R250). -/
structure Vld where
  m : BitVec 12
  a : BitVec 5
  deco : Bool
  int : Bool
  blk : BitVec 3
  disp : BitVec 15
  deriving DecidableEq, Repr

/-- Operands of VST (R250). -/
structure Vst where
  m : BitVec 12
  a : BitVec 5
  disp : BitVec 15
  deriving DecidableEq, Repr

/-- Operands of VLDG (R252). -/
structure Vldg where
  m : BitVec 12
  f : BitVec 3
  h : BitVec 5
  o : BitVec 5
  disp : BitVec 12
  deriving DecidableEq, Repr

/-- Operands of VSTG (R252). -/
structure Vstg where
  m : BitVec 12
  h : BitVec 5
  o : BitVec 5
  disp : BitVec 12
  deriving DecidableEq, Repr

/-- Operands of VLDB (R254). -/
structure Vldb where
  m : BitVec 12
  n : BitVec 3
  a : BitVec 5
  disp : BitVec 15
  deriving DecidableEq, Repr

/-- Operands of BXLD (R253). -/
structure Bxld where
  n : BitVec 3
  a : BitVec 5
  deriving DecidableEq, Repr

/-- Operands of ORDLD (R270). -/
structure OrdLd where
  d : BitVec 5
  h : BitVec 5
  o : BitVec 5
  y : BitVec 2
  x : Bool
  deriving DecidableEq, Repr

/-- Operands of ORDST (R270). -/
structure OrdSt where
  s : BitVec 5
  h : BitVec 5
  o : BitVec 5
  y : BitVec 2
  deriving DecidableEq, Repr

/-- Operands of WAITA (R265). -/
structure Waita where
  e : BitVec 3
  a : BitVec 5
  v : BitVec 5
  lim : BitVec 4
  deriving DecidableEq, Repr

/-- Operands of CPLV (R256). -/
structure Cplv where
  n : BitVec 3
  c : BitVec 5
  s : BitVec 5
  d : BitVec 5
  deriving DecidableEq, Repr

/-- Operands of CPGO (R257). -/
structure Cpgo where
  d : BitVec 5
  s : BitVec 5
  b : BitVec 5
  dep : BitVec 3
  f : BitVec 5
  v : BitVec 5
  tm : Bool
  fl : Bool
  ord : Bool
  mx : Bool
  deriving DecidableEq, Repr

/-- Operands of CPACC (R263). -/
structure Cpacc where
  d : BitVec 5
  row : BitVec 11
  nr : BitVec 11
  cg : BitVec 2
  ncg : BitVec 2
  f32 : Bool
  deriving DecidableEq, Repr

/-- Operands of MXSTAGE (R233). -/
structure MxStage where
  a : BitVec 5
  b : BitVec 5
  s : BitVec 5
  row : BitVec 11
  mode : BitVec 4
  op : BitVec 2
  deriving DecidableEq, Repr

/-- Operands of BFMT (R264). -/
structure Bfmt where
  b : BitVec 5
  v : BitVec 32
  deriving DecidableEq, Repr

/-- Operands of BFMTR (R264). -/
structure Bfmtr where
  b : BitVec 5
  a : BitVec 5
  deriving DecidableEq, Repr

/-- Operands of SAQ (R266). -/
structure Saq where
  b : BitVec 5
  i : BitVec 5
  v : BitVec 5
  n : BitVec 5
  op : BitVec 2
  ty : BitVec 2
  deriving DecidableEq, Repr

/-- Operands of FSIG (R276). -/
structure Fsig where
  t : BitVec 5
  v : BitVec 5
  deriving DecidableEq, Repr

/-- Operands of ACQ.L, REL.L and REL.I (R271). -/
structure Obj where
  a : BitVec 5
  deriving DecidableEq, Repr

/-- Operands of ACQ.G and UNBIND (R271). -/
structure ObjV where
  a : BitVec 5
  b : BitVec 5
  deriving DecidableEq, Repr

/-- Operands of BIND (R271). -/
structure Bind where
  a : BitVec 5
  b : BitVec 5
  l : BitVec 5
  deriving DecidableEq, Repr

/-- Operands of SYCAS (R271). -/
structure Sycas where
  d : BitVec 5
  a : BitVec 5
  e : BitVec 5
  n : BitVec 5
  deriving DecidableEq, Repr

/-- Operands of SYRD (R271). -/
structure Syrd where
  d : BitVec 5
  a : BitVec 5
  deriving DecidableEq, Repr

/-- Operands of XFENCE (R275). -/
structure Xfence where
  a : BitVec 3
  b : BitVec 3
  deriving DecidableEq, Repr

/-- Operands of CSTASH (R279). -/
structure Cstash where
  d : BitVec 5
  sel : BitVec 2
  deriving DecidableEq, Repr

/-- Operands of CUNSTASH (R279). -/
structure Cunstash where
  d : BitVec 5
  deriving DecidableEq, Repr

/-- Operands of CSEND (R280). -/
structure Csend where
  s : BitVec 5
  b : BitVec 5
  dep : BitVec 3
  dir : Bool
  deriving DecidableEq, Repr

/-- Operands of CFREE (R281). -/
structure Cfree where
  kind : Bool
  deriving DecidableEq, Repr

/-- Operands of VRD (R142). -/
structure Vrd where
  pos : BitVec 4
  f : BitVec 4
  m : BitVec 12
  deriving DecidableEq, Repr

/-- Operands of VWR (R142). -/
structure Vwr where
  pos : BitVec 4
  f : BitVec 4
  m : BitVec 12
  masked : Bool
  pr : BitVec 3
  deriving DecidableEq, Repr

/-- Operands of flow-row slot form (R141). -/
structure Slot where
  pos : BitVec 4
  fd : BitVec 4
  fa : BitVec 4
  fb : BitVec 4
  fc : BitVec 4
  lt : BitVec 3
  minor : BitVec 5
  imm : BitVec 9
  deriving DecidableEq, Repr

/-- Operands of portable register form (R143). -/
structure Port where
  lt : BitVec 3
  minor : BitVec 4
  d : BitVec 10
  a : BitVec 10
  b : BitVec 10
  deriving DecidableEq, Repr

/-- Operands of matrix form (R144). -/
structure Mat where
  a : BitVec 5
  b : BitVec 5
  s : BitVec 5
  row : BitVec 11
  mode : BitVec 4
  deriving DecidableEq, Repr

/-- Operands of TTOPK (R237). -/
structure Ttopk where
  m : BitVec 5
  row : BitVec 11
  nr : BitVec 5
  k : BitVec 4
  max : Bool
  f32 : Bool
  nc : BitVec 7
  deriving DecidableEq, Repr

/-- Operands of ACCRD and ACCWR (R234). -/
structure AccMov where
  m : BitVec 12
  row : BitVec 11
  cg : BitVec 2
  xr : BitVec 5
  deriving DecidableEq, Repr

/-- Operands of ACCZ (R234). -/
structure Accz where
  row : BitVec 11
  n : BitVec 11
  xr : BitVec 5
  deriving DecidableEq, Repr

/-- A synchronisation operation (R272, R274). -/
inductive SyncKind where
  | acqL | acqG (v : Word) | relL | relI | sycas (e n : Word) | syrd
  | bind (base len : Nat) (scope : BitVec 3) | unbind (base : Nat)
  deriving DecidableEq, Repr

/-- Bytes for an address or offset, with the places of the marked ones among them (R295). -/
structure Span where
  off : Nat
  bytes : List Byte
  marks : List Nat
  deriving DecidableEq, Repr

/-- What a packet carries behind its header (R406, R407): R406 gives the payload of an answer; the others hold what the rules
of their kinds need. -/
inductive Body where
  | none
  | reads (spans : List (Nat × Nat))
  | writes (ws : List Span)
  | sync (k : SyncKind)
  | ordLoad (size : Nat)
  | ordStore (bs : List Byte)
  | fsig (core addr : Nat) (v : Word)
  | pgreq (token : Option Nat)
  /-- A hello names activation slots, or gradient slots. -/
  | hello (act : Bool) (slots base size : Nat)
  /-- A part of a payload, or its last. -/
  | payload (up : Bool) (slot mb : Nat) (ws : List Span) (last : Bool)
  | slotFree (grad : Bool) (slot : Nat)
  | page (perm : BitVec 10) (mig : Nat) (bs : List Byte) (marks : List Nat)
  /-- An answer's data. -/
  | data (bs : List Byte) (marks : List Nat)
  /-- A RETRY answer's token and home. -/
  | retry (token home : Nat)
  /-- A MOVED answer's new home. -/
  | moved (home : Nat)
  deriving DecidableEq, Repr

/-- A packet (R406): its header's fields, `ports` being the egress ports of its hops, and what it carries. -/
structure Packet where
  ver : Nat
  kind : BitVec 5
  path : BitVec 3
  src : Nat
  dst : Nat
  ports : List Nat
  hptr : Nat
  nhop : Nat
  tenant : BitVec 20
  va : Nat
  len : Nat
  circuit : Nat
  tag : Nat
  status : BitVec 3
  settled : Bool
  group : Nat
  reserved : Bool
  body : Body
  deriving DecidableEq, Repr

/-- One constructor per row of spec/opcode_table.json. The first group is the 185 instructions, the second the 123
events of the hardware and operations of the outside world (spec/95_what_each_step_holds.md). -/
inductive Instr where
  /-- R161 -/
  | add (h : Short) (o : RRR)
  /-- R161 -/
  | sub (h : Short) (o : RRR)
  /-- R161 -/
  | and (h : Short) (o : RRR)
  /-- R161 -/
  | or (h : Short) (o : RRR)
  /-- R161 -/
  | xor (h : Short) (o : RRR)
  /-- R161 -/
  | andn (h : Short) (o : RRR)
  /-- R161 -/
  | shl (h : Short) (o : RRR)
  /-- R161 -/
  | shr (h : Short) (o : RRR)
  /-- R161 -/
  | sha (h : Short) (o : RRR)
  /-- R161 -/
  | rot (h : Short) (o : RRR)
  /-- R161 -/
  | min (h : Short) (o : RRR)
  /-- R161 -/
  | max (h : Short) (o : RRR)
  /-- R161 -/
  | minu (h : Short) (o : RRR)
  /-- R161 -/
  | maxu (h : Short) (o : RRR)
  /-- R161 -/
  | mul (h : Short) (o : RRR)
  /-- R161 -/
  | mulh (h : Short) (o : RRR)
  /-- R85 -/
  | div (h : Short) (o : RRR)
  /-- R85 -/
  | divu (h : Short) (o : RRR)
  /-- R85 -/
  | rem (h : Short) (o : RRR)
  /-- R85 -/
  | remu (h : Short) (o : RRR)
  /-- R161 -/
  | clz (h : Short) (o : RR)
  /-- R161 -/
  | popc (h : Short) (o : RR)
  /-- R161 -/
  | sel (h : Short) (o : Sel)
  /-- R161 -/
  | mov (h : Short) (o : Mov)
  /-- R162 -/
  | addi (h : Short) (o : RI)
  /-- R162 -/
  | andi (h : Short) (o : RI)
  /-- R162 -/
  | ori (h : Short) (o : RI)
  /-- R162 -/
  | xori (h : Short) (o : RI)
  /-- R162 -/
  | shli (h : Short) (o : RI)
  /-- R162 -/
  | shri (h : Short) (o : RI)
  /-- R162 -/
  | shai (h : Short) (o : RI)
  /-- R162 -/
  | li (h : Short) (o : Li)
  /-- R164 -/
  | cmp (h : Short) (o : Cmp)
  /-- R164 -/
  | cmpi (h : Short) (o : Cmpi)
  /-- R165 -/
  | pand (h : Short) (o : PPP)
  /-- R165 -/
  | por (h : Short) (o : PPP)
  /-- R165 -/
  | pxor (h : Short) (o : PPP)
  /-- R165 -/
  | pnot (h : Short) (o : PP)
  /-- R165 -/
  | pmov (h : Short) (o : PP)
  /-- R166 -/
  | br (h : Short) (o : Off23)
  /-- R166 -/
  | bp (h : Short) (o : BrP)
  /-- R166 -/
  | bnp (h : Short) (o : BrP)
  /-- R166 -/
  | call (h : Short) (o : Off23)
  /-- R166 -/
  | ret (h : Short) (o : JmpX)
  /-- R166 -/
  | jmpx (h : Short) (o : JmpX)
  /-- R169 -/
  | loop (h : Short) (o : LoopX)
  /-- R169 -/
  | endl (h : Short)
  /-- R171 -/
  | tkpost (h : Short) (o : Tk)
  /-- R171 -/
  | tkwait (h : Short) (o : Tk)
  /-- R171 -/
  | tkcnt (h : Short) (o : TkCnt)
  /-- R174 -/
  | yield (h : Short)
  /-- R175 -/
  | safept (h : Short)
  /-- R176 -/
  | brk (h : Short) (o : Code)
  /-- R176 -/
  | trap (h : Short) (o : Code)
  /-- R177 -/
  | tret (h : Short)
  /-- R246 -/
  | ldx (h : Short) (o : Ldx)
  /-- R246 -/
  | stx (h : Short) (o : Stx)
  /-- R178 -/
  | rdsr (h : Short) (o : Rdsr)
  /-- R178 -/
  | wrsr (h : Short) (o : Wrsr)
  /-- R173 -/
  | taskend (h : Short)
  /-- R172 -/
  | nop (h : Short)
  /-- R163 -/
  | addiL (h : Long) (o : AddiL)
  /-- R163 -/
  | lih (h : Long) (o : Lih)
  /-- R163 -/
  | mad (h : Long) (o : Mad)
  /-- R164 -/
  | cmpL (h : Long) (o : CmpL)
  /-- R169 -/
  | loopL (h : Long) (o : LoopL)
  /-- R172 -/
  | nopL (h : Long)
  /-- R181 -/
  | crgnOpen (h : Long) (o : CrgnOpen)
  /-- R182 -/
  | crgnClose (h : Long)
  /-- R183 -/
  | crgnAbort (h : Long)
  /-- R184 -/
  | rotb (h : Long) (o : Rot)
  /-- R184 -/
  | setrb (h : Long) (o : Rot)
  /-- R242 -/
  | xlate (h : Long) (o : Xlate)
  /-- R243 -/
  | hinv (h : Long) (o : Hinv)
  /-- R244 -/
  | hqry (h : Long) (o : Hqry)
  /-- R245 -/
  | pgreq (h : Long) (o : HX)
  /-- R231 -/
  | mxres (h : Long)
  /-- R185 -/
  | chkpMrf (h : Long) (o : ChkpM)
  /-- R185 -/
  | chkpX (h : Long) (o : ChkpX)
  /-- R186 -/
  | chkr (h : Long) (o : Chkr)
  /-- R247 -/
  | ldg (h : Long) (o : Ldg)
  /-- R248 -/
  | ldgP (h : Long) (o : LdgP)
  /-- R247 -/
  | stg (h : Long) (o : Stg)
  /-- R250 -/
  | vld (h : Long) (o : Vld)
  /-- R250 -/
  | vst (h : Long) (o : Vst)
  /-- R252 -/
  | vldg (h : Long) (o : Vldg)
  /-- R252 -/
  | vstg (h : Long) (o : Vstg)
  /-- R254 -/
  | vldb (h : Long) (o : Vldb)
  /-- R253 -/
  | bxld (h : Long) (o : Bxld)
  /-- R255 -/
  | pref (h : Long) (o : HX)
  /-- R270 -/
  | ordld (h : Long) (o : OrdLd)
  /-- R270 -/
  | ordst (h : Long) (o : OrdSt)
  /-- R265 -/
  | waita (h : Long) (o : Waita)
  /-- R256 -/
  | cplv (h : Long) (o : Cplv)
  /-- R258 -/
  | cpgo (h : Long) (o : Cpgo)
  /-- R263 -/
  | cpacc (h : Long) (o : Cpacc)
  /-- R233 -/
  | mxstage (h : Long) (o : MxStage)
  /-- R264 -/
  | bfmt (h : Long) (o : Bfmt)
  /-- R264 -/
  | bfmtr (h : Long) (o : Bfmtr)
  /-- R266 -/
  | saq (h : Long) (o : Saq)
  /-- R269 -/
  | sadrain (h : Long)
  /-- R276 -/
  | fsig (h : Long) (o : Fsig)
  /-- R272 -/
  | acqL (h : Long) (o : Obj)
  /-- R272 -/
  | acqG (h : Long) (o : ObjV)
  /-- R272 -/
  | relL (h : Long) (o : Obj)
  /-- R272 -/
  | relI (h : Long) (o : Obj)
  /-- R274 -/
  | bind (h : Long) (o : Bind)
  /-- R274 -/
  | unbind (h : Long) (o : ObjV)
  /-- R272 -/
  | sycas (h : Long) (o : Sycas)
  /-- R272 -/
  | syrd (h : Long) (o : Syrd)
  /-- R103 -/
  | xfence (h : Long) (o : Xfence)
  /-- R279 -/
  | cstash (h : Long) (o : Cstash)
  /-- R279 -/
  | cunstash (h : Long) (o : Cunstash)
  /-- R280 -/
  | csend (h : Long) (o : Csend)
  /-- R281 -/
  | cfree (h : Long) (o : Cfree)
  /-- R193 -/
  | vrd (h : Long) (o : Vrd)
  /-- R194 -/
  | vwr (h : Long) (o : Vwr)
  /-- R195 -/
  | vbcast (h : Long) (o : Slot)
  /-- R196 -/
  | viota (h : Long) (o : Slot)
  /-- R197 -/
  | vadd (h : Long) (o : Slot)
  /-- R197 -/
  | vsub (h : Long) (o : Slot)
  /-- R197 -/
  | vmul (h : Long) (o : Slot)
  /-- R197 -/
  | vfma (h : Long) (o : Slot)
  /-- R197 -/
  | vmin (h : Long) (o : Slot)
  /-- R197 -/
  | vmax (h : Long) (o : Slot)
  /-- R197 -/
  | vabs (h : Long) (o : Slot)
  /-- R197 -/
  | vneg (h : Long) (o : Slot)
  /-- R199 -/
  | vand (h : Long) (o : Slot)
  /-- R199 -/
  | vor (h : Long) (o : Slot)
  /-- R199 -/
  | vxor (h : Long) (o : Slot)
  /-- R199 -/
  | vnot (h : Long) (o : Slot)
  /-- R199 -/
  | vshl (h : Long) (o : Slot)
  /-- R199 -/
  | vshr (h : Long) (o : Slot)
  /-- R199 -/
  | vsha (h : Long) (o : Slot)
  /-- R200 -/
  | vcmp (h : Long) (o : Slot)
  /-- R201 -/
  | vsel (h : Long) (o : Slot)
  /-- R202 -/
  | vcvt (h : Long) (o : Slot)
  /-- R198 -/
  | vclmp (h : Long) (o : Slot)
  /-- R203 -/
  | vscale (h : Long) (o : Slot)
  /-- R204 -/
  | vqnt (h : Long) (o : Slot)
  /-- R205 -/
  | vexp2 (h : Long) (o : Slot)
  /-- R205 -/
  | vlog2 (h : Long) (o : Slot)
  /-- R205 -/
  | vrcp (h : Long) (o : Slot)
  /-- R205 -/
  | vrsq (h : Long) (o : Slot)
  /-- R205 -/
  | vtanh (h : Long) (o : Slot)
  /-- R207 -/
  | vsumr (h : Long) (o : Slot)
  /-- R208 -/
  | vperm (h : Long) (o : Slot)
  /-- R210 -/
  | vmovdP (h : Long) (o : Port)
  /-- R209 -/
  | vbcastP (h : Long) (o : Port)
  /-- R209 -/
  | viotaP (h : Long) (o : Port)
  /-- R209 -/
  | vaddP (h : Long) (o : Port)
  /-- R209 -/
  | vsubP (h : Long) (o : Port)
  /-- R209 -/
  | vmulP (h : Long) (o : Port)
  /-- R209 -/
  | vfmaP (h : Long) (o : Port)
  /-- R209 -/
  | vminP (h : Long) (o : Port)
  /-- R209 -/
  | vmaxP (h : Long) (o : Port)
  /-- R209 -/
  | vabsP (h : Long) (o : Port)
  /-- R209 -/
  | vnegP (h : Long) (o : Port)
  /-- R209 -/
  | vandP (h : Long) (o : Port)
  /-- R209 -/
  | vorP (h : Long) (o : Port)
  /-- R209 -/
  | vxorP (h : Long) (o : Port)
  /-- R209 -/
  | vnotP (h : Long) (o : Port)
  /-- R209 -/
  | vshlP (h : Long) (o : Port)
  /-- R209 -/
  | vshrP (h : Long) (o : Port)
  /-- R209 -/
  | vshaP (h : Long) (o : Port)
  /-- R209 -/
  | vcmpP (h : Long) (o : Port)
  /-- R209 -/
  | vselP (h : Long) (o : Port)
  /-- R209 -/
  | vcvtP (h : Long) (o : Port)
  /-- R209 -/
  | vclmpP (h : Long) (o : Port)
  /-- R209 -/
  | vscaleP (h : Long) (o : Port)
  /-- R209 -/
  | vqntP (h : Long) (o : Port)
  /-- R209 -/
  | vexp2P (h : Long) (o : Port)
  /-- R209 -/
  | vlog2P (h : Long) (o : Port)
  /-- R209 -/
  | vrcpP (h : Long) (o : Port)
  /-- R209 -/
  | vrsqP (h : Long) (o : Port)
  /-- R209 -/
  | vtanhP (h : Long) (o : Port)
  /-- R209 -/
  | vsumrP (h : Long) (o : Port)
  /-- R209 -/
  | vpermP (h : Long) (o : Port)
  /-- R221 -/
  | tmma (h : Long) (o : Mat)
  /-- R222 -/
  | tmms (h : Long) (o : Mat)
  /-- R91 -/
  | tdist (h : Long) (o : Mat)
  /-- R237 -/
  | ttopk (h : Long) (o : Ttopk)
  /-- R235 -/
  | accrd (h : Long) (o : AccMov)
  /-- R235 -/
  | accwr (h : Long) (o : AccMov)
  /-- R235 -/
  | accz (h : Long) (o : Accz)
  /-- R16: A timed instruction reaches issue plus latency and posts its SIGNAL tokens. -/
  | timedCompletion (n : Nat)
  /-- R35: A slot drives its result onto its destination flow at t plus L. -/
  | slotResult (n : Nat)
  /-- R31: A delayed MRF access starts once its bank ports are free. -/
  | mrfAccessStart (n : Nat)
  /-- R248: A promised load's due cycle writes its data or poisons the destination. -/
  | promisedLoadDue (n : Nat)
  /-- R239: The value of an untimed load returns and is written, releasing any hold. -/
  | loadValueReturn (n : Nat)
  /-- R121: The target accepts or acknowledges a write, completing it. -/
  | storeAcknowledge (n : Nat)
  /-- R260: A timed copy starts after the previous timed copy completes. -/
  | timedCopyStart (n : Nat)
  /-- R111: A .ORD copy begins its reads after its predecessor completes. -/
  | orderedCopyStart (n : Nat)
  /-- R109: A copy's last payload byte lands and its flag is written. -/
  | copyComplete (n : Nat)
  /-- R228: Operand bytes are due; they are used, zero-filled or the instruction suspends. -/
  | arrayOperandDue (n g : Nat)
  /-- R225: An output row of an array instruction becomes final in the ACC. -/
  | arrayRowFinal (n m : Nat)
  /-- R242: A translation walk ends and the handle's MISS clears with fields filled. -/
  | tableWalkEnd (n : Nat)
  /-- R265: A flag read reaches the expected value and WAITA acquires. -/
  | waitaSatisfied (n : Nat)
  /-- R265: WAITA's pulse count expires and it ends with P zero. -/
  | waitaTimeout (n : Nat)
  /-- R103: The fenced path's accesses complete and the fence completes. -/
  | xfenceComplete (n : Nat)
  /-- R267: An emitted SAE update is applied atomically to its target. -/
  | saeUpdateApply (n : Nat)
  /-- R269: The SAE empties and SADRAIN completes. -/
  | sadrainComplete (n : Nat)
  /-- R243: Accesses through invalidated handles drain and HINV completes. -/
  | hinvComplete (n : Nat)
  /-- R245: The requested page becomes resident and PGREQ completes. -/
  | pgreqComplete (n : Nat)
  /-- R276: FSIG begins its flag write after earlier engine commands complete. -/
  | fsigStart (n : Nat)
  /-- R276: The target acknowledges the FSIG write. -/
  | fsigComplete (n : Nat)
  /-- R280: The CSEND payload has landed and the slot is marked full. -/
  | csendComplete (n : Nat)
  /-- R281: The slot-free message leaves after the commit delay and the slot is free. -/
  | cfreeComplete (n : Nat)
  /-- R119: An ordered operation takes its wheel position and is performed. -/
  | orderedOpPerform (n : Nat)
  /-- R112: The sync unit performs an operation when it arrives or becomes satisfiable. -/
  | syncOpPerform (n : Nat)
  /-- R273: A synchronisation operation's reply returns and releases CT. -/
  | syncReply (n : Nat)
  /-- R299: An outward effect leaves the strike commit buffer after 64 cycles. -/
  | commitRelease (n : Nat)
  /-- R240: A fault found after issue is raised at the sequencer's next boundary. -/
  | lateFault (n : Nat)
  /-- R301: A pre-emption request stops sequencers at boundaries and freezes the timed domain. -/
  | preemptRequest (c : Nat)
  /-- R329: The translator finishes a native image for a class. -/
  | translationDone (n : Nat)
  /-- R370: The queue core clears a set bit, reads QTAIL and takes new commands. -/
  | kickService (q : Nat)
  /-- R372: Queue command NOP completes at once. -/
  | nopCommand (q : Nat)
  /-- R380: Queue command that checks a launch record and runs its task graph. -/
  | launch (q : Nat)
  /-- R372: Queue command that performs ACQ.G on an object. -/
  | waitobj (q : Nat)
  /-- R372: Queue command SETOBJ with MODE 0 performs REL.I. -/
  | setobjRelI (q : Nat)
  /-- R372: Queue command SETOBJ with MODE 1 performs REL.L. -/
  | setobjRelL (q : Nat)
  /-- R436: Queue command that records a checkpoint mark at every base die. -/
  | mark (q : Nat)
  /-- R343: Queue command that checks and loads a chain table and starts the engine. -/
  | chain (q : Nat)
  /-- R358: Queue command CHAIN with RESUME 1 continues a stopped engine from HEAD. -/
  | chainResume (q : Nat)
  /-- R373: The completion record is written, QHEAD advances and MSI-X is raised. -/
  | completionRecordWrite (q : Nat)
  /-- R383: A node ready for 2 ms is promoted one level. -/
  | nodePromotion (g n : Nat)
  /-- R396: Covered caches, handles, accesses and walks are done and DONE advances. -/
  | invalidationComplete (n : Nat)
  /-- R398: A remote read packet is translated at the home and performed or answered. -/
  | read (p : Packet)
  /-- R398: A remote write packet is translated at the home and performed or answered. -/
  | write (p : Packet)
  /-- R399: An answer packet reaches the requester, which acts by its status. -/
  | answer (p : Packet)
  /-- R398: A synchronisation request packet arrives at the object's home. -/
  | sync (p : Packet)
  /-- R420: An arriving ordered request takes a reserved wheel position. -/
  | ordered (p : Packet)
  /-- R276: An FSIG packet writes the flag word in the target core. -/
  | fsigPacket (p : Packet)
  /-- R399: A page request packet joins the open fault record at the home. -/
  | pgreqPacket (p : Packet)
  /-- R414: A multicast write packet is performed at a receiving package. -/
  | mcwrite (p : Packet)
  /-- R402: A migrating page arrives at the new home and is installed. -/
  | migrate (p : Packet)
  /-- R407: A management packet arrives. -/
  | mgmt (p : Packet)
  /-- R409: A router forwards, replicates, delivers or discards a packet. -/
  | packetForward (input : Nat) (p : Packet)
  /-- R402: After accepted accesses complete, the old home copies the page away. -/
  | pageMigration (n : Nat)
  /-- R418: A remote request gets no answer within FTO. -/
  | remoteTimeout (n : Nat)
  /-- R347: A neighbour's chain hello arrives and may start the chain. -/
  | hello (p : Packet)
  /-- R346: A slot-free message arrives and sets the slot's bit in the view. -/
  | slotFree (p : Packet)
  /-- R346: A CSEND payload lands and its receive slot becomes full. -/
  | chainPayloadLanded (p : Packet)
  /-- R436: After the previous copy, a base die takes its dirty set as the mark's pages. -/
  | markRecord (d : Nat)
  /-- R7: Task state clearing finishes, schedule cycle 0 begins and sequencers start issuing. -/
  | launchSetupDone
  /-- R19: A wait's watchdog reaches its limit and traps. -/
  | tokenStall
  /-- R27: A class result not ready at its assumed cycle freezes the timed domain. -/
  | interlockFreeze
  /-- R325: The late result becomes ready and takes effect at its assumed cycle. -/
  | interlockThaw
  /-- R58: The copy engine issues the staged matrix command after the payload lands. -/
  | stagedCommandIssue
  /-- R286: A pending cause is taken at the first boundary after TL returns to 0. -/
  | pendingCauseTaken
  /-- R301: The commit buffer empties and the core is halted. -/
  | coreHalt
  /-- R303: Every outstanding access has landed or timed out and the save begins. -/
  | preemptDrainEnd
  /-- R305: The core record is written to HBM and the core is free. -/
  | contextSaveDone
  /-- R306: A saved record is written back, the array resumes and the domain thaws. -/
  | contextRestore
  /-- R183: Consumed uncorrectable data unwinds the innermost region at the next boundary. -/
  | containmentUnwind
  /-- R332: A task ends at a safe point and continues in a new image. -/
  | continuationStart
  /-- R52: All completion conditions hold and the completion event goes to the dispatcher. -/
  | taskCompletionEvent
  /-- R434: An idle cluster past its interval starts a sounding. -/
  | soundingStart
  /-- R434: An armed window opens at START and pre-empts its clusters. -/
  | soundingWindowOpen
  /-- R312: A cluster's sounding ends and the wellhead signs a new map if results differ. -/
  | soundingEnd
  /-- R312: The queue core verifies and installs a new map, marking stale tasks. -/
  | mapInstall
  /-- R382: The dispatcher starts a placeable ready node in priority and round order. -/
  | nodeStart
  /-- R387: The standby queue core takes over, replays the journal and releases held events. -/
  | queueCoreTakeover
  /-- R412: A loaded slot table takes effect at its START cycle. -/
  | slotTableStart
  /-- R348: The head F, B or W entry issues when its conditions hold. -/
  | chainEntryIssue
  /-- R350: A SYNC entry performs REL.I and ACQ.G on its object. -/
  | chainSyncEntryIssue
  /-- R350: The SYNC entry's ACQ.G completes and the head advances. -/
  | chainSyncComplete
  /-- R349: A chain graph completes, slots are freed or the engine stops. -/
  | chainGraphComplete
  /-- R425: The next unit in kindling order starts or takes its new clock and bandwidth. -/
  | kindlingStep
  /-- R430: After 1 ms outstanding accesses are abandoned and poisoned. -/
  | emberDrainTimeout
  /-- R430: The ember image is written to flash with COMPLETE last. -/
  | emberImageWritten
  /-- R425: RESET_N low resets the package, reads any ember image and starts kindling. -/
  | reset
  /-- R433: Restores queues at step boundaries from the ember image. -/
  | embstatResume
  /-- R433: Discards the ember image and brings every queue up empty. -/
  | embstatDiscard
  /-- R436: The copier writes one page of the mark, or a skip record. -/
  | checkpointPageCopy
  /-- R437: A held write is admitted once its page's old content is staged. -/
  | stagedWriteAdmit
  /-- R440: Galaro re-provisions a package after an ERASE, restoring the key store so that quotes, map signing and new translation work resume. -/
  | reProvisioning
  /-- R299: A strike sensor report discards the buffer and replays 64 cycles. -/
  | strikeReport (c : Nat)
  /-- R367: A driver writes its version range and the firmware negotiates HPAGREE. -/
  | hpdrvWrite (f : Nat) (v : Word)
  /-- R370: A KICK write sets a queue's bit in the pending-kick bitmap. -/
  | kick (f : Nat) (v : Word)
  /-- R368: Function 0 writes a queue descriptor or changes its STATE. -/
  | queueDescriptorWrite (f q : Nat) (bs : List Byte)
  /-- R366: A write to a BAR0 register with no behaviour of its own. -/
  | registerWrite (f off : Nat) (v : Word)
  /-- R385: Selects a core's error record for reading through ERRREC. -/
  | errselWrite (v : Word)
  /-- R385: ERRSEL bit 63 clears the selected error record. -/
  | errorRecordClear (v : Word)
  /-- R396: Starts a stage-1 invalidation of one page. -/
  | s1invPage (f : Nat) (v : Word)
  /-- R396: Starts a stage-1 invalidation of the whole context. -/
  | s1invAll (f : Nat) (v : Word)
  /-- R396: Starts a stage-2 invalidation of one IPA page. -/
  | s2invPage (f : Nat) (v : Word)
  /-- R396: Starts a stage-2 invalidation of the whole context. -/
  | s2invAll (f : Nat) (v : Word)
  /-- R405: Completes every request held on a fault token. -/
  | fresolveResolve (f : Nat) (v : Word)
  /-- R405: Refuses every request held on a fault token. -/
  | fresolveRefuse (f : Nat) (v : Word)
  /-- R393: Offers a free frame for pages migrating here. -/
  | migpoolWrite (f : Nat) (v : Word)
  /-- R403: Clears MIG and SETTLED of one page. -/
  | migclrPage (f : Nat) (v : Word)
  /-- R403: Clears MIG and SETTLED of every page of the context homed here. -/
  | migclrAll (f : Nat) (v : Word)
  /-- R416: A port trains and negotiates version and features. -/
  | linkTraining (port vmin vmax feat lanes : Nat)
  /-- R417: A beat fails 16 resends and the link goes to failed. -/
  | linkFailure (port : Nat)
  /-- R412: Loads and checks a slot-table record. -/
  | stload (v : Word)
  /-- R415: Rewrites a multicast group entry for later packets. -/
  | mcdataWrite (v : Word)
  /-- R426: The host commands a damper level. -/
  | pstepWrite (v : Word)
  /-- R424: A new PSTEP pin value read twice takes effect. -/
  | pstepPins (v : BitVec 4)
  /-- R430: PFAIL_N low forces level 15, pre-empts every core and starts the ember save. -/
  | pfail (low : Bool)
  /-- R434: A write to SNDWIN1 arms a sounding window. -/
  | soundingWindowArm (v : Word)
  /-- R435: Copies the signed map record in force to host memory. -/
  | mapreq (v : Word)
  /-- R436: Enables checkpointing, making every page dirty on EN rising. -/
  | ckptctlWrite (v : Word)
  /-- R439: A wellhead sensor fires and its policy logs, halts or erases. -/
  | sensorEvent (c : Nat)
  /-- R439: Loads and verifies a signed configuration record. -/
  | cfgload (v : Word)
  /-- R441: Produces a signed attestation quote for the function. -/
  | qreq (f : Nat) (v : Word)
  /-- R295: ECC detects an error it cannot correct in an SRAM array, HBM stack or link and marks the bytes it covers as uncorrectable. -/
  | uncorrectableError (core : Option Nat) (a n : Nat)
  /-- R329: An update of the queue-core firmware empties the translated-image cache. -/
  | firmwareUpdate (version : Nat)
  deriving DecidableEq, Repr

end Sys2Proof
end

