-- ==== Sys2Proof/Machine/Layout.lean ====
section
/-!
DEFINITION. Where each operand field of an instruction word sits (R73, R106, R131, R141 to R148 and the entries of
chapters 06 to 09): for every operand structure T, `T.enc` puts the fields into the word and `T.dec` takes them out and
says whether every bit that must be zero is zero. A word is a natural number; bit numbers are those of the spec.
-/

namespace Sys2Proof

/-- Bits [lo + n - 1 : lo] of a word. -/
def fld (w lo n : Nat) : BitVec n := BitVec.ofNat n (w / 2 ^ lo)
/-- Bit [lo] of a word. -/
def bitAt (w lo : Nat) : Bool := w / 2 ^ lo % 2 == 1
/-- Bits [lo + n - 1 : lo] of a word are all zero. -/
def zer (w lo n : Nat) : Bool := w / 2 ^ lo % 2 ^ n == 0

/-- register-register arithmetic (R147, R161) -/
def RRR.enc (o : RRR) : Nat := o.d.toNat * 2 ^ 21 + o.a.toNat * 2 ^ 16 + o.b.toNat * 2 ^ 11 + o.w.toNat * 2 ^ 10
/-- register-register arithmetic (R147, R161) -/
def RRR.dec (w : Nat) : RRR × Bool :=
  ({ d := fld w 21 5, a := fld w 16 5, b := fld w 11 5, w := bitAt w 10 }, zer w 3 7)

/-- CLZ and POPC (R147, R161) -/
def RR.enc (o : RR) : Nat := o.d.toNat * 2 ^ 21 + o.a.toNat * 2 ^ 16 + o.w.toNat * 2 ^ 10
/-- CLZ and POPC (R147, R161) -/
def RR.dec (w : Nat) : RR × Bool :=
  ({ d := fld w 21 5, a := fld w 16 5, w := bitAt w 10 }, zer w 3 7 && zer w 11 5)

/-- SEL (R147, R161) -/
def Sel.enc (o : Sel) : Nat := o.d.toNat * 2 ^ 21 + o.a.toNat * 2 ^ 16 + o.b.toNat * 2 ^ 11 + o.w.toNat * 2 ^ 10 + o.t.toNat * 2 ^ 7
/-- SEL (R147, R161) -/
def Sel.dec (w : Nat) : Sel × Bool :=
  ({ d := fld w 21 5, a := fld w 16 5, b := fld w 11 5, w := bitAt w 10, t := fld w 7 3 }, zer w 3 4)

/-- MOV (R147, R161) -/
def Mov.enc (o : Mov) : Nat := o.d.toNat * 2 ^ 21 + o.a.toNat * 2 ^ 16
/-- MOV (R147, R161) -/
def Mov.dec (w : Nat) : Mov × Bool :=
  ({ d := fld w 21 5, a := fld w 16 5 }, zer w 3 13)

/-- register-immediate arithmetic (R147, R162) -/
def RI.enc (o : RI) : Nat := o.d.toNat * 2 ^ 21 + o.a.toNat * 2 ^ 16 + o.i.toNat * 2 ^ 3
/-- register-immediate arithmetic (R147, R162) -/
def RI.dec (w : Nat) : RI × Bool :=
  ({ d := fld w 21 5, a := fld w 16 5, i := fld w 3 13 }, true)

/-- LI (R147, R162) -/
def Li.enc (o : Li) : Nat := o.d.toNat * 2 ^ 21 + o.i.toNat * 2 ^ 3
/-- LI (R147, R162) -/
def Li.dec (w : Nat) : Li × Bool :=
  ({ d := fld w 21 5, i := fld w 3 13 }, zer w 16 5)

/-- CMP (R147, R164) -/
def Cmp.enc (o : Cmp) : Nat := o.e.toNat * 2 ^ 23 + o.a.toNat * 2 ^ 18 + o.b.toNat * 2 ^ 13 + o.c.toNat * 2 ^ 9 + o.w.toNat * 2 ^ 8
/-- CMP (R147, R164) -/
def Cmp.dec (w : Nat) : Cmp × Bool :=
  ({ e := fld w 23 3, a := fld w 18 5, b := fld w 13 5, c := fld w 9 4, w := bitAt w 8 }, zer w 3 5)

/-- CMPI (R147, R164) -/
def Cmpi.enc (o : Cmpi) : Nat := o.e.toNat * 2 ^ 23 + o.a.toNat * 2 ^ 18 + o.c.toNat * 2 ^ 14 + o.i.toNat * 2 ^ 3
/-- CMPI (R147, R164) -/
def Cmpi.dec (w : Nat) : Cmpi × Bool :=
  ({ e := fld w 23 3, a := fld w 18 5, c := fld w 14 4, i := fld w 3 11 }, true)

/-- PAND, POR and PXOR (R147, R165) -/
def PPP.enc (o : PPP) : Nat := o.e.toNat * 2 ^ 23 + o.f.toNat * 2 ^ 20 + o.g.toNat * 2 ^ 17
/-- PAND, POR and PXOR (R147, R165) -/
def PPP.dec (w : Nat) : PPP × Bool :=
  ({ e := fld w 23 3, f := fld w 20 3, g := fld w 17 3 }, zer w 3 14)

/-- PNOT and PMOV (R147, R165) -/
def PP.enc (o : PP) : Nat := o.e.toNat * 2 ^ 23 + o.f.toNat * 2 ^ 20
/-- PNOT and PMOV (R147, R165) -/
def PP.dec (w : Nat) : PP × Bool :=
  ({ e := fld w 23 3, f := fld w 20 3 }, zer w 3 17)

/-- BR and CALL (R147, R166) -/
def Off23.enc (o : Off23) : Nat := o.o.toNat * 2 ^ 3
/-- BR and CALL (R147, R166) -/
def Off23.dec (w : Nat) : Off23 × Bool :=
  ({ o := fld w 3 23 }, true)

/-- BP and BNP (R147, R166) -/
def BrP.enc (o : BrP) : Nat := o.f.toNat * 2 ^ 23 + o.o.toNat * 2 ^ 3
/-- BP and BNP (R147, R166) -/
def BrP.dec (w : Nat) : BrP × Bool :=
  ({ f := fld w 23 3, o := fld w 3 20 }, true)

/-- RET and JMPX (R147, R166) -/
def JmpX.enc (o : JmpX) : Nat := o.a.toNat * 2 ^ 21
/-- RET and JMPX (R147, R166) -/
def JmpX.dec (w : Nat) : JmpX × Bool :=
  ({ a := fld w 21 5 }, zer w 3 18)

/-- LOOP (R147, R168) -/
def LoopX.enc (o : LoopX) : Nat := o.a.toNat * 2 ^ 21 + o.o.toNat * 2 ^ 3
/-- LOOP (R147, R168) -/
def LoopX.dec (w : Nat) : LoopX × Bool :=
  ({ a := fld w 21 5, o := fld w 3 18 }, true)

/-- TKPOST and TKWAIT (R147, R171) -/
def Tk.enc (o : Tk) : Nat := o.q.toNat * 2 ^ 22 + o.n.toNat * 2 ^ 19
/-- TKPOST and TKWAIT (R147, R171) -/
def Tk.dec (w : Nat) : Tk × Bool :=
  ({ q := fld w 22 4, n := fld w 19 3 }, zer w 3 16)

/-- TKCNT (R147, R171) -/
def TkCnt.enc (o : TkCnt) : Nat := o.d.toNat * 2 ^ 21 + o.q.toNat * 2 ^ 17
/-- TKCNT (R147, R171) -/
def TkCnt.dec (w : Nat) : TkCnt × Bool :=
  ({ d := fld w 21 5, q := fld w 17 4 }, zer w 3 14)

/-- BRK and TRAP (R147, R176) -/
def Code.enc (o : Code) : Nat := o.k.toNat * 2 ^ 3
/-- BRK and TRAP (R147, R176) -/
def Code.dec (w : Nat) : Code × Bool :=
  ({ k := fld w 3 16 }, zer w 19 7)

/-- LDX (R147, R246) -/
def Ldx.enc (o : Ldx) : Nat := o.d.toNat * 2 ^ 21 + o.a.toNat * 2 ^ 16 + o.y.toNat * 2 ^ 14 + o.x.toNat * 2 ^ 13 + o.o.toNat * 2 ^ 3
/-- LDX (R147, R246) -/
def Ldx.dec (w : Nat) : Ldx × Bool :=
  ({ d := fld w 21 5, a := fld w 16 5, y := fld w 14 2, x := bitAt w 13, o := fld w 3 10 }, true)

/-- STX (R147, R246) -/
def Stx.enc (o : Stx) : Nat := o.s.toNat * 2 ^ 21 + o.a.toNat * 2 ^ 16 + o.y.toNat * 2 ^ 14 + o.o.toNat * 2 ^ 3
/-- STX (R147, R246) -/
def Stx.dec (w : Nat) : Stx × Bool :=
  ({ s := fld w 21 5, a := fld w 16 5, y := fld w 14 2, o := fld w 3 10 }, zer w 13 1)

/-- RDSR (R147, R178) -/
def Rdsr.enc (o : Rdsr) : Nat := o.d.toNat * 2 ^ 21 + o.r.toNat * 2 ^ 11
/-- RDSR (R147, R178) -/
def Rdsr.dec (w : Nat) : Rdsr × Bool :=
  ({ d := fld w 21 5, r := fld w 11 10 }, zer w 3 8)

/-- WRSR (R147, R178) -/
def Wrsr.enc (o : Wrsr) : Nat := o.r.toNat * 2 ^ 16 + o.a.toNat * 2 ^ 11
/-- WRSR (R147, R178) -/
def Wrsr.dec (w : Nat) : Wrsr × Bool :=
  ({ r := fld w 16 10, a := fld w 11 5 }, zer w 3 8)

/-- ADDI.L (R163) -/
def AddiL.enc (o : AddiL) : Nat := o.d.toNat * 2 ^ 35 + o.a.toNat * 2 ^ 30 + o.w.toNat * 2 ^ 29 + o.i.toNat * 2 ^ 3
/-- ADDI.L (R163) -/
def AddiL.dec (w : Nat) : AddiL × Bool :=
  ({ d := fld w 35 5, a := fld w 30 5, w := bitAt w 29, i := fld w 3 26 }, true)

/-- LIH (R163) -/
def Lih.enc (o : Lih) : Nat := o.d.toNat * 2 ^ 35 + o.i.toNat * 2 ^ 3
/-- LIH (R163) -/
def Lih.dec (w : Nat) : Lih × Bool :=
  ({ d := fld w 35 5, i := fld w 3 32 }, true)

/-- MAD (R163) -/
def Mad.enc (o : Mad) : Nat := o.d.toNat * 2 ^ 35 + o.a.toNat * 2 ^ 30 + o.b.toNat * 2 ^ 25 + o.c.toNat * 2 ^ 20 + o.w.toNat * 2 ^ 19
/-- MAD (R163) -/
def Mad.dec (w : Nat) : Mad × Bool :=
  ({ d := fld w 35 5, a := fld w 30 5, b := fld w 25 5, c := fld w 20 5, w := bitAt w 19 }, zer w 3 16)

/-- CMP.L (R164) -/
def CmpL.enc (o : CmpL) : Nat := o.e.toNat * 2 ^ 37 + o.a.toNat * 2 ^ 32 + o.c.toNat * 2 ^ 28 + o.w.toNat * 2 ^ 27 + o.i.toNat * 2 ^ 3
/-- CMP.L (R164) -/
def CmpL.dec (w : Nat) : CmpL × Bool :=
  ({ e := fld w 37 3, a := fld w 32 5, c := fld w 28 4, w := bitAt w 27, i := fld w 3 24 }, true)

/-- LOOP.L (R168) -/
def LoopL.enc (o : LoopL) : Nat := o.o.toNat * 2 ^ 20 + o.n.toNat * 2 ^ 3
/-- LOOP.L (R168) -/
def LoopL.dec (w : Nat) : LoopL × Bool :=
  ({ o := fld w 20 20, n := fld w 3 17 }, true)

/-- CRGN.OPEN (R180) -/
def CrgnOpen.enc (o : CrgnOpen) : Nat := o.id.toNat * 2 ^ 32 + o.o.toNat * 2 ^ 3
/-- CRGN.OPEN (R180) -/
def CrgnOpen.dec (w : Nat) : CrgnOpen × Bool :=
  ({ id := fld w 32 8, o := fld w 3 29 }, true)

/-- ROTB and SETRB (R184) -/
def Rot.enc (o : Rot) : Nat := o.k.toNat * 2 ^ 36
/-- ROTB and SETRB (R184) -/
def Rot.dec (w : Nat) : Rot × Bool :=
  ({ k := fld w 36 4 }, zer w 3 33)

/-- XLATE (R242) -/
def Xlate.enc (o : Xlate) : Nat := o.h.toNat * 2 ^ 35 + o.a.toNat * 2 ^ 30
/-- XLATE (R242) -/
def Xlate.dec (w : Nat) : Xlate × Bool :=
  ({ h := fld w 35 5, a := fld w 30 5 }, zer w 3 27)

/-- HINV (R243) -/
def Hinv.enc (o : Hinv) : Nat := o.h.toNat * 2 ^ 35 + o.all.toNat * 2 ^ 34
/-- HINV (R243) -/
def Hinv.dec (w : Nat) : Hinv × Bool :=
  ({ h := fld w 35 5, all := bitAt w 34 }, zer w 3 31)

/-- HQRY (R244) -/
def Hqry.enc (o : Hqry) : Nat := o.d.toNat * 2 ^ 35 + o.h.toNat * 2 ^ 30 + o.part.toNat * 2 ^ 28
/-- HQRY (R244) -/
def Hqry.dec (w : Nat) : Hqry × Bool :=
  ({ d := fld w 35 5, h := fld w 30 5, part := fld w 28 2 }, zer w 3 25)

/-- PGREQ and PREF (R245, R255) -/
def HX.enc (o : HX) : Nat := o.h.toNat * 2 ^ 35 + o.o.toNat * 2 ^ 30
/-- PGREQ and PREF (R245, R255) -/
def HX.dec (w : Nat) : HX × Bool :=
  ({ h := fld w 35 5, o := fld w 30 5 }, zer w 3 27)

/-- CHKP on an MRF vector (R185) -/
def ChkpM.enc (o : ChkpM) : Nat := o.m.toNat * 2 ^ 27 + o.o.toNat * 2 ^ 3
/-- CHKP on an MRF vector (R185) -/
def ChkpM.dec (w : Nat) : ChkpM × Bool :=
  ({ m := fld w 27 12, o := fld w 3 24 }, true)

/-- CHKP on an X register (R185) -/
def ChkpX.enc (o : ChkpX) : Nat := o.a.toNat * 2 ^ 27 + o.o.toNat * 2 ^ 3
/-- CHKP on an X register (R185) -/
def ChkpX.dec (w : Nat) : ChkpX × Bool :=
  ({ a := fld w 27 5, o := fld w 3 24 }, zer w 32 7)

/-- CHKR (R186) -/
def Chkr.enc (o : Chkr) : Nat := o.sq.toNat * 2 ^ 38 + o.pr.toNat * 2 ^ 35 + o.o.toNat * 2 ^ 3
/-- CHKR (R186) -/
def Chkr.dec (w : Nat) : Chkr × Bool :=
  ({ sq := fld w 38 2, pr := fld w 35 3, o := fld w 3 29 }, zer w 32 3)

/-- LDG (R247) -/
def Ldg.enc (o : Ldg) : Nat := o.d.toNat * 2 ^ 35 + o.h.toNat * 2 ^ 30 + o.o.toNat * 2 ^ 25 + o.y.toNat * 2 ^ 23 + o.x.toNat * 2 ^ 22 + o.disp.toNat * 2 ^ 3
/-- LDG (R247) -/
def Ldg.dec (w : Nat) : Ldg × Bool :=
  ({ d := fld w 35 5, h := fld w 30 5, o := fld w 25 5, y := fld w 23 2, x := bitAt w 22, disp := fld w 3 15 }, zer w 18 3)

/-- LDG.P (R247) -/
def LdgP.enc (o : LdgP) : Nat := o.d.toNat * 2 ^ 35 + o.h.toNat * 2 ^ 30 + o.o.toNat * 2 ^ 25 + o.y.toNat * 2 ^ 23 + o.x.toNat * 2 ^ 22 + o.f.toNat * 2 ^ 18 + o.disp.toNat * 2 ^ 3
/-- LDG.P (R247) -/
def LdgP.dec (w : Nat) : LdgP × Bool :=
  ({ d := fld w 35 5, h := fld w 30 5, o := fld w 25 5, y := fld w 23 2, x := bitAt w 22, f := fld w 18 3, disp := fld w 3 15 }, true)

/-- STG (R247) -/
def Stg.enc (o : Stg) : Nat := o.s.toNat * 2 ^ 35 + o.h.toNat * 2 ^ 30 + o.o.toNat * 2 ^ 25 + o.y.toNat * 2 ^ 23 + o.disp.toNat * 2 ^ 3
/-- STG (R247) -/
def Stg.dec (w : Nat) : Stg × Bool :=
  ({ s := fld w 35 5, h := fld w 30 5, o := fld w 25 5, y := fld w 23 2, disp := fld w 3 15 }, zer w 18 5)

/-- VLD (R250) -/
def Vld.enc (o : Vld) : Nat := o.m.toNat * 2 ^ 28 + o.a.toNat * 2 ^ 23 + o.deco.toNat * 2 ^ 22 + o.int.toNat * 2 ^ 21 + o.blk.toNat * 2 ^ 18 + o.disp.toNat * 2 ^ 3
/-- VLD (R250) -/
def Vld.dec (w : Nat) : Vld × Bool :=
  ({ m := fld w 28 12, a := fld w 23 5, deco := bitAt w 22, int := bitAt w 21, blk := fld w 18 3, disp := fld w 3 15 }, true)

/-- VST (R250) -/
def Vst.enc (o : Vst) : Nat := o.m.toNat * 2 ^ 28 + o.a.toNat * 2 ^ 23 + o.disp.toNat * 2 ^ 3
/-- VST (R250) -/
def Vst.dec (w : Nat) : Vst × Bool :=
  ({ m := fld w 28 12, a := fld w 23 5, disp := fld w 3 15 }, zer w 18 5)

/-- VLDG (R252) -/
def Vldg.enc (o : Vldg) : Nat := o.m.toNat * 2 ^ 28 + o.f.toNat * 2 ^ 25 + o.h.toNat * 2 ^ 20 + o.o.toNat * 2 ^ 15 + o.disp.toNat * 2 ^ 3
/-- VLDG (R252) -/
def Vldg.dec (w : Nat) : Vldg × Bool :=
  ({ m := fld w 28 12, f := fld w 25 3, h := fld w 20 5, o := fld w 15 5, disp := fld w 3 12 }, true)

/-- VSTG (R252) -/
def Vstg.enc (o : Vstg) : Nat := o.m.toNat * 2 ^ 28 + o.h.toNat * 2 ^ 20 + o.o.toNat * 2 ^ 15 + o.disp.toNat * 2 ^ 3
/-- VSTG (R252) -/
def Vstg.dec (w : Nat) : Vstg × Bool :=
  ({ m := fld w 28 12, h := fld w 20 5, o := fld w 15 5, disp := fld w 3 12 }, zer w 25 3)

/-- VLDB (R254) -/
def Vldb.enc (o : Vldb) : Nat := o.m.toNat * 2 ^ 28 + o.n.toNat * 2 ^ 25 + o.a.toNat * 2 ^ 20 + o.disp.toNat * 2 ^ 5
/-- VLDB (R254) -/
def Vldb.dec (w : Nat) : Vldb × Bool :=
  ({ m := fld w 28 12, n := fld w 25 3, a := fld w 20 5, disp := fld w 5 15 }, zer w 3 2)

/-- BXLD (R253) -/
def Bxld.enc (o : Bxld) : Nat := o.n.toNat * 2 ^ 37 + o.a.toNat * 2 ^ 32
/-- BXLD (R253) -/
def Bxld.dec (w : Nat) : Bxld × Bool :=
  ({ n := fld w 37 3, a := fld w 32 5 }, zer w 3 29)

/-- ORDLD (R270) -/
def OrdLd.enc (o : OrdLd) : Nat := o.d.toNat * 2 ^ 35 + o.h.toNat * 2 ^ 30 + o.o.toNat * 2 ^ 25 + o.y.toNat * 2 ^ 23 + o.x.toNat * 2 ^ 22
/-- ORDLD (R270) -/
def OrdLd.dec (w : Nat) : OrdLd × Bool :=
  ({ d := fld w 35 5, h := fld w 30 5, o := fld w 25 5, y := fld w 23 2, x := bitAt w 22 }, zer w 3 19)

/-- ORDST (R270) -/
def OrdSt.enc (o : OrdSt) : Nat := o.s.toNat * 2 ^ 35 + o.h.toNat * 2 ^ 30 + o.o.toNat * 2 ^ 25 + o.y.toNat * 2 ^ 23
/-- ORDST (R270) -/
def OrdSt.dec (w : Nat) : OrdSt × Bool :=
  ({ s := fld w 35 5, h := fld w 30 5, o := fld w 25 5, y := fld w 23 2 }, zer w 3 20)

/-- WAITA (R265) -/
def Waita.enc (o : Waita) : Nat := o.e.toNat * 2 ^ 37 + o.a.toNat * 2 ^ 32 + o.v.toNat * 2 ^ 27 + o.lim.toNat * 2 ^ 23
/-- WAITA (R265) -/
def Waita.dec (w : Nat) : Waita × Bool :=
  ({ e := fld w 37 3, a := fld w 32 5, v := fld w 27 5, lim := fld w 23 4 }, zer w 3 20)

/-- CPLV (R256) -/
def Cplv.enc (o : Cplv) : Nat := o.n.toNat * 2 ^ 37 + o.c.toNat * 2 ^ 32 + o.s.toNat * 2 ^ 27 + o.d.toNat * 2 ^ 22
/-- CPLV (R256) -/
def Cplv.dec (w : Nat) : Cplv × Bool :=
  ({ n := fld w 37 3, c := fld w 32 5, s := fld w 27 5, d := fld w 22 5 }, zer w 3 19)

/-- CPGO (R257) -/
def Cpgo.enc (o : Cpgo) : Nat := o.d.toNat * 2 ^ 35 + o.s.toNat * 2 ^ 30 + o.b.toNat * 2 ^ 25 + o.dep.toNat * 2 ^ 22 + o.f.toNat * 2 ^ 17 + o.v.toNat * 2 ^ 12 + o.tm.toNat * 2 ^ 11 + o.fl.toNat * 2 ^ 10 + o.ord.toNat * 2 ^ 9 + o.mx.toNat * 2 ^ 8
/-- CPGO (R257) -/
def Cpgo.dec (w : Nat) : Cpgo × Bool :=
  ({ d := fld w 35 5, s := fld w 30 5, b := fld w 25 5, dep := fld w 22 3, f := fld w 17 5, v := fld w 12 5, tm := bitAt w 11, fl := bitAt w 10, ord := bitAt w 9, mx := bitAt w 8 }, zer w 3 5)

/-- CPACC (R263) -/
def Cpacc.enc (o : Cpacc) : Nat := o.d.toNat * 2 ^ 35 + o.row.toNat * 2 ^ 24 + o.nr.toNat * 2 ^ 13 + o.cg.toNat * 2 ^ 11 + o.ncg.toNat * 2 ^ 9 + o.f32.toNat * 2 ^ 8
/-- CPACC (R263) -/
def Cpacc.dec (w : Nat) : Cpacc × Bool :=
  ({ d := fld w 35 5, row := fld w 24 11, nr := fld w 13 11, cg := fld w 11 2, ncg := fld w 9 2, f32 := bitAt w 8 }, zer w 3 5)

/-- MXSTAGE (R233) -/
def MxStage.enc (o : MxStage) : Nat := o.a.toNat * 2 ^ 35 + o.b.toNat * 2 ^ 30 + o.s.toNat * 2 ^ 25 + o.row.toNat * 2 ^ 14 + o.mode.toNat * 2 ^ 10 + o.op.toNat * 2 ^ 8
/-- MXSTAGE (R233) -/
def MxStage.dec (w : Nat) : MxStage × Bool :=
  ({ a := fld w 35 5, b := fld w 30 5, s := fld w 25 5, row := fld w 14 11, mode := fld w 10 4, op := fld w 8 2 }, zer w 3 5)

/-- BFMT (R264) -/
def Bfmt.enc (o : Bfmt) : Nat := o.b.toNat * 2 ^ 35 + o.v.toNat * 2 ^ 3
/-- BFMT (R264) -/
def Bfmt.dec (w : Nat) : Bfmt × Bool :=
  ({ b := fld w 35 5, v := fld w 3 32 }, true)

/-- BFMTR (R264) -/
def Bfmtr.enc (o : Bfmtr) : Nat := o.b.toNat * 2 ^ 35 + o.a.toNat * 2 ^ 30
/-- BFMTR (R264) -/
def Bfmtr.dec (w : Nat) : Bfmtr × Bool :=
  ({ b := fld w 35 5, a := fld w 30 5 }, zer w 3 27)

/-- SAQ (R266) -/
def Saq.enc (o : Saq) : Nat := o.b.toNat * 2 ^ 35 + o.i.toNat * 2 ^ 30 + o.v.toNat * 2 ^ 25 + o.n.toNat * 2 ^ 20 + o.op.toNat * 2 ^ 18 + o.ty.toNat * 2 ^ 16
/-- SAQ (R266) -/
def Saq.dec (w : Nat) : Saq × Bool :=
  ({ b := fld w 35 5, i := fld w 30 5, v := fld w 25 5, n := fld w 20 5, op := fld w 18 2, ty := fld w 16 2 }, zer w 3 13)

/-- FSIG (R276) -/
def Fsig.enc (o : Fsig) : Nat := o.t.toNat * 2 ^ 35 + o.v.toNat * 2 ^ 30
/-- FSIG (R276) -/
def Fsig.dec (w : Nat) : Fsig × Bool :=
  ({ t := fld w 35 5, v := fld w 30 5 }, zer w 3 27)

/-- ACQ.L, REL.L and REL.I (R271) -/
def Obj.enc (o : Obj) : Nat := o.a.toNat * 2 ^ 35
/-- ACQ.L, REL.L and REL.I (R271) -/
def Obj.dec (w : Nat) : Obj × Bool :=
  ({ a := fld w 35 5 }, zer w 3 25 && zer w 30 5)

/-- ACQ.G and UNBIND (R271) -/
def ObjV.enc (o : ObjV) : Nat := o.a.toNat * 2 ^ 35 + o.b.toNat * 2 ^ 30
/-- ACQ.G and UNBIND (R271) -/
def ObjV.dec (w : Nat) : ObjV × Bool :=
  ({ a := fld w 35 5, b := fld w 30 5 }, zer w 3 25)

/-- BIND (R271) -/
def Bind.enc (o : Bind) : Nat := o.a.toNat * 2 ^ 35 + o.b.toNat * 2 ^ 30 + o.l.toNat * 2 ^ 25
/-- BIND (R271) -/
def Bind.dec (w : Nat) : Bind × Bool :=
  ({ a := fld w 35 5, b := fld w 30 5, l := fld w 25 5 }, zer w 3 22)

/-- SYCAS (R271) -/
def Sycas.enc (o : Sycas) : Nat := o.d.toNat * 2 ^ 35 + o.a.toNat * 2 ^ 30 + o.e.toNat * 2 ^ 25 + o.n.toNat * 2 ^ 20
/-- SYCAS (R271) -/
def Sycas.dec (w : Nat) : Sycas × Bool :=
  ({ d := fld w 35 5, a := fld w 30 5, e := fld w 25 5, n := fld w 20 5 }, zer w 3 17)

/-- SYRD (R271) -/
def Syrd.enc (o : Syrd) : Nat := o.d.toNat * 2 ^ 35 + o.a.toNat * 2 ^ 30
/-- SYRD (R271) -/
def Syrd.dec (w : Nat) : Syrd × Bool :=
  ({ d := fld w 35 5, a := fld w 30 5 }, zer w 3 27)

/-- XFENCE (R275) -/
def Xfence.enc (o : Xfence) : Nat := o.a.toNat * 2 ^ 37 + o.b.toNat * 2 ^ 34
/-- XFENCE (R275) -/
def Xfence.dec (w : Nat) : Xfence × Bool :=
  ({ a := fld w 37 3, b := fld w 34 3 }, zer w 3 31)

/-- CSTASH (R279) -/
def Cstash.enc (o : Cstash) : Nat := o.d.toNat * 2 ^ 35 + o.sel.toNat * 2 ^ 33
/-- CSTASH (R279) -/
def Cstash.dec (w : Nat) : Cstash × Bool :=
  ({ d := fld w 35 5, sel := fld w 33 2 }, zer w 3 30)

/-- CUNSTASH (R279) -/
def Cunstash.enc (o : Cunstash) : Nat := o.d.toNat * 2 ^ 35
/-- CUNSTASH (R279) -/
def Cunstash.dec (w : Nat) : Cunstash × Bool :=
  ({ d := fld w 35 5 }, zer w 3 32)

/-- CSEND (R280) -/
def Csend.enc (o : Csend) : Nat := o.s.toNat * 2 ^ 35 + o.b.toNat * 2 ^ 30 + o.dep.toNat * 2 ^ 27 + o.dir.toNat * 2 ^ 26
/-- CSEND (R280) -/
def Csend.dec (w : Nat) : Csend × Bool :=
  ({ s := fld w 35 5, b := fld w 30 5, dep := fld w 27 3, dir := bitAt w 26 }, zer w 3 23)

/-- CFREE (R281) -/
def Cfree.enc (o : Cfree) : Nat := o.kind.toNat * 2 ^ 39
/-- CFREE (R281) -/
def Cfree.dec (w : Nat) : Cfree × Bool :=
  ({ kind := bitAt w 39 }, zer w 3 36)

/-- VRD (R142) -/
def Vrd.enc (o : Vrd) : Nat := o.pos.toNat * 2 ^ 36 + o.f.toNat * 2 ^ 32 + o.m.toNat * 2 ^ 20
/-- VRD (R142) -/
def Vrd.dec (w : Nat) : Vrd × Bool :=
  ({ pos := fld w 36 4, f := fld w 32 4, m := fld w 20 12 }, zer w 3 17)

/-- VWR (R142) -/
def Vwr.enc (o : Vwr) : Nat := o.pos.toNat * 2 ^ 36 + o.f.toNat * 2 ^ 32 + o.m.toNat * 2 ^ 20 + o.masked.toNat * 2 ^ 16 + o.pr.toNat * 2 ^ 13
/-- VWR (R142) -/
def Vwr.dec (w : Nat) : Vwr × Bool :=
  ({ pos := fld w 36 4, f := fld w 32 4, m := fld w 20 12, masked := bitAt w 16, pr := fld w 13 3 }, zer w 3 10 && zer w 17 3)

/-- flow-row slot form (R141) -/
def Slot.enc (o : Slot) : Nat := o.pos.toNat * 2 ^ 36 + o.fd.toNat * 2 ^ 32 + o.fa.toNat * 2 ^ 28 + o.fb.toNat * 2 ^ 24 + o.fc.toNat * 2 ^ 20 + o.lt.toNat * 2 ^ 17 + o.minor.toNat * 2 ^ 12 + o.imm.toNat * 2 ^ 3
/-- flow-row slot form (R141) -/
def Slot.dec (w : Nat) : Slot × Bool :=
  ({ pos := fld w 36 4, fd := fld w 32 4, fa := fld w 28 4, fb := fld w 24 4, fc := fld w 20 4, lt := fld w 17 3, minor := fld w 12 5, imm := fld w 3 9 }, true)

/-- portable register form (R143) -/
def Port.enc (o : Port) : Nat := o.lt.toNat * 2 ^ 37 + o.minor.toNat * 2 ^ 33 + o.d.toNat * 2 ^ 23 + o.a.toNat * 2 ^ 13 + o.b.toNat * 2 ^ 3
/-- portable register form (R143) -/
def Port.dec (w : Nat) : Port × Bool :=
  ({ lt := fld w 37 3, minor := fld w 33 4, d := fld w 23 10, a := fld w 13 10, b := fld w 3 10 }, true)

/-- matrix form (R144) -/
def Mat.enc (o : Mat) : Nat := o.a.toNat * 2 ^ 35 + o.b.toNat * 2 ^ 30 + o.s.toNat * 2 ^ 25 + o.row.toNat * 2 ^ 14 + o.mode.toNat * 2 ^ 10
/-- matrix form (R144) -/
def Mat.dec (w : Nat) : Mat × Bool :=
  ({ a := fld w 35 5, b := fld w 30 5, s := fld w 25 5, row := fld w 14 11, mode := fld w 10 4 }, zer w 3 7)

/-- TTOPK (R237) -/
def Ttopk.enc (o : Ttopk) : Nat := o.m.toNat * 2 ^ 35 + o.row.toNat * 2 ^ 24 + o.nr.toNat * 2 ^ 19 + o.k.toNat * 2 ^ 15 + o.max.toNat * 2 ^ 14 + o.f32.toNat * 2 ^ 13 + o.nc.toNat * 2 ^ 6
/-- TTOPK (R237) -/
def Ttopk.dec (w : Nat) : Ttopk × Bool :=
  ({ m := fld w 35 5, row := fld w 24 11, nr := fld w 19 5, k := fld w 15 4, max := bitAt w 14, f32 := bitAt w 13, nc := fld w 6 7 }, zer w 3 3)

/-- ACCRD and ACCWR (R234) -/
def AccMov.enc (o : AccMov) : Nat := o.m.toNat * 2 ^ 28 + o.row.toNat * 2 ^ 17 + o.cg.toNat * 2 ^ 15 + o.xr.toNat * 2 ^ 10
/-- ACCRD and ACCWR (R234) -/
def AccMov.dec (w : Nat) : AccMov × Bool :=
  ({ m := fld w 28 12, row := fld w 17 11, cg := fld w 15 2, xr := fld w 10 5 }, zer w 3 7)

/-- ACCZ (R234) -/
def Accz.enc (o : Accz) : Nat := o.row.toNat * 2 ^ 29 + o.n.toNat * 2 ^ 18 + o.xr.toNat * 2 ^ 13
/-- ACCZ (R234) -/
def Accz.dec (w : Nat) : Accz × Bool :=
  ({ row := fld w 29 11, n := fld w 18 11, xr := fld w 13 5 }, zer w 3 10)

end Sys2Proof
end

