-- ==== Sys2Proof/Machine/Info.lean ====
section
/-!
DEFINITION. What every instruction has in common, read off its constructor: its major opcode, P bit, prefixes, WAIT and
SIGNAL bytes (R133, R134, R147, R148), the bits of its operand fields, the sequencers that may issue it (R11, R187, R215,
R238 and the entries) and the registers it reads and writes (R12). An event of the table has no word.
-/

namespace Sys2Proof

/-- The header of an instruction's word. A short form has an issue delta of 1 and no post (R133). -/
structure Info where
  long : Bool
  major : Nat
  p : Bool
  pfx : Pfx
  wait : BitVec 8
  signal : BitVec 8
  deriving DecidableEq, Repr

def Short.info (h : Short) (major : Nat) : Info :=
  { long := false, major := major, p := h.p, pfx := h.pfx, wait := 1, signal := 0 }

def Long.info (h : Long) (major : Nat) : Info :=
  { long := true, major := major, p := h.p, pfx := h.pfx, wait := h.wait, signal := h.signal }

/-- The header of an instruction; none for an event. -/
def Instr.info : Instr → Option Info
  | .add h _ => some (h.info 0x00)
  | .sub h _ => some (h.info 0x01)
  | .and h _ => some (h.info 0x02)
  | .or h _ => some (h.info 0x03)
  | .xor h _ => some (h.info 0x04)
  | .andn h _ => some (h.info 0x05)
  | .shl h _ => some (h.info 0x06)
  | .shr h _ => some (h.info 0x07)
  | .sha h _ => some (h.info 0x08)
  | .rot h _ => some (h.info 0x09)
  | .min h _ => some (h.info 0x0A)
  | .max h _ => some (h.info 0x0B)
  | .minu h _ => some (h.info 0x0C)
  | .maxu h _ => some (h.info 0x0D)
  | .mul h _ => some (h.info 0x0E)
  | .mulh h _ => some (h.info 0x0F)
  | .div h _ => some (h.info 0x10)
  | .divu h _ => some (h.info 0x11)
  | .rem h _ => some (h.info 0x12)
  | .remu h _ => some (h.info 0x13)
  | .clz h _ => some (h.info 0x14)
  | .popc h _ => some (h.info 0x15)
  | .sel h _ => some (h.info 0x16)
  | .mov h _ => some (h.info 0x17)
  | .addi h _ => some (h.info 0x18)
  | .andi h _ => some (h.info 0x19)
  | .ori h _ => some (h.info 0x1A)
  | .xori h _ => some (h.info 0x1B)
  | .shli h _ => some (h.info 0x1C)
  | .shri h _ => some (h.info 0x1D)
  | .shai h _ => some (h.info 0x1E)
  | .li h _ => some (h.info 0x1F)
  | .cmp h _ => some (h.info 0x20)
  | .cmpi h _ => some (h.info 0x21)
  | .pand h _ => some (h.info 0x22)
  | .por h _ => some (h.info 0x23)
  | .pxor h _ => some (h.info 0x24)
  | .pnot h _ => some (h.info 0x25)
  | .pmov h _ => some (h.info 0x26)
  | .br h _ => some (h.info 0x28)
  | .bp h _ => some (h.info 0x29)
  | .bnp h _ => some (h.info 0x2A)
  | .call h _ => some (h.info 0x2B)
  | .ret h _ => some (h.info 0x2C)
  | .jmpx h _ => some (h.info 0x2D)
  | .loop h _ => some (h.info 0x2E)
  | .endl h => some (h.info 0x2F)
  | .tkpost h _ => some (h.info 0x30)
  | .tkwait h _ => some (h.info 0x31)
  | .tkcnt h _ => some (h.info 0x32)
  | .yield h => some (h.info 0x33)
  | .safept h => some (h.info 0x34)
  | .brk h _ => some (h.info 0x35)
  | .trap h _ => some (h.info 0x36)
  | .tret h => some (h.info 0x37)
  | .ldx h _ => some (h.info 0x38)
  | .stx h _ => some (h.info 0x39)
  | .rdsr h _ => some (h.info 0x3A)
  | .wrsr h _ => some (h.info 0x3B)
  | .taskend h => some (h.info 0x3C)
  | .nop h => some (h.info 0x3D)
  | .addiL h _ => some (h.info 0x00)
  | .lih h _ => some (h.info 0x01)
  | .mad h _ => some (h.info 0x02)
  | .cmpL h _ => some (h.info 0x03)
  | .loopL h _ => some (h.info 0x04)
  | .nopL h => some (h.info 0x05)
  | .crgnOpen h _ => some (h.info 0x06)
  | .crgnClose h => some (h.info 0x07)
  | .crgnAbort h => some (h.info 0x08)
  | .rotb h _ => some (h.info 0x09)
  | .setrb h _ => some (h.info 0x0A)
  | .xlate h _ => some (h.info 0x0B)
  | .hinv h _ => some (h.info 0x0C)
  | .hqry h _ => some (h.info 0x0D)
  | .pgreq h _ => some (h.info 0x0E)
  | .mxres h => some (h.info 0x0F)
  | .chkpMrf h _ => some (h.info 0x10)
  | .chkpX h _ => some (h.info 0x10)
  | .chkr h _ => some (h.info 0x11)
  | .ldg h _ => some (h.info 0x20)
  | .ldgP h _ => some (h.info 0x20)
  | .stg h _ => some (h.info 0x21)
  | .vld h _ => some (h.info 0x22)
  | .vst h _ => some (h.info 0x23)
  | .vldg h _ => some (h.info 0x24)
  | .vstg h _ => some (h.info 0x25)
  | .vldb h _ => some (h.info 0x26)
  | .bxld h _ => some (h.info 0x27)
  | .pref h _ => some (h.info 0x28)
  | .ordld h _ => some (h.info 0x29)
  | .ordst h _ => some (h.info 0x2A)
  | .waita h _ => some (h.info 0x2B)
  | .cplv h _ => some (h.info 0x40)
  | .cpgo h _ => some (h.info 0x41)
  | .cpacc h _ => some (h.info 0x42)
  | .mxstage h _ => some (h.info 0x43)
  | .bfmt h _ => some (h.info 0x44)
  | .bfmtr h _ => some (h.info 0x45)
  | .saq h _ => some (h.info 0x46)
  | .sadrain h => some (h.info 0x47)
  | .fsig h _ => some (h.info 0x48)
  | .acqL h _ => some (h.info 0x60)
  | .acqG h _ => some (h.info 0x60)
  | .relL h _ => some (h.info 0x61)
  | .relI h _ => some (h.info 0x61)
  | .bind h _ => some (h.info 0x62)
  | .unbind h _ => some (h.info 0x63)
  | .sycas h _ => some (h.info 0x64)
  | .syrd h _ => some (h.info 0x65)
  | .xfence h _ => some (h.info 0x66)
  | .cstash h _ => some (h.info 0x67)
  | .cunstash h _ => some (h.info 0x68)
  | .csend h _ => some (h.info 0x69)
  | .cfree h _ => some (h.info 0x6A)
  | .vrd h _ => some (h.info 0x80)
  | .vwr h _ => some (h.info 0x81)
  | .vbcast h _ => some (h.info 0x82)
  | .viota h _ => some (h.info 0x83)
  | .vadd h _ => some (h.info 0x84)
  | .vsub h _ => some (h.info 0x85)
  | .vmul h _ => some (h.info 0x86)
  | .vfma h _ => some (h.info 0x87)
  | .vmin h _ => some (h.info 0x88)
  | .vmax h _ => some (h.info 0x89)
  | .vabs h _ => some (h.info 0x8A)
  | .vneg h _ => some (h.info 0x8B)
  | .vand h _ => some (h.info 0x8C)
  | .vor h _ => some (h.info 0x8D)
  | .vxor h _ => some (h.info 0x8E)
  | .vnot h _ => some (h.info 0x8F)
  | .vshl h _ => some (h.info 0x90)
  | .vshr h _ => some (h.info 0x91)
  | .vsha h _ => some (h.info 0x92)
  | .vcmp h _ => some (h.info 0x93)
  | .vsel h _ => some (h.info 0x94)
  | .vcvt h _ => some (h.info 0x95)
  | .vclmp h _ => some (h.info 0x96)
  | .vscale h _ => some (h.info 0x97)
  | .vqnt h _ => some (h.info 0x98)
  | .vexp2 h _ => some (h.info 0x99)
  | .vlog2 h _ => some (h.info 0x9A)
  | .vrcp h _ => some (h.info 0x9B)
  | .vrsq h _ => some (h.info 0x9C)
  | .vtanh h _ => some (h.info 0x9D)
  | .vsumr h _ => some (h.info 0x9E)
  | .vperm h _ => some (h.info 0x9F)
  | .vmovdP h _ => some (h.info 0xA0)
  | .vbcastP h _ => some (h.info 0xA2)
  | .viotaP h _ => some (h.info 0xA3)
  | .vaddP h _ => some (h.info 0xA4)
  | .vsubP h _ => some (h.info 0xA5)
  | .vmulP h _ => some (h.info 0xA6)
  | .vfmaP h _ => some (h.info 0xA7)
  | .vminP h _ => some (h.info 0xA8)
  | .vmaxP h _ => some (h.info 0xA9)
  | .vabsP h _ => some (h.info 0xAA)
  | .vnegP h _ => some (h.info 0xAB)
  | .vandP h _ => some (h.info 0xAC)
  | .vorP h _ => some (h.info 0xAD)
  | .vxorP h _ => some (h.info 0xAE)
  | .vnotP h _ => some (h.info 0xAF)
  | .vshlP h _ => some (h.info 0xB0)
  | .vshrP h _ => some (h.info 0xB1)
  | .vshaP h _ => some (h.info 0xB2)
  | .vcmpP h _ => some (h.info 0xB3)
  | .vselP h _ => some (h.info 0xB4)
  | .vcvtP h _ => some (h.info 0xB5)
  | .vclmpP h _ => some (h.info 0xB6)
  | .vscaleP h _ => some (h.info 0xB7)
  | .vqntP h _ => some (h.info 0xB8)
  | .vexp2P h _ => some (h.info 0xB9)
  | .vlog2P h _ => some (h.info 0xBA)
  | .vrcpP h _ => some (h.info 0xBB)
  | .vrsqP h _ => some (h.info 0xBC)
  | .vtanhP h _ => some (h.info 0xBD)
  | .vsumrP h _ => some (h.info 0xBE)
  | .vpermP h _ => some (h.info 0xBF)
  | .tmma h _ => some (h.info 0xC0)
  | .tmms h _ => some (h.info 0xC1)
  | .tdist h _ => some (h.info 0xC2)
  | .ttopk h _ => some (h.info 0xC3)
  | .accrd h _ => some (h.info 0xC4)
  | .accwr h _ => some (h.info 0xC5)
  | .accz h _ => some (h.info 0xC6)
  | .launchSetupDone .. => none
  | .timedCompletion .. => none
  | .tokenStall .. => none
  | .slotResult .. => none
  | .mrfAccessStart .. => none
  | .interlockFreeze .. => none
  | .interlockThaw .. => none
  | .promisedLoadDue .. => none
  | .loadValueReturn .. => none
  | .storeAcknowledge .. => none
  | .timedCopyStart .. => none
  | .orderedCopyStart .. => none
  | .copyComplete .. => none
  | .stagedCommandIssue .. => none
  | .arrayOperandDue .. => none
  | .arrayRowFinal .. => none
  | .tableWalkEnd .. => none
  | .waitaSatisfied .. => none
  | .waitaTimeout .. => none
  | .xfenceComplete .. => none
  | .saeUpdateApply .. => none
  | .sadrainComplete .. => none
  | .hinvComplete .. => none
  | .pgreqComplete .. => none
  | .fsigStart .. => none
  | .fsigComplete .. => none
  | .csendComplete .. => none
  | .cfreeComplete .. => none
  | .orderedOpPerform .. => none
  | .syncOpPerform .. => none
  | .syncReply .. => none
  | .commitRelease .. => none
  | .strikeReport .. => none
  | .lateFault .. => none
  | .pendingCauseTaken .. => none
  | .preemptRequest .. => none
  | .coreHalt .. => none
  | .preemptDrainEnd .. => none
  | .contextSaveDone .. => none
  | .contextRestore .. => none
  | .containmentUnwind .. => none
  | .continuationStart .. => none
  | .taskCompletionEvent .. => none
  | .translationDone .. => none
  | .soundingStart .. => none
  | .soundingWindowOpen .. => none
  | .soundingEnd .. => none
  | .mapInstall .. => none
  | .hpdrvWrite .. => none
  | .kick .. => none
  | .kickService .. => none
  | .queueDescriptorWrite .. => none
  | .registerWrite .. => none
  | .errselWrite .. => none
  | .errorRecordClear .. => none
  | .nopCommand .. => none
  | .launch .. => none
  | .waitobj .. => none
  | .setobjRelI .. => none
  | .setobjRelL .. => none
  | .mark .. => none
  | .chain .. => none
  | .chainResume .. => none
  | .completionRecordWrite .. => none
  | .nodeStart .. => none
  | .nodePromotion .. => none
  | .queueCoreTakeover .. => none
  | .s1invPage .. => none
  | .s1invAll .. => none
  | .s2invPage .. => none
  | .s2invAll .. => none
  | .invalidationComplete .. => none
  | .fresolveResolve .. => none
  | .fresolveRefuse .. => none
  | .migpoolWrite .. => none
  | .migclrPage .. => none
  | .migclrAll .. => none
  | .read .. => none
  | .write .. => none
  | .answer .. => none
  | .sync .. => none
  | .ordered .. => none
  | .fsigPacket .. => none
  | .pgreqPacket .. => none
  | .mcwrite .. => none
  | .migrate .. => none
  | .mgmt .. => none
  | .packetForward .. => none
  | .pageMigration .. => none
  | .remoteTimeout .. => none
  | .linkTraining .. => none
  | .linkFailure .. => none
  | .stload .. => none
  | .slotTableStart .. => none
  | .mcdataWrite .. => none
  | .hello .. => none
  | .chainEntryIssue .. => none
  | .chainSyncEntryIssue .. => none
  | .chainSyncComplete .. => none
  | .chainGraphComplete .. => none
  | .slotFree .. => none
  | .chainPayloadLanded .. => none
  | .pstepWrite .. => none
  | .pstepPins .. => none
  | .kindlingStep .. => none
  | .pfail .. => none
  | .emberDrainTimeout .. => none
  | .emberImageWritten .. => none
  | .reset .. => none
  | .embstatResume .. => none
  | .embstatDiscard .. => none
  | .soundingWindowArm .. => none
  | .mapreq .. => none
  | .ckptctlWrite .. => none
  | .markRecord .. => none
  | .checkpointPageCopy .. => none
  | .stagedWriteAdmit .. => none
  | .sensorEvent .. => none
  | .cfgload .. => none
  | .qreq .. => none
  | .uncorrectableError .. => none
  | .firmwareUpdate .. => none
  | .reProvisioning .. => none

/-- The operand bits of an instruction's word, with the bits that tell variants of one major apart (R148). -/
def Instr.body : Instr → Nat
  | .add _ o => o.enc
  | .sub _ o => o.enc
  | .and _ o => o.enc
  | .or _ o => o.enc
  | .xor _ o => o.enc
  | .andn _ o => o.enc
  | .shl _ o => o.enc
  | .shr _ o => o.enc
  | .sha _ o => o.enc
  | .rot _ o => o.enc
  | .min _ o => o.enc
  | .max _ o => o.enc
  | .minu _ o => o.enc
  | .maxu _ o => o.enc
  | .mul _ o => o.enc
  | .mulh _ o => o.enc
  | .div _ o => o.enc
  | .divu _ o => o.enc
  | .rem _ o => o.enc
  | .remu _ o => o.enc
  | .clz _ o => o.enc
  | .popc _ o => o.enc
  | .sel _ o => o.enc
  | .mov _ o => o.enc
  | .addi _ o => o.enc
  | .andi _ o => o.enc
  | .ori _ o => o.enc
  | .xori _ o => o.enc
  | .shli _ o => o.enc
  | .shri _ o => o.enc
  | .shai _ o => o.enc
  | .li _ o => o.enc
  | .cmp _ o => o.enc
  | .cmpi _ o => o.enc
  | .pand _ o => o.enc
  | .por _ o => o.enc
  | .pxor _ o => o.enc
  | .pnot _ o => o.enc
  | .pmov _ o => o.enc
  | .br _ o => o.enc
  | .bp _ o => o.enc
  | .bnp _ o => o.enc
  | .call _ o => o.enc
  | .ret _ o => o.enc
  | .jmpx _ o => o.enc
  | .loop _ o => o.enc
  | .endl _ => 0
  | .tkpost _ o => o.enc
  | .tkwait _ o => o.enc
  | .tkcnt _ o => o.enc
  | .yield _ => 0
  | .safept _ => 0
  | .brk _ o => o.enc
  | .trap _ o => o.enc
  | .tret _ => 0
  | .ldx _ o => o.enc
  | .stx _ o => o.enc
  | .rdsr _ o => o.enc
  | .wrsr _ o => o.enc
  | .taskend _ => 0
  | .nop _ => 0
  | .addiL _ o => o.enc
  | .lih _ o => o.enc
  | .mad _ o => o.enc
  | .cmpL _ o => o.enc
  | .loopL _ o => o.enc
  | .nopL _ => 0
  | .crgnOpen _ o => o.enc
  | .crgnClose _ => 0
  | .crgnAbort _ => 0
  | .rotb _ o => o.enc
  | .setrb _ o => o.enc
  | .xlate _ o => o.enc
  | .hinv _ o => o.enc
  | .hqry _ o => o.enc
  | .pgreq _ o => o.enc
  | .mxres _ => 0
  | .chkpMrf _ o => o.enc + 0 * 2 ^ 39
  | .chkpX _ o => o.enc + 1 * 2 ^ 39
  | .chkr _ o => o.enc
  | .ldg _ o => o.enc + 0 * 2 ^ 21
  | .ldgP _ o => o.enc + 1 * 2 ^ 21
  | .stg _ o => o.enc
  | .vld _ o => o.enc
  | .vst _ o => o.enc
  | .vldg _ o => o.enc
  | .vstg _ o => o.enc
  | .vldb _ o => o.enc
  | .bxld _ o => o.enc
  | .pref _ o => o.enc
  | .ordld _ o => o.enc
  | .ordst _ o => o.enc
  | .waita _ o => o.enc
  | .cplv _ o => o.enc
  | .cpgo _ o => o.enc
  | .cpacc _ o => o.enc
  | .mxstage _ o => o.enc
  | .bfmt _ o => o.enc
  | .bfmtr _ o => o.enc
  | .saq _ o => o.enc
  | .sadrain _ => 0
  | .fsig _ o => o.enc
  | .acqL _ o => o.enc + 0 * 2 ^ 28
  | .acqG _ o => o.enc + 1 * 2 ^ 28
  | .relL _ o => o.enc + 0 * 2 ^ 28
  | .relI _ o => o.enc + 1 * 2 ^ 28
  | .bind _ o => o.enc
  | .unbind _ o => o.enc
  | .sycas _ o => o.enc
  | .syrd _ o => o.enc
  | .xfence _ o => o.enc
  | .cstash _ o => o.enc
  | .cunstash _ o => o.enc
  | .csend _ o => o.enc
  | .cfree _ o => o.enc
  | .vrd _ o => o.enc
  | .vwr _ o => o.enc
  | .vbcast _ o => o.enc
  | .viota _ o => o.enc
  | .vadd _ o => o.enc
  | .vsub _ o => o.enc
  | .vmul _ o => o.enc
  | .vfma _ o => o.enc
  | .vmin _ o => o.enc
  | .vmax _ o => o.enc
  | .vabs _ o => o.enc
  | .vneg _ o => o.enc
  | .vand _ o => o.enc
  | .vor _ o => o.enc
  | .vxor _ o => o.enc
  | .vnot _ o => o.enc
  | .vshl _ o => o.enc
  | .vshr _ o => o.enc
  | .vsha _ o => o.enc
  | .vcmp _ o => o.enc
  | .vsel _ o => o.enc
  | .vcvt _ o => o.enc
  | .vclmp _ o => o.enc
  | .vscale _ o => o.enc
  | .vqnt _ o => o.enc
  | .vexp2 _ o => o.enc
  | .vlog2 _ o => o.enc
  | .vrcp _ o => o.enc
  | .vrsq _ o => o.enc
  | .vtanh _ o => o.enc
  | .vsumr _ o => o.enc
  | .vperm _ o => o.enc
  | .vmovdP _ o => o.enc
  | .vbcastP _ o => o.enc
  | .viotaP _ o => o.enc
  | .vaddP _ o => o.enc
  | .vsubP _ o => o.enc
  | .vmulP _ o => o.enc
  | .vfmaP _ o => o.enc
  | .vminP _ o => o.enc
  | .vmaxP _ o => o.enc
  | .vabsP _ o => o.enc
  | .vnegP _ o => o.enc
  | .vandP _ o => o.enc
  | .vorP _ o => o.enc
  | .vxorP _ o => o.enc
  | .vnotP _ o => o.enc
  | .vshlP _ o => o.enc
  | .vshrP _ o => o.enc
  | .vshaP _ o => o.enc
  | .vcmpP _ o => o.enc
  | .vselP _ o => o.enc
  | .vcvtP _ o => o.enc
  | .vclmpP _ o => o.enc
  | .vscaleP _ o => o.enc
  | .vqntP _ o => o.enc
  | .vexp2P _ o => o.enc
  | .vlog2P _ o => o.enc
  | .vrcpP _ o => o.enc
  | .vrsqP _ o => o.enc
  | .vtanhP _ o => o.enc
  | .vsumrP _ o => o.enc
  | .vpermP _ o => o.enc
  | .tmma _ o => o.enc
  | .tmms _ o => o.enc
  | .tdist _ o => o.enc
  | .ttopk _ o => o.enc
  | .accrd _ o => o.enc
  | .accwr _ o => o.enc
  | .accz _ o => o.enc
  | .launchSetupDone .. => 0
  | .timedCompletion .. => 0
  | .tokenStall .. => 0
  | .slotResult .. => 0
  | .mrfAccessStart .. => 0
  | .interlockFreeze .. => 0
  | .interlockThaw .. => 0
  | .promisedLoadDue .. => 0
  | .loadValueReturn .. => 0
  | .storeAcknowledge .. => 0
  | .timedCopyStart .. => 0
  | .orderedCopyStart .. => 0
  | .copyComplete .. => 0
  | .stagedCommandIssue .. => 0
  | .arrayOperandDue .. => 0
  | .arrayRowFinal .. => 0
  | .tableWalkEnd .. => 0
  | .waitaSatisfied .. => 0
  | .waitaTimeout .. => 0
  | .xfenceComplete .. => 0
  | .saeUpdateApply .. => 0
  | .sadrainComplete .. => 0
  | .hinvComplete .. => 0
  | .pgreqComplete .. => 0
  | .fsigStart .. => 0
  | .fsigComplete .. => 0
  | .csendComplete .. => 0
  | .cfreeComplete .. => 0
  | .orderedOpPerform .. => 0
  | .syncOpPerform .. => 0
  | .syncReply .. => 0
  | .commitRelease .. => 0
  | .strikeReport .. => 0
  | .lateFault .. => 0
  | .pendingCauseTaken .. => 0
  | .preemptRequest .. => 0
  | .coreHalt .. => 0
  | .preemptDrainEnd .. => 0
  | .contextSaveDone .. => 0
  | .contextRestore .. => 0
  | .containmentUnwind .. => 0
  | .continuationStart .. => 0
  | .taskCompletionEvent .. => 0
  | .translationDone .. => 0
  | .soundingStart .. => 0
  | .soundingWindowOpen .. => 0
  | .soundingEnd .. => 0
  | .mapInstall .. => 0
  | .hpdrvWrite .. => 0
  | .kick .. => 0
  | .kickService .. => 0
  | .queueDescriptorWrite .. => 0
  | .registerWrite .. => 0
  | .errselWrite .. => 0
  | .errorRecordClear .. => 0
  | .nopCommand .. => 0
  | .launch .. => 0
  | .waitobj .. => 0
  | .setobjRelI .. => 0
  | .setobjRelL .. => 0
  | .mark .. => 0
  | .chain .. => 0
  | .chainResume .. => 0
  | .completionRecordWrite .. => 0
  | .nodeStart .. => 0
  | .nodePromotion .. => 0
  | .queueCoreTakeover .. => 0
  | .s1invPage .. => 0
  | .s1invAll .. => 0
  | .s2invPage .. => 0
  | .s2invAll .. => 0
  | .invalidationComplete .. => 0
  | .fresolveResolve .. => 0
  | .fresolveRefuse .. => 0
  | .migpoolWrite .. => 0
  | .migclrPage .. => 0
  | .migclrAll .. => 0
  | .read .. => 0
  | .write .. => 0
  | .answer .. => 0
  | .sync .. => 0
  | .ordered .. => 0
  | .fsigPacket .. => 0
  | .pgreqPacket .. => 0
  | .mcwrite .. => 0
  | .migrate .. => 0
  | .mgmt .. => 0
  | .packetForward .. => 0
  | .pageMigration .. => 0
  | .remoteTimeout .. => 0
  | .linkTraining .. => 0
  | .linkFailure .. => 0
  | .stload .. => 0
  | .slotTableStart .. => 0
  | .mcdataWrite .. => 0
  | .hello .. => 0
  | .chainEntryIssue .. => 0
  | .chainSyncEntryIssue .. => 0
  | .chainSyncComplete .. => 0
  | .chainGraphComplete .. => 0
  | .slotFree .. => 0
  | .chainPayloadLanded .. => 0
  | .pstepWrite .. => 0
  | .pstepPins .. => 0
  | .kindlingStep .. => 0
  | .pfail .. => 0
  | .emberDrainTimeout .. => 0
  | .emberImageWritten .. => 0
  | .reset .. => 0
  | .embstatResume .. => 0
  | .embstatDiscard .. => 0
  | .soundingWindowArm .. => 0
  | .mapreq .. => 0
  | .ckptctlWrite .. => 0
  | .markRecord .. => 0
  | .checkpointPageCopy .. => 0
  | .stagedWriteAdmit .. => 0
  | .sensorEvent .. => 0
  | .cfgload .. => 0
  | .qreq .. => 0
  | .uncorrectableError .. => 0
  | .firmwareUpdate .. => 0
  | .reProvisioning .. => 0

/-- The sequencers that may issue an instruction (R11, R187, R215, R238 and the entries); any, where a form has no limit. -/
def Instr.seqs : Instr → List SeqId
  | .add .. => [.ct, .ld, .mx, .st]
  | .sub .. => [.ct, .ld, .mx, .st]
  | .and .. => [.ct, .ld, .mx, .st]
  | .or .. => [.ct, .ld, .mx, .st]
  | .xor .. => [.ct, .ld, .mx, .st]
  | .andn .. => [.ct, .ld, .mx, .st]
  | .shl .. => [.ct, .ld, .mx, .st]
  | .shr .. => [.ct, .ld, .mx, .st]
  | .sha .. => [.ct, .ld, .mx, .st]
  | .rot .. => [.ct, .ld, .mx, .st]
  | .min .. => [.ct, .ld, .mx, .st]
  | .max .. => [.ct, .ld, .mx, .st]
  | .minu .. => [.ct, .ld, .mx, .st]
  | .maxu .. => [.ct, .ld, .mx, .st]
  | .mul .. => [.ct, .ld, .mx, .st]
  | .mulh .. => [.ct, .ld, .mx, .st]
  | .div .. => [.ct, .ld, .mx, .st]
  | .divu .. => [.ct, .ld, .mx, .st]
  | .rem .. => [.ct, .ld, .mx, .st]
  | .remu .. => [.ct, .ld, .mx, .st]
  | .clz .. => [.ct, .ld, .mx, .st]
  | .popc .. => [.ct, .ld, .mx, .st]
  | .sel .. => [.ct, .ld, .mx, .st]
  | .mov .. => [.ct, .ld, .mx, .st]
  | .addi .. => [.ct, .ld, .mx, .st]
  | .andi .. => [.ct, .ld, .mx, .st]
  | .ori .. => [.ct, .ld, .mx, .st]
  | .xori .. => [.ct, .ld, .mx, .st]
  | .shli .. => [.ct, .ld, .mx, .st]
  | .shri .. => [.ct, .ld, .mx, .st]
  | .shai .. => [.ct, .ld, .mx, .st]
  | .li .. => [.ct, .ld, .mx, .st]
  | .cmp .. => [.ct, .ld, .mx, .st]
  | .cmpi .. => [.ct, .ld, .mx, .st]
  | .pand .. => [.ct, .ld, .mx, .st]
  | .por .. => [.ct, .ld, .mx, .st]
  | .pxor .. => [.ct, .ld, .mx, .st]
  | .pnot .. => [.ct, .ld, .mx, .st]
  | .pmov .. => [.ct, .ld, .mx, .st]
  | .br .. => [.ct, .ld, .mx, .st]
  | .bp .. => [.ct, .ld, .mx, .st]
  | .bnp .. => [.ct, .ld, .mx, .st]
  | .call .. => [.ct, .ld, .mx, .st]
  | .ret .. => [.ct, .ld, .mx, .st]
  | .jmpx .. => [.ct, .ld, .mx, .st]
  | .loop .. => [.ct, .ld, .mx, .st]
  | .endl .. => [.ct, .ld, .mx, .st]
  | .tkpost .. => [.ct, .ld, .mx, .st]
  | .tkwait .. => [.ct, .ld, .mx, .st]
  | .tkcnt .. => [.ct, .ld, .mx, .st]
  | .yield .. => [.ct, .ld, .mx, .st]
  | .safept .. => [.ct]
  | .brk .. => [.ct, .ld, .mx, .st]
  | .trap .. => [.ct, .ld, .mx, .st]
  | .tret .. => [.ct]
  | .ldx .. => [.ct, .ld, .st]
  | .stx .. => [.ct, .ld, .st]
  | .rdsr .. => [.ct, .ld, .mx, .st]
  | .wrsr .. => [.ct, .ld, .mx, .st]
  | .taskend .. => [.ct, .ld, .mx, .st]
  | .nop .. => [.ct, .ld, .mx, .st]
  | .addiL .. => [.ct, .ld, .mx, .st]
  | .lih .. => [.ct, .ld, .mx, .st]
  | .mad .. => [.ct, .ld, .mx, .st]
  | .cmpL .. => [.ct, .ld, .mx, .st]
  | .loopL .. => [.ct, .ld, .mx, .st]
  | .nopL .. => [.ct, .ld, .mx, .st]
  | .crgnOpen .. => [.ct]
  | .crgnClose .. => [.ct]
  | .crgnAbort .. => [.ct]
  | .rotb .. => [.ct]
  | .setrb .. => [.ct]
  | .xlate .. => [.ct]
  | .hinv .. => [.ct]
  | .hqry .. => [.ct]
  | .pgreq .. => [.ct]
  | .mxres .. => [.ct]
  | .chkpMrf .. => [.mx]
  | .chkpX .. => [.ct, .ld, .mx, .st]
  | .chkr .. => [.ct]
  | .ldg .. => [.ct, .ld, .st]
  | .ldgP .. => [.ct, .ld, .st]
  | .stg .. => [.ct, .ld, .st]
  | .vld .. => [.ld]
  | .vst .. => [.st]
  | .vldg .. => [.ld]
  | .vstg .. => [.st]
  | .vldb .. => [.ld]
  | .bxld .. => [.ld]
  | .pref .. => [.ld]
  | .ordld .. => [.ct]
  | .ordst .. => [.ct]
  | .waita .. => [.ld, .st]
  | .cplv .. => [.ld, .st]
  | .cpgo .. => [.ld, .st]
  | .cpacc .. => [.ld, .st]
  | .mxstage .. => [.ld, .st]
  | .bfmt .. => [.ct, .ld, .st]
  | .bfmtr .. => [.ct, .ld, .st]
  | .saq .. => [.st]
  | .sadrain .. => [.st]
  | .fsig .. => [.st]
  | .acqL .. => [.ct]
  | .acqG .. => [.ct]
  | .relL .. => [.ct]
  | .relI .. => [.ct]
  | .bind .. => [.ct]
  | .unbind .. => [.ct]
  | .sycas .. => [.ct]
  | .syrd .. => [.ct]
  | .xfence .. => [.ct, .ld, .st]
  | .cstash .. => [.ct]
  | .cunstash .. => [.ct]
  | .csend .. => [.st]
  | .cfree .. => [.ct]
  | .vrd .. => [.mx]
  | .vwr .. => [.mx]
  | .vbcast .. => [.mx]
  | .viota .. => [.mx]
  | .vadd .. => [.mx]
  | .vsub .. => [.mx]
  | .vmul .. => [.mx]
  | .vfma .. => [.mx]
  | .vmin .. => [.mx]
  | .vmax .. => [.mx]
  | .vabs .. => [.mx]
  | .vneg .. => [.mx]
  | .vand .. => [.mx]
  | .vor .. => [.mx]
  | .vxor .. => [.mx]
  | .vnot .. => [.mx]
  | .vshl .. => [.mx]
  | .vshr .. => [.mx]
  | .vsha .. => [.mx]
  | .vcmp .. => [.mx]
  | .vsel .. => [.mx]
  | .vcvt .. => [.mx]
  | .vclmp .. => [.mx]
  | .vscale .. => [.mx]
  | .vqnt .. => [.mx]
  | .vexp2 .. => [.mx]
  | .vlog2 .. => [.mx]
  | .vrcp .. => [.mx]
  | .vrsq .. => [.mx]
  | .vtanh .. => [.mx]
  | .vsumr .. => [.mx]
  | .vperm .. => [.mx]
  | .vmovdP .. => [.mx]
  | .vbcastP .. => [.mx]
  | .viotaP .. => [.mx]
  | .vaddP .. => [.mx]
  | .vsubP .. => [.mx]
  | .vmulP .. => [.mx]
  | .vfmaP .. => [.mx]
  | .vminP .. => [.mx]
  | .vmaxP .. => [.mx]
  | .vabsP .. => [.mx]
  | .vnegP .. => [.mx]
  | .vandP .. => [.mx]
  | .vorP .. => [.mx]
  | .vxorP .. => [.mx]
  | .vnotP .. => [.mx]
  | .vshlP .. => [.mx]
  | .vshrP .. => [.mx]
  | .vshaP .. => [.mx]
  | .vcmpP .. => [.mx]
  | .vselP .. => [.mx]
  | .vcvtP .. => [.mx]
  | .vclmpP .. => [.mx]
  | .vscaleP .. => [.mx]
  | .vqntP .. => [.mx]
  | .vexp2P .. => [.mx]
  | .vlog2P .. => [.mx]
  | .vrcpP .. => [.mx]
  | .vrsqP .. => [.mx]
  | .vtanhP .. => [.mx]
  | .vsumrP .. => [.mx]
  | .vpermP .. => [.mx]
  | .tmma .. => [.mx]
  | .tmms .. => [.mx]
  | .tdist .. => [.mx]
  | .ttopk .. => [.mx]
  | .accrd .. => [.mx]
  | .accwr .. => [.mx]
  | .accz .. => [.mx]
  | .launchSetupDone .. => []
  | .timedCompletion .. => []
  | .tokenStall .. => []
  | .slotResult .. => []
  | .mrfAccessStart .. => []
  | .interlockFreeze .. => []
  | .interlockThaw .. => []
  | .promisedLoadDue .. => []
  | .loadValueReturn .. => []
  | .storeAcknowledge .. => []
  | .timedCopyStart .. => []
  | .orderedCopyStart .. => []
  | .copyComplete .. => []
  | .stagedCommandIssue .. => []
  | .arrayOperandDue .. => []
  | .arrayRowFinal .. => []
  | .tableWalkEnd .. => []
  | .waitaSatisfied .. => []
  | .waitaTimeout .. => []
  | .xfenceComplete .. => []
  | .saeUpdateApply .. => []
  | .sadrainComplete .. => []
  | .hinvComplete .. => []
  | .pgreqComplete .. => []
  | .fsigStart .. => []
  | .fsigComplete .. => []
  | .csendComplete .. => []
  | .cfreeComplete .. => []
  | .orderedOpPerform .. => []
  | .syncOpPerform .. => []
  | .syncReply .. => []
  | .commitRelease .. => []
  | .strikeReport .. => []
  | .lateFault .. => []
  | .pendingCauseTaken .. => []
  | .preemptRequest .. => []
  | .coreHalt .. => []
  | .preemptDrainEnd .. => []
  | .contextSaveDone .. => []
  | .contextRestore .. => []
  | .containmentUnwind .. => []
  | .continuationStart .. => []
  | .taskCompletionEvent .. => []
  | .translationDone .. => []
  | .soundingStart .. => []
  | .soundingWindowOpen .. => []
  | .soundingEnd .. => []
  | .mapInstall .. => []
  | .hpdrvWrite .. => []
  | .kick .. => []
  | .kickService .. => []
  | .queueDescriptorWrite .. => []
  | .registerWrite .. => []
  | .errselWrite .. => []
  | .errorRecordClear .. => []
  | .nopCommand .. => []
  | .launch .. => []
  | .waitobj .. => []
  | .setobjRelI .. => []
  | .setobjRelL .. => []
  | .mark .. => []
  | .chain .. => []
  | .chainResume .. => []
  | .completionRecordWrite .. => []
  | .nodeStart .. => []
  | .nodePromotion .. => []
  | .queueCoreTakeover .. => []
  | .s1invPage .. => []
  | .s1invAll .. => []
  | .s2invPage .. => []
  | .s2invAll .. => []
  | .invalidationComplete .. => []
  | .fresolveResolve .. => []
  | .fresolveRefuse .. => []
  | .migpoolWrite .. => []
  | .migclrPage .. => []
  | .migclrAll .. => []
  | .read .. => []
  | .write .. => []
  | .answer .. => []
  | .sync .. => []
  | .ordered .. => []
  | .fsigPacket .. => []
  | .pgreqPacket .. => []
  | .mcwrite .. => []
  | .migrate .. => []
  | .mgmt .. => []
  | .packetForward .. => []
  | .pageMigration .. => []
  | .remoteTimeout .. => []
  | .linkTraining .. => []
  | .linkFailure .. => []
  | .stload .. => []
  | .slotTableStart .. => []
  | .mcdataWrite .. => []
  | .hello .. => []
  | .chainEntryIssue .. => []
  | .chainSyncEntryIssue .. => []
  | .chainSyncComplete .. => []
  | .chainGraphComplete .. => []
  | .slotFree .. => []
  | .chainPayloadLanded .. => []
  | .pstepWrite .. => []
  | .pstepPins .. => []
  | .kindlingStep .. => []
  | .pfail .. => []
  | .emberDrainTimeout .. => []
  | .emberImageWritten .. => []
  | .reset .. => []
  | .embstatResume .. => []
  | .embstatDiscard .. => []
  | .soundingWindowArm .. => []
  | .mapreq .. => []
  | .ckptctlWrite .. => []
  | .markRecord .. => []
  | .checkpointPageCopy .. => []
  | .stagedWriteAdmit .. => []
  | .sensorEvent .. => []
  | .cfgload .. => []
  | .qreq .. => []
  | .uncorrectableError .. => []
  | .firmwareUpdate .. => []
  | .reProvisioning .. => []

/-- The X, P and handle registers an instruction reads and writes: what the interlock of R12 waits on. -/
structure Regs where
  xs : List (BitVec 5)
  xd : List (BitVec 5)
  ps : List (BitVec 3)
  pd : List (BitVec 3)
  hs : List (BitVec 5)
  hd : List (BitVec 5)
  deriving DecidableEq, Repr

def Regs.none : Regs := ⟨[], [], [], [], [], []⟩

def RRR.regs (o : RRR) : Regs := ⟨[o.a, o.b], [o.d], [], [], [], []⟩
def RR.regs (o : RR) : Regs := ⟨[o.a], [o.d], [], [], [], []⟩
def Sel.regs (o : Sel) : Regs := ⟨[o.a, o.b], [o.d], [o.t], [], [], []⟩
def Mov.regs (o : Mov) : Regs := ⟨[o.a], [o.d], [], [], [], []⟩
def RI.regs (o : RI) : Regs := ⟨[o.a], [o.d], [], [], [], []⟩
def Li.regs (o : Li) : Regs := ⟨[], [o.d], [], [], [], []⟩
def Cmp.regs (o : Cmp) : Regs := ⟨[o.a, o.b], [], [], [o.e], [], []⟩
def Cmpi.regs (o : Cmpi) : Regs := ⟨[o.a], [], [], [o.e], [], []⟩
def PPP.regs (o : PPP) : Regs := ⟨[], [], [o.f, o.g], [o.e], [], []⟩
def PP.regs (o : PP) : Regs := ⟨[], [], [o.f], [o.e], [], []⟩
def BrP.regs (o : BrP) : Regs := ⟨[], [], [o.f], [], [], []⟩
def JmpX.regs (o : JmpX) : Regs := ⟨[o.a], [], [], [], [], []⟩
def LoopX.regs (o : LoopX) : Regs := ⟨[o.a], [], [], [], [], []⟩
def TkCnt.regs (o : TkCnt) : Regs := ⟨[], [o.d], [], [], [], []⟩
def Ldx.regs (o : Ldx) : Regs := ⟨[o.a], [o.d], [], [], [], []⟩
def Stx.regs (o : Stx) : Regs := ⟨[o.s, o.a], [], [], [], [], []⟩
def Rdsr.regs (o : Rdsr) : Regs := ⟨[], [o.d], [], [], [], []⟩
def Wrsr.regs (o : Wrsr) : Regs := ⟨[o.a], [], [], [], [], []⟩
def AddiL.regs (o : AddiL) : Regs := ⟨[o.a], [o.d], [], [], [], []⟩
def Lih.regs (o : Lih) : Regs := ⟨[o.d], [o.d], [], [], [], []⟩
def Mad.regs (o : Mad) : Regs := ⟨[o.a, o.b, o.c], [o.d], [], [], [], []⟩
def CmpL.regs (o : CmpL) : Regs := ⟨[o.a], [], [], [o.e], [], []⟩
def Xlate.regs (o : Xlate) : Regs := ⟨[o.a], [], [], [], [], [o.h]⟩
/-- HINV.all writes every handle (R243). -/
def Hinv.regs (o : Hinv) : Regs := ⟨[], [], [], [], [], if o.all then (List.range 32).map (BitVec.ofNat 5) else [o.h]⟩
def Hqry.regs (o : Hqry) : Regs := ⟨[], [o.d], [], [], [o.h], []⟩
def HX.regs (o : HX) : Regs := ⟨[o.o], [], [], [], [o.h], []⟩
def Ldg.regs (o : Ldg) : Regs := ⟨[o.o], [o.d], [], [], [o.h], []⟩
def LdgP.regs (o : LdgP) : Regs := ⟨[o.o], [o.d], [], [o.f], [o.h], []⟩
def Stg.regs (o : Stg) : Regs := ⟨[o.s, o.o], [], [], [], [o.h], []⟩
def Vld.regs (o : Vld) : Regs := ⟨[o.a], [], [], [], [], []⟩
def Vst.regs (o : Vst) : Regs := ⟨[o.a], [], [], [], [], []⟩
def Vldg.regs (o : Vldg) : Regs := ⟨[o.o], [], [], [o.f], [o.h], []⟩
def Vstg.regs (o : Vstg) : Regs := ⟨[o.o], [], [], [], [o.h], []⟩
def Vldb.regs (o : Vldb) : Regs := ⟨[o.a], [], [], [], [], []⟩
def Bxld.regs (o : Bxld) : Regs := ⟨[o.a], [], [], [], [], []⟩
def OrdLd.regs (o : OrdLd) : Regs := ⟨[o.o], [o.d], [], [], [o.h], []⟩
def OrdSt.regs (o : OrdSt) : Regs := ⟨[o.s, o.o], [], [], [], [o.h], []⟩
def Waita.regs (o : Waita) : Regs := ⟨[o.a, o.v], [], [], [o.e], [], []⟩
def Cplv.regs (o : Cplv) : Regs := ⟨[o.c, o.s, o.d], [], [], [], [], []⟩
def Cpgo.regs (o : Cpgo) : Regs := ⟨[o.d, o.s, o.b, o.f, o.v], [], [], [], [], []⟩
def Cpacc.regs (o : Cpacc) : Regs := ⟨[o.d], [], [], [], [], []⟩
/-- The predicate that a mode with MSKN reads: P7 (R217). -/
def maskReg (mode : BitVec 4) : List (BitVec 3) := if mode.getLsbD 2 then [7] else []
def MxStage.regs (o : MxStage) : Regs := ⟨[o.a, o.b, o.s], [], maskReg o.mode, [], [], []⟩
def Bfmtr.regs (o : Bfmtr) : Regs := ⟨[o.a], [], [], [], [], []⟩
def Saq.regs (o : Saq) : Regs := ⟨[o.b, o.i, o.v, o.n], [], [], [], [], []⟩
def Fsig.regs (o : Fsig) : Regs := ⟨[o.t, o.v], [], [], [], [], []⟩
def Obj.regs (o : Obj) : Regs := ⟨[o.a], [], [], [], [], []⟩
def ObjV.regs (o : ObjV) : Regs := ⟨[o.a, o.b], [], [], [], [], []⟩
def Bind.regs (o : Bind) : Regs := ⟨[o.a, o.b, o.l], [], [], [], [], []⟩
def Sycas.regs (o : Sycas) : Regs := ⟨[o.a, o.e, o.n], [o.d], [], [], [], []⟩
def Syrd.regs (o : Syrd) : Regs := ⟨[o.a], [o.d], [], [], [], []⟩
def Cstash.regs (o : Cstash) : Regs := ⟨[], [o.d], [], [], [], []⟩
def Cunstash.regs (o : Cunstash) : Regs := ⟨[], [o.d], [], [], [], []⟩
def Csend.regs (o : Csend) : Regs := ⟨[o.s, o.b], [], [], [], [], []⟩
def ChkpX.regs (o : ChkpX) : Regs := ⟨[o.a], [], [], [], [], []⟩
/-- CHKR runs on CT: a predicate register of CT's own is a register of its sequencer (R12, R186). -/
def Chkr.regs (o : Chkr) : Regs := ⟨[], [], if o.sq = 0 then [o.pr] else [], [], [], []⟩
def Vwr.regs (o : Vwr) : Regs := ⟨[], [], if o.masked then [o.pr] else [], [], [], []⟩
/-- VBCAST with SRC = 1 reads the X register that IMM9 names (R195). -/
def Slot.bcastRegs (o : Slot) : Regs := ⟨if o.minor.getLsbD 0 then [o.imm.setWidth 5] else [], [], [], [], [], []⟩
def Mat.regs (o : Mat) : Regs := ⟨[o.a, o.b, o.s], [], maskReg o.mode, [], [], []⟩
def AccMov.regs (o : AccMov) : Regs := ⟨[o.xr], [], [], [], [], []⟩
def Accz.regs (o : Accz) : Regs := ⟨[o.xr], [], [], [], [], []⟩

/-- The registers of an instruction's operand fields, with X31 for CALL's link (R166) and the PRED register. -/
def Instr.regs : Instr → Regs
  | .add _ o => o.regs
  | .sub _ o => o.regs
  | .and _ o => o.regs
  | .or _ o => o.regs
  | .xor _ o => o.regs
  | .andn _ o => o.regs
  | .shl _ o => o.regs
  | .shr _ o => o.regs
  | .sha _ o => o.regs
  | .rot _ o => o.regs
  | .min _ o => o.regs
  | .max _ o => o.regs
  | .minu _ o => o.regs
  | .maxu _ o => o.regs
  | .mul _ o => o.regs
  | .mulh _ o => o.regs
  | .div _ o => o.regs
  | .divu _ o => o.regs
  | .rem _ o => o.regs
  | .remu _ o => o.regs
  | .clz _ o => o.regs
  | .popc _ o => o.regs
  | .sel _ o => o.regs
  | .mov _ o => o.regs
  | .addi _ o => o.regs
  | .andi _ o => o.regs
  | .ori _ o => o.regs
  | .xori _ o => o.regs
  | .shli _ o => o.regs
  | .shri _ o => o.regs
  | .shai _ o => o.regs
  | .li _ o => o.regs
  | .cmp _ o => o.regs
  | .cmpi _ o => o.regs
  | .pand _ o => o.regs
  | .por _ o => o.regs
  | .pxor _ o => o.regs
  | .pnot _ o => o.regs
  | .pmov _ o => o.regs
  | .br .. => Regs.none
  | .bp _ o => o.regs
  | .bnp _ o => o.regs
  | .call _ _ => { Regs.none with xd := [31] }
  | .ret _ o => o.regs
  | .jmpx _ o => o.regs
  | .loop _ o => o.regs
  | .endl .. => Regs.none
  | .tkpost .. => Regs.none
  | .tkwait .. => Regs.none
  | .tkcnt _ o => o.regs
  | .yield .. => Regs.none
  | .safept .. => Regs.none
  | .brk .. => Regs.none
  | .trap .. => Regs.none
  | .tret .. => Regs.none
  | .ldx _ o => o.regs
  | .stx _ o => o.regs
  | .rdsr _ o => o.regs
  | .wrsr _ o => o.regs
  | .taskend .. => Regs.none
  | .nop .. => Regs.none
  | .addiL _ o => o.regs
  | .lih _ o => o.regs
  | .mad _ o => o.regs
  | .cmpL _ o => o.regs
  | .loopL .. => Regs.none
  | .nopL .. => Regs.none
  | .crgnOpen .. => Regs.none
  | .crgnClose .. => Regs.none
  | .crgnAbort .. => Regs.none
  | .rotb .. => Regs.none
  | .setrb .. => Regs.none
  | .xlate _ o => o.regs
  | .hinv _ o => o.regs
  | .hqry _ o => o.regs
  | .pgreq _ o => o.regs
  | .mxres .. => Regs.none
  | .chkpMrf .. => Regs.none
  | .chkpX _ o => o.regs
  | .chkr _ o => o.regs
  | .ldg _ o => o.regs
  | .ldgP _ o => o.regs
  | .stg _ o => o.regs
  | .vld _ o => o.regs
  | .vst _ o => o.regs
  | .vldg _ o => o.regs
  | .vstg _ o => o.regs
  | .vldb _ o => o.regs
  | .bxld _ o => o.regs
  | .pref _ o => o.regs
  | .ordld _ o => o.regs
  | .ordst _ o => o.regs
  | .waita _ o => o.regs
  | .cplv _ o => o.regs
  | .cpgo _ o => o.regs
  | .cpacc _ o => o.regs
  | .mxstage _ o => o.regs
  | .bfmt .. => Regs.none
  | .bfmtr _ o => o.regs
  | .saq _ o => o.regs
  | .sadrain .. => Regs.none
  | .fsig _ o => o.regs
  | .acqL _ o => o.regs
  | .acqG _ o => o.regs
  | .relL _ o => o.regs
  | .relI _ o => o.regs
  | .bind _ o => o.regs
  | .unbind _ o => o.regs
  | .sycas _ o => o.regs
  | .syrd _ o => o.regs
  | .xfence .. => Regs.none
  | .cstash _ o => o.regs
  | .cunstash _ o => o.regs
  | .csend _ o => o.regs
  | .cfree .. => Regs.none
  | .vrd .. => Regs.none
  | .vwr _ o => o.regs
  | .vbcast _ o => o.bcastRegs
  | .viota .. => Regs.none
  | .vadd .. => Regs.none
  | .vsub .. => Regs.none
  | .vmul .. => Regs.none
  | .vfma .. => Regs.none
  | .vmin .. => Regs.none
  | .vmax .. => Regs.none
  | .vabs .. => Regs.none
  | .vneg .. => Regs.none
  | .vand .. => Regs.none
  | .vor .. => Regs.none
  | .vxor .. => Regs.none
  | .vnot .. => Regs.none
  | .vshl .. => Regs.none
  | .vshr .. => Regs.none
  | .vsha .. => Regs.none
  | .vcmp .. => Regs.none
  | .vsel .. => Regs.none
  | .vcvt .. => Regs.none
  | .vclmp .. => Regs.none
  | .vscale .. => Regs.none
  | .vqnt .. => Regs.none
  | .vexp2 .. => Regs.none
  | .vlog2 .. => Regs.none
  | .vrcp .. => Regs.none
  | .vrsq .. => Regs.none
  | .vtanh .. => Regs.none
  | .vsumr .. => Regs.none
  | .vperm .. => Regs.none
  | .vmovdP .. => Regs.none
  | .vbcastP .. => Regs.none
  | .viotaP .. => Regs.none
  | .vaddP .. => Regs.none
  | .vsubP .. => Regs.none
  | .vmulP .. => Regs.none
  | .vfmaP .. => Regs.none
  | .vminP .. => Regs.none
  | .vmaxP .. => Regs.none
  | .vabsP .. => Regs.none
  | .vnegP .. => Regs.none
  | .vandP .. => Regs.none
  | .vorP .. => Regs.none
  | .vxorP .. => Regs.none
  | .vnotP .. => Regs.none
  | .vshlP .. => Regs.none
  | .vshrP .. => Regs.none
  | .vshaP .. => Regs.none
  | .vcmpP .. => Regs.none
  | .vselP .. => Regs.none
  | .vcvtP .. => Regs.none
  | .vclmpP .. => Regs.none
  | .vscaleP .. => Regs.none
  | .vqntP .. => Regs.none
  | .vexp2P .. => Regs.none
  | .vlog2P .. => Regs.none
  | .vrcpP .. => Regs.none
  | .vrsqP .. => Regs.none
  | .vtanhP .. => Regs.none
  | .vsumrP .. => Regs.none
  | .vpermP .. => Regs.none
  | .tmma _ o => o.regs
  | .tmms _ o => o.regs
  | .tdist _ o => o.regs
  | .ttopk .. => Regs.none
  | .accrd _ o => o.regs
  | .accwr _ o => o.regs
  | .accz _ o => o.regs
  | .launchSetupDone .. => Regs.none
  | .timedCompletion .. => Regs.none
  | .tokenStall .. => Regs.none
  | .slotResult .. => Regs.none
  | .mrfAccessStart .. => Regs.none
  | .interlockFreeze .. => Regs.none
  | .interlockThaw .. => Regs.none
  | .promisedLoadDue .. => Regs.none
  | .loadValueReturn .. => Regs.none
  | .storeAcknowledge .. => Regs.none
  | .timedCopyStart .. => Regs.none
  | .orderedCopyStart .. => Regs.none
  | .copyComplete .. => Regs.none
  | .stagedCommandIssue .. => Regs.none
  | .arrayOperandDue .. => Regs.none
  | .arrayRowFinal .. => Regs.none
  | .tableWalkEnd .. => Regs.none
  | .waitaSatisfied .. => Regs.none
  | .waitaTimeout .. => Regs.none
  | .xfenceComplete .. => Regs.none
  | .saeUpdateApply .. => Regs.none
  | .sadrainComplete .. => Regs.none
  | .hinvComplete .. => Regs.none
  | .pgreqComplete .. => Regs.none
  | .fsigStart .. => Regs.none
  | .fsigComplete .. => Regs.none
  | .csendComplete .. => Regs.none
  | .cfreeComplete .. => Regs.none
  | .orderedOpPerform .. => Regs.none
  | .syncOpPerform .. => Regs.none
  | .syncReply .. => Regs.none
  | .commitRelease .. => Regs.none
  | .strikeReport .. => Regs.none
  | .lateFault .. => Regs.none
  | .pendingCauseTaken .. => Regs.none
  | .preemptRequest .. => Regs.none
  | .coreHalt .. => Regs.none
  | .preemptDrainEnd .. => Regs.none
  | .contextSaveDone .. => Regs.none
  | .contextRestore .. => Regs.none
  | .containmentUnwind .. => Regs.none
  | .continuationStart .. => Regs.none
  | .taskCompletionEvent .. => Regs.none
  | .translationDone .. => Regs.none
  | .soundingStart .. => Regs.none
  | .soundingWindowOpen .. => Regs.none
  | .soundingEnd .. => Regs.none
  | .mapInstall .. => Regs.none
  | .hpdrvWrite .. => Regs.none
  | .kick .. => Regs.none
  | .kickService .. => Regs.none
  | .queueDescriptorWrite .. => Regs.none
  | .registerWrite .. => Regs.none
  | .errselWrite .. => Regs.none
  | .errorRecordClear .. => Regs.none
  | .nopCommand .. => Regs.none
  | .launch .. => Regs.none
  | .waitobj .. => Regs.none
  | .setobjRelI .. => Regs.none
  | .setobjRelL .. => Regs.none
  | .mark .. => Regs.none
  | .chain .. => Regs.none
  | .chainResume .. => Regs.none
  | .completionRecordWrite .. => Regs.none
  | .nodeStart .. => Regs.none
  | .nodePromotion .. => Regs.none
  | .queueCoreTakeover .. => Regs.none
  | .s1invPage .. => Regs.none
  | .s1invAll .. => Regs.none
  | .s2invPage .. => Regs.none
  | .s2invAll .. => Regs.none
  | .invalidationComplete .. => Regs.none
  | .fresolveResolve .. => Regs.none
  | .fresolveRefuse .. => Regs.none
  | .migpoolWrite .. => Regs.none
  | .migclrPage .. => Regs.none
  | .migclrAll .. => Regs.none
  | .read .. => Regs.none
  | .write .. => Regs.none
  | .answer .. => Regs.none
  | .sync .. => Regs.none
  | .ordered .. => Regs.none
  | .fsigPacket .. => Regs.none
  | .pgreqPacket .. => Regs.none
  | .mcwrite .. => Regs.none
  | .migrate .. => Regs.none
  | .mgmt .. => Regs.none
  | .packetForward .. => Regs.none
  | .pageMigration .. => Regs.none
  | .remoteTimeout .. => Regs.none
  | .linkTraining .. => Regs.none
  | .linkFailure .. => Regs.none
  | .stload .. => Regs.none
  | .slotTableStart .. => Regs.none
  | .mcdataWrite .. => Regs.none
  | .hello .. => Regs.none
  | .chainEntryIssue .. => Regs.none
  | .chainSyncEntryIssue .. => Regs.none
  | .chainSyncComplete .. => Regs.none
  | .chainGraphComplete .. => Regs.none
  | .slotFree .. => Regs.none
  | .chainPayloadLanded .. => Regs.none
  | .pstepWrite .. => Regs.none
  | .pstepPins .. => Regs.none
  | .kindlingStep .. => Regs.none
  | .pfail .. => Regs.none
  | .emberDrainTimeout .. => Regs.none
  | .emberImageWritten .. => Regs.none
  | .reset .. => Regs.none
  | .embstatResume .. => Regs.none
  | .embstatDiscard .. => Regs.none
  | .soundingWindowArm .. => Regs.none
  | .mapreq .. => Regs.none
  | .ckptctlWrite .. => Regs.none
  | .markRecord .. => Regs.none
  | .checkpointPageCopy .. => Regs.none
  | .stagedWriteAdmit .. => Regs.none
  | .sensorEvent .. => Regs.none
  | .cfgload .. => Regs.none
  | .qreq .. => Regs.none
  | .uncorrectableError .. => Regs.none
  | .firmwareUpdate .. => Regs.none
  | .reProvisioning .. => Regs.none

end Sys2Proof
end

