-- ==== Sys2Proof/Decode.lean ====
section
/-!
DEFINITION. The decoder, total on any bytes (R125 to R148), and after it the encoder, written from the same tables of the
spec. A unit is up to two prefix parcels and one instruction; a unit that breaks one of the checks of R137 that the words
alone decide is answered by the name of that check.
-/

namespace Sys2Proof

/-- The short-form map (R147): the instruction of a word, and whether the fields that must be zero are zero.
ORI is major 0x1A (log entry 17, DEDUCED). -/
def shortTable (m : Nat) (h : Short) (w : Nat) : Option (Instr × Bool) :=
  match m with
  | 0x00 => some (.add h (RRR.dec w).1, (RRR.dec w).2)
  | 0x01 => some (.sub h (RRR.dec w).1, (RRR.dec w).2)
  | 0x02 => some (.and h (RRR.dec w).1, (RRR.dec w).2)
  | 0x03 => some (.or h (RRR.dec w).1, (RRR.dec w).2)
  | 0x04 => some (.xor h (RRR.dec w).1, (RRR.dec w).2)
  | 0x05 => some (.andn h (RRR.dec w).1, (RRR.dec w).2)
  | 0x06 => some (.shl h (RRR.dec w).1, (RRR.dec w).2)
  | 0x07 => some (.shr h (RRR.dec w).1, (RRR.dec w).2)
  | 0x08 => some (.sha h (RRR.dec w).1, (RRR.dec w).2)
  | 0x09 => some (.rot h (RRR.dec w).1, (RRR.dec w).2)
  | 0x0A => some (.min h (RRR.dec w).1, (RRR.dec w).2)
  | 0x0B => some (.max h (RRR.dec w).1, (RRR.dec w).2)
  | 0x0C => some (.minu h (RRR.dec w).1, (RRR.dec w).2)
  | 0x0D => some (.maxu h (RRR.dec w).1, (RRR.dec w).2)
  | 0x0E => some (.mul h (RRR.dec w).1, (RRR.dec w).2)
  | 0x0F => some (.mulh h (RRR.dec w).1, (RRR.dec w).2)
  | 0x10 => some (.div h (RRR.dec w).1, (RRR.dec w).2)
  | 0x11 => some (.divu h (RRR.dec w).1, (RRR.dec w).2)
  | 0x12 => some (.rem h (RRR.dec w).1, (RRR.dec w).2)
  | 0x13 => some (.remu h (RRR.dec w).1, (RRR.dec w).2)
  | 0x14 => some (.clz h (RR.dec w).1, (RR.dec w).2)
  | 0x15 => some (.popc h (RR.dec w).1, (RR.dec w).2)
  | 0x16 => some (.sel h (Sel.dec w).1, (Sel.dec w).2)
  | 0x17 => some (.mov h (Mov.dec w).1, (Mov.dec w).2)
  | 0x18 => some (.addi h (RI.dec w).1, (RI.dec w).2)
  | 0x19 => some (.andi h (RI.dec w).1, (RI.dec w).2)
  | 0x1A => some (.ori h (RI.dec w).1, (RI.dec w).2)
  | 0x1B => some (.xori h (RI.dec w).1, (RI.dec w).2)
  | 0x1C => some (.shli h (RI.dec w).1, (RI.dec w).2)
  | 0x1D => some (.shri h (RI.dec w).1, (RI.dec w).2)
  | 0x1E => some (.shai h (RI.dec w).1, (RI.dec w).2)
  | 0x1F => some (.li h (Li.dec w).1, (Li.dec w).2)
  | 0x20 => some (.cmp h (Cmp.dec w).1, (Cmp.dec w).2)
  | 0x21 => some (.cmpi h (Cmpi.dec w).1, (Cmpi.dec w).2)
  | 0x22 => some (.pand h (PPP.dec w).1, (PPP.dec w).2)
  | 0x23 => some (.por h (PPP.dec w).1, (PPP.dec w).2)
  | 0x24 => some (.pxor h (PPP.dec w).1, (PPP.dec w).2)
  | 0x25 => some (.pnot h (PP.dec w).1, (PP.dec w).2)
  | 0x26 => some (.pmov h (PP.dec w).1, (PP.dec w).2)
  | 0x28 => some (.br h (Off23.dec w).1, (Off23.dec w).2)
  | 0x29 => some (.bp h (BrP.dec w).1, (BrP.dec w).2)
  | 0x2A => some (.bnp h (BrP.dec w).1, (BrP.dec w).2)
  | 0x2B => some (.call h (Off23.dec w).1, (Off23.dec w).2)
  | 0x2C => some (.ret h (JmpX.dec w).1, (JmpX.dec w).2)
  | 0x2D => some (.jmpx h (JmpX.dec w).1, (JmpX.dec w).2)
  | 0x2E => some (.loop h (LoopX.dec w).1, (LoopX.dec w).2)
  | 0x2F => some (.endl h, zer w 3 23)
  | 0x30 => some (.tkpost h (Tk.dec w).1, (Tk.dec w).2)
  | 0x31 => some (.tkwait h (Tk.dec w).1, (Tk.dec w).2)
  | 0x32 => some (.tkcnt h (TkCnt.dec w).1, (TkCnt.dec w).2)
  | 0x33 => some (.yield h, zer w 3 23)
  | 0x34 => some (.safept h, zer w 3 23)
  | 0x35 => some (.brk h (Code.dec w).1, (Code.dec w).2)
  | 0x36 => some (.trap h (Code.dec w).1, (Code.dec w).2)
  | 0x37 => some (.tret h, zer w 3 23)
  | 0x38 => some (.ldx h (Ldx.dec w).1, (Ldx.dec w).2)
  | 0x39 => some (.stx h (Stx.dec w).1, (Stx.dec w).2)
  | 0x3A => some (.rdsr h (Rdsr.dec w).1, (Rdsr.dec w).2)
  | 0x3B => some (.wrsr h (Wrsr.dec w).1, (Wrsr.dec w).2)
  | 0x3C => some (.taskend h, zer w 3 23)
  | 0x3D => some (.nop h, zer w 3 23)
  | _ => none

/-- The long-form map (R148). Variants of one major are told apart by operand bits; a variant value that the entry does
not list decodes to its first form with the field marked bad (R139). Bits [29:28] of UNBIND must be zero (log entry 23, DEDUCED). -/
def longTable (m : Nat) (h : Long) (w : Nat) : Option (Instr × Bool) :=
  match m with
  | 0x00 => some (.addiL h (AddiL.dec w).1, (AddiL.dec w).2)
  | 0x01 => some (.lih h (Lih.dec w).1, (Lih.dec w).2)
  | 0x02 => some (.mad h (Mad.dec w).1, (Mad.dec w).2)
  | 0x03 => some (.cmpL h (CmpL.dec w).1, (CmpL.dec w).2)
  | 0x04 => some (.loopL h (LoopL.dec w).1, (LoopL.dec w).2)
  | 0x05 => some (.nopL h, zer w 3 37)
  | 0x06 => some (.crgnOpen h (CrgnOpen.dec w).1, (CrgnOpen.dec w).2)
  | 0x07 => some (.crgnClose h, zer w 3 37)
  | 0x08 => some (.crgnAbort h, zer w 3 37)
  | 0x09 => some (.rotb h (Rot.dec w).1, (Rot.dec w).2)
  | 0x0A => some (.setrb h (Rot.dec w).1, (Rot.dec w).2)
  | 0x0B => some (.xlate h (Xlate.dec w).1, (Xlate.dec w).2)
  | 0x0C => some (.hinv h (Hinv.dec w).1, (Hinv.dec w).2)
  | 0x0D => some (.hqry h (Hqry.dec w).1, (Hqry.dec w).2)
  | 0x0E => some (.pgreq h (HX.dec w).1, (HX.dec w).2)
  | 0x0F => some (.mxres h, zer w 3 37)
  | 0x10 =>
    if w / 2 ^ 39 % 2 ^ 1 = 1 then some (.chkpX h (ChkpX.dec w).1, (ChkpX.dec w).2)
    else some (.chkpMrf h (ChkpM.dec w).1, (ChkpM.dec w).2)
  | 0x11 => some (.chkr h (Chkr.dec w).1, (Chkr.dec w).2)
  | 0x20 =>
    if w / 2 ^ 21 % 2 ^ 1 = 1 then some (.ldgP h (LdgP.dec w).1, (LdgP.dec w).2)
    else some (.ldg h (Ldg.dec w).1, (Ldg.dec w).2)
  | 0x21 => some (.stg h (Stg.dec w).1, (Stg.dec w).2)
  | 0x22 => some (.vld h (Vld.dec w).1, (Vld.dec w).2)
  | 0x23 => some (.vst h (Vst.dec w).1, (Vst.dec w).2)
  | 0x24 => some (.vldg h (Vldg.dec w).1, (Vldg.dec w).2)
  | 0x25 => some (.vstg h (Vstg.dec w).1, (Vstg.dec w).2)
  | 0x26 => some (.vldb h (Vldb.dec w).1, (Vldb.dec w).2)
  | 0x27 => some (.bxld h (Bxld.dec w).1, (Bxld.dec w).2)
  | 0x28 => some (.pref h (HX.dec w).1, (HX.dec w).2)
  | 0x29 => some (.ordld h (OrdLd.dec w).1, (OrdLd.dec w).2)
  | 0x2A => some (.ordst h (OrdSt.dec w).1, (OrdSt.dec w).2)
  | 0x2B => some (.waita h (Waita.dec w).1, (Waita.dec w).2)
  | 0x40 => some (.cplv h (Cplv.dec w).1, (Cplv.dec w).2)
  | 0x41 => some (.cpgo h (Cpgo.dec w).1, (Cpgo.dec w).2)
  | 0x42 => some (.cpacc h (Cpacc.dec w).1, (Cpacc.dec w).2)
  | 0x43 => some (.mxstage h (MxStage.dec w).1, (MxStage.dec w).2)
  | 0x44 => some (.bfmt h (Bfmt.dec w).1, (Bfmt.dec w).2)
  | 0x45 => some (.bfmtr h (Bfmtr.dec w).1, (Bfmtr.dec w).2)
  | 0x46 => some (.saq h (Saq.dec w).1, (Saq.dec w).2)
  | 0x47 => some (.sadrain h, zer w 3 37)
  | 0x48 => some (.fsig h (Fsig.dec w).1, (Fsig.dec w).2)
  | 0x60 =>
    if w / 2 ^ 28 % 2 ^ 2 = 1 then some (.acqG h (ObjV.dec w).1, (ObjV.dec w).2)
    else some (.acqL h (Obj.dec w).1, (Obj.dec w).2 && (w / 2 ^ 28 % 2 ^ 2 == 0))
  | 0x61 =>
    if w / 2 ^ 28 % 2 ^ 2 = 1 then some (.relI h (Obj.dec w).1, (Obj.dec w).2)
    else some (.relL h (Obj.dec w).1, (Obj.dec w).2 && (w / 2 ^ 28 % 2 ^ 2 == 0))
  | 0x62 => some (.bind h (Bind.dec w).1, (Bind.dec w).2)
  | 0x63 => some (.unbind h (ObjV.dec w).1, (ObjV.dec w).2 && zer w 28 2)
  | 0x64 => some (.sycas h (Sycas.dec w).1, (Sycas.dec w).2)
  | 0x65 => some (.syrd h (Syrd.dec w).1, (Syrd.dec w).2)
  | 0x66 => some (.xfence h (Xfence.dec w).1, (Xfence.dec w).2)
  | 0x67 => some (.cstash h (Cstash.dec w).1, (Cstash.dec w).2)
  | 0x68 => some (.cunstash h (Cunstash.dec w).1, (Cunstash.dec w).2)
  | 0x69 => some (.csend h (Csend.dec w).1, (Csend.dec w).2)
  | 0x6A => some (.cfree h (Cfree.dec w).1, (Cfree.dec w).2)
  | 0x80 => some (.vrd h (Vrd.dec w).1, (Vrd.dec w).2)
  | 0x81 => some (.vwr h (Vwr.dec w).1, (Vwr.dec w).2)
  | 0x82 => some (.vbcast h (Slot.dec w).1, (Slot.dec w).2)
  | 0x83 => some (.viota h (Slot.dec w).1, (Slot.dec w).2)
  | 0x84 => some (.vadd h (Slot.dec w).1, (Slot.dec w).2)
  | 0x85 => some (.vsub h (Slot.dec w).1, (Slot.dec w).2)
  | 0x86 => some (.vmul h (Slot.dec w).1, (Slot.dec w).2)
  | 0x87 => some (.vfma h (Slot.dec w).1, (Slot.dec w).2)
  | 0x88 => some (.vmin h (Slot.dec w).1, (Slot.dec w).2)
  | 0x89 => some (.vmax h (Slot.dec w).1, (Slot.dec w).2)
  | 0x8A => some (.vabs h (Slot.dec w).1, (Slot.dec w).2)
  | 0x8B => some (.vneg h (Slot.dec w).1, (Slot.dec w).2)
  | 0x8C => some (.vand h (Slot.dec w).1, (Slot.dec w).2)
  | 0x8D => some (.vor h (Slot.dec w).1, (Slot.dec w).2)
  | 0x8E => some (.vxor h (Slot.dec w).1, (Slot.dec w).2)
  | 0x8F => some (.vnot h (Slot.dec w).1, (Slot.dec w).2)
  | 0x90 => some (.vshl h (Slot.dec w).1, (Slot.dec w).2)
  | 0x91 => some (.vshr h (Slot.dec w).1, (Slot.dec w).2)
  | 0x92 => some (.vsha h (Slot.dec w).1, (Slot.dec w).2)
  | 0x93 => some (.vcmp h (Slot.dec w).1, (Slot.dec w).2)
  | 0x94 => some (.vsel h (Slot.dec w).1, (Slot.dec w).2)
  | 0x95 => some (.vcvt h (Slot.dec w).1, (Slot.dec w).2)
  | 0x96 => some (.vclmp h (Slot.dec w).1, (Slot.dec w).2)
  | 0x97 => some (.vscale h (Slot.dec w).1, (Slot.dec w).2)
  | 0x98 => some (.vqnt h (Slot.dec w).1, (Slot.dec w).2)
  | 0x99 => some (.vexp2 h (Slot.dec w).1, (Slot.dec w).2)
  | 0x9A => some (.vlog2 h (Slot.dec w).1, (Slot.dec w).2)
  | 0x9B => some (.vrcp h (Slot.dec w).1, (Slot.dec w).2)
  | 0x9C => some (.vrsq h (Slot.dec w).1, (Slot.dec w).2)
  | 0x9D => some (.vtanh h (Slot.dec w).1, (Slot.dec w).2)
  | 0x9E => some (.vsumr h (Slot.dec w).1, (Slot.dec w).2)
  | 0x9F => some (.vperm h (Slot.dec w).1, (Slot.dec w).2)
  | 0xA0 => some (.vmovdP h (Port.dec w).1, (Port.dec w).2)
  | 0xA2 => some (.vbcastP h (Port.dec w).1, (Port.dec w).2)
  | 0xA3 => some (.viotaP h (Port.dec w).1, (Port.dec w).2)
  | 0xA4 => some (.vaddP h (Port.dec w).1, (Port.dec w).2)
  | 0xA5 => some (.vsubP h (Port.dec w).1, (Port.dec w).2)
  | 0xA6 => some (.vmulP h (Port.dec w).1, (Port.dec w).2)
  | 0xA7 => some (.vfmaP h (Port.dec w).1, (Port.dec w).2)
  | 0xA8 => some (.vminP h (Port.dec w).1, (Port.dec w).2)
  | 0xA9 => some (.vmaxP h (Port.dec w).1, (Port.dec w).2)
  | 0xAA => some (.vabsP h (Port.dec w).1, (Port.dec w).2)
  | 0xAB => some (.vnegP h (Port.dec w).1, (Port.dec w).2)
  | 0xAC => some (.vandP h (Port.dec w).1, (Port.dec w).2)
  | 0xAD => some (.vorP h (Port.dec w).1, (Port.dec w).2)
  | 0xAE => some (.vxorP h (Port.dec w).1, (Port.dec w).2)
  | 0xAF => some (.vnotP h (Port.dec w).1, (Port.dec w).2)
  | 0xB0 => some (.vshlP h (Port.dec w).1, (Port.dec w).2)
  | 0xB1 => some (.vshrP h (Port.dec w).1, (Port.dec w).2)
  | 0xB2 => some (.vshaP h (Port.dec w).1, (Port.dec w).2)
  | 0xB3 => some (.vcmpP h (Port.dec w).1, (Port.dec w).2)
  | 0xB4 => some (.vselP h (Port.dec w).1, (Port.dec w).2)
  | 0xB5 => some (.vcvtP h (Port.dec w).1, (Port.dec w).2)
  | 0xB6 => some (.vclmpP h (Port.dec w).1, (Port.dec w).2)
  | 0xB7 => some (.vscaleP h (Port.dec w).1, (Port.dec w).2)
  | 0xB8 => some (.vqntP h (Port.dec w).1, (Port.dec w).2)
  | 0xB9 => some (.vexp2P h (Port.dec w).1, (Port.dec w).2)
  | 0xBA => some (.vlog2P h (Port.dec w).1, (Port.dec w).2)
  | 0xBB => some (.vrcpP h (Port.dec w).1, (Port.dec w).2)
  | 0xBC => some (.vrsqP h (Port.dec w).1, (Port.dec w).2)
  | 0xBD => some (.vtanhP h (Port.dec w).1, (Port.dec w).2)
  | 0xBE => some (.vsumrP h (Port.dec w).1, (Port.dec w).2)
  | 0xBF => some (.vpermP h (Port.dec w).1, (Port.dec w).2)
  | 0xC0 => some (.tmma h (Mat.dec w).1, (Mat.dec w).2)
  | 0xC1 => some (.tmms h (Mat.dec w).1, (Mat.dec w).2)
  | 0xC2 => some (.tdist h (Mat.dec w).1, (Mat.dec w).2)
  | 0xC3 => some (.ttopk h (Ttopk.dec w).1, (Ttopk.dec w).2)
  | 0xC4 => some (.accrd h (AccMov.dec w).1, (AccMov.dec w).2)
  | 0xC5 => some (.accwr h (AccMov.dec w).1, (AccMov.dec w).2)
  | 0xC6 => some (.accz h (Accz.dec w).1, (Accz.dec w).2)
  | _ => none

/-- Why a run of parcels is no instruction: the checks of R137 that the words decide, in their order. -/
inductive DecodeError where
  /-- The unit's next parcel lies outside the bytes given; `n` counts parcels from the unit's first (R124). -/
  | truncated (n : Nat)
  /-- A length selector of 11 (R125). -/
  | illegalLength
  /-- A third prefix, two of one kind, or a prefix of kind 4 to 15 (R129). -/
  | badPrefixes
  /-- A P bit of 0 directly after a prefix (R127). -/
  | orphanPrefix
  /-- An unassigned major opcode, with the P bit of the unit's first parcel (R139). -/
  | illegalOpcode (p : Bool)
  deriving DecidableEq, Repr

/-- What decoding a run of parcels answers: an instruction, its length in parcels and whether every bit that must be zero
in its parcels is zero, or the name of what is wrong. -/
inductive Decoded where
  | unit (i : Instr) (len : Nat) (ok : Bool)
  | bad (why : DecodeError)
  deriving DecidableEq, Repr

/-- No prefixes. -/
def Pfx.none : Pfx := ⟨Option.none, Option.none, Option.none, Option.none⟩

/-- The leading prefix parcels of a run, at most three: a third is already one too many (R129). -/
def takePrefixes : Nat → List Nat → List Nat × List Nat
  | 0, ps => ([], ps)
  | _ + 1, [] => ([], [])
  | k + 1, w :: ps => if w % 4 = 1 then ((w :: (takePrefixes k ps).1), (takePrefixes k ps).2) else ([], w :: ps)

/-- Adds one prefix parcel (R73, R106, R130, R131) to those before it; none where its kind is 4 to 15 or stands there
already (R129). The Bool says that the prefix's must-be-zero bits are zero. -/
def addPrefix (a : Pfx × Bool) (w : Nat) : Option (Pfx × Bool) :=
  match w / 2 ^ 28 % 2 ^ 4 with
  | 0 => if a.1.arith.isSome then none else
      some ({ a.1 with arith := some ⟨fld w 25 3, bitAt w 24, bitAt w 23, bitAt w 22⟩ }, a.2 && zer w 3 19)
  | 1 => if a.1.imm.isSome then none else some ({ a.1 with imm := some (fld w 3 25) }, a.2)
  | 2 => if a.1.mem.isSome then none else
      some ({ a.1 with mem := some ⟨fld w 25 3, fld w 22 3, fld w 20 2⟩ }, a.2 && zer w 3 17)
  | 3 => if a.1.pred.isSome then none else
      some ({ a.1 with pred := some ⟨fld w 25 3, bitAt w 24⟩ }, a.2 && zer w 3 21)
  | _ => none

def addPrefixes : List Nat → Pfx × Bool → Option (Pfx × Bool)
  | [], a => some a
  | w :: ws, a => match addPrefix a w with
    | none => none
    | some a' => addPrefixes ws a'

/-- Whether the parcels after a unit's first carry P = 1 where they begin a prefix or the instruction (R127). -/
def allP (ws : List Nat) : Bool := ws.all (bitAt · 2)

/-- Decodes the instruction word `w` (64 bits where `long`), whose prefixes are `pfx`, in a unit whose first parcel has
the P bit `p`. -/
def decodeWord (long p : Bool) (pfx : Pfx) (w : Nat) : Option (Instr × Bool) :=
  if long then
    longTable (w / 2 ^ 40 % 2 ^ 8) { p := p, pfx := pfx, wait := fld w 56 8, signal := fld w 48 8 } w
  else shortTable (w / 2 ^ 26 % 2 ^ 6) { p := p, pfx := pfx } w

/-- Prefix parcels, then the instruction's word: the checks after the length selectors, in the order of R137. -/
def decodeBody (pre : List Nat) (long : Bool) (w : Nat) : Decoded :=
  match addPrefixes pre (Pfx.none, true) with
  | none => .bad .badPrefixes
  | some (pfx, ok) =>
    if allP ((pre ++ [w]).drop 1) then
      let p := bitAt ((pre ++ [w]).headD 0) 2
      match decodeWord long p pfx w with
      | none => .bad (.illegalOpcode p)
      | some (i, ok') => .unit i (pre.length + (if long then 2 else 1)) (ok && ok')
    else .bad .orphanPrefix

/-- Decodes the issue unit at the head of a run of parcels (R125 to R137). -/
def decodeParcels (ps : List Nat) : Decoded :=
  let pre := (takePrefixes 3 ps).1
  if pre.length = 3 then .bad .badPrefixes else
  match (takePrefixes 3 ps).2 with
  | [] => .bad (.truncated pre.length)
  | w :: rest =>
    if w % 4 = 3 then .bad .illegalLength
    else if w % 4 = 0 then decodeBody pre false w
    else match rest with
      | [] => .bad (.truncated (pre.length + 1))
      | hi :: _ => decodeBody pre true (w + hi * 2 ^ 32)

/-- Bytes to parcels, little-endian (R124); a tail shorter than a parcel is no parcel. -/
def toParcels : List Byte → List Nat
  | a :: b :: c :: d :: rest =>
    (a.toNat + b.toNat * 2 ^ 8 + c.toNat * 2 ^ 16 + d.toNat * 2 ^ 24) :: toParcels rest
  | _ => []

/-- The bytes of a parcel, little-endian (R124). -/
def parcelBytes (w : Nat) : List Byte :=
  [BitVec.ofNat 8 w, BitVec.ofNat 8 (w / 2 ^ 8), BitVec.ofNat 8 (w / 2 ^ 16), BitVec.ofNat 8 (w / 2 ^ 24)]

/-- Decodes the issue unit at the head of a run of bytes. -/
def decode (bs : List Byte) : Decoded := decodeParcels (toParcels bs)

/-! The encoder. -/

def Arith.parcel (a : Arith) : Nat :=
  a.rm.toNat * 2 ^ 25 + a.sat.toNat * 2 ^ 24 + a.nanz.toNat * 2 ^ 23 + a.ftz.toNat * 2 ^ 22 + 1

def immParcel (i : BitVec 25) : Nat := 1 * 2 ^ 28 + i.toNat * 2 ^ 3 + 1

def MemPfx.parcel (m : MemPfx) : Nat :=
  2 * 2 ^ 28 + m.cls.toNat * 2 ^ 25 + m.scope.toNat * 2 ^ 22 + m.hint.toNat * 2 ^ 20 + 1

def PredPfx.parcel (q : PredPfx) : Nat :=
  3 * 2 ^ 28 + q.preg.toNat * 2 ^ 25 + q.inv.toNat * 2 ^ 24 + 1

/-- The prefix parcels of a unit with P = 0, in the order ARITH, IMM, MEM, PRED; their order does not matter (R129). -/
def Pfx.parcels (x : Pfx) : List Nat :=
  (x.arith.map Arith.parcel).toList ++ (x.imm.map immParcel).toList ++ (x.mem.map MemPfx.parcel).toList ++
    (x.pred.map PredPfx.parcel).toList

/-- The instruction word with P = 0 (R133, R134). -/
def wordOf (f : Info) (body : Nat) : Nat :=
  if f.long then f.wait.toNat * 2 ^ 56 + f.signal.toNat * 2 ^ 48 + f.major * 2 ^ 40 + body + 2
  else f.major * 2 ^ 26 + body

/-- A word as parcels, low parcel first. -/
def wordParcels (long : Bool) (w : Nat) : List Nat :=
  if long then [w % 2 ^ 32, w / 2 ^ 32 % 2 ^ 32] else [w % 2 ^ 32]

/-- Sets the P bits of a unit's parcels that begin a prefix or the instruction: `p` on the first, 1 on the others (R127). -/
def withP (p : Bool) (pre : List Nat) (w : Nat) : List Nat × Nat :=
  match pre with
  | [] => ([], w + p.toNat * 4)
  | a :: rest => ((a + p.toNat * 4) :: rest.map (· + 4), w + 4)

/-- The parcels of an instruction; an event has none. -/
def encodeParcels (i : Instr) : List Nat :=
  match i.info with
  | none => []
  | some f =>
    let u := withP f.p f.pfx.parcels (wordOf f i.body)
    u.1 ++ wordParcels f.long u.2

/-- The bytes of an instruction, as they stand in memory. -/
def encode (i : Instr) : List Byte := (encodeParcels i).flatMap parcelBytes

/-- The instruction that the decoder reads from an instruction whose bits are `w`, numbered as spec/opcode_table.json
numbers them; the bits above `nbits` are zero. Log entry 33 (DESIGN CHOICE). -/
def decodeTableWord (nbits w : Nat) : Option Instr :=
  let v := w % 2 ^ nbits
  match decode ((List.range 4).flatMap fun k => parcelBytes (v / 2 ^ (32 * k))) with
  | .unit i _ _ => some i
  | .bad _ => none

end Sys2Proof
end

