-- ==== Sys2Proof/Machine/Numbers.lean ====
section
/-!
DEFINITION. Numbers (chapter 03): element formats R63 to R65, exact values, rounding and saturation R73 to R82 and R444,
the LFSR R76, scaled, bit-plane and sparse groups R66 to R70, and the integer divides R85.
-/

namespace Sys2Proof.Machine

open Sys2Proof

/-- An element format (R63, R64). -/
inductive Fmt where
  | i8 | i16 | i32 | u8 | u16 | u32 | f32 | bf16 | f16 | e4m3 | e5m2
  deriving DecidableEq, Repr

/-- Width in bits. -/
def Fmt.width : Fmt → Nat
  | .i8 | .u8 | .e4m3 | .e5m2 => 8
  | .i16 | .u16 | .bf16 | .f16 => 16
  | .i32 | .u32 | .f32 => 32

def Fmt.isFloat : Fmt → Bool
  | .f32 | .bf16 | .f16 | .e4m3 | .e5m2 => true
  | _ => false

/-- Whether an integer format is signed. -/
def Fmt.signed : Fmt → Bool
  | .u8 | .u16 | .u32 => false
  | _ => true

/-- Mantissa bits of a float format (R64). -/
def Fmt.mbits : Fmt → Nat
  | .f32 => 23 | .bf16 => 7 | .f16 => 10 | .e4m3 => 3 | .e5m2 => 2 | _ => 0

/-- Exponent bits of a float format (R64). -/
def Fmt.ebits : Fmt → Nat
  | .f32 => 8 | .bf16 => 8 | .f16 => 5 | .e4m3 => 4 | .e5m2 => 5 | _ => 0

/-- Exponent bias (R64). -/
def Fmt.bias : Fmt → Nat
  | .f32 => 127 | .bf16 => 127 | .f16 => 15 | .e4m3 => 7 | .e5m2 => 15 | _ => 0

/-- Bit pattern of MAXNORM (R64). -/
def Fmt.maxNorm : Fmt → Nat
  | .f32 => 0x7F7FFFFF | .bf16 => 0x7F7F | .f16 => 0x7BFF | .e4m3 => 0x7E | .e5m2 => 0x7B | _ => 0

/-- Bit pattern of the canonical NaN (R64). -/
def Fmt.nan : Fmt → Nat
  | .f32 => 0x7FC00000 | .bf16 => 0x7FC0 | .f16 => 0x7E00 | .e4m3 => 0x7F | .e5m2 => 0x7E | _ => 0

/-- Bit pattern of +∞; E4M3 has none (R64). -/
def Fmt.inf : Fmt → Nat
  | .f32 => 0x7F800000 | .bf16 => 0x7F80 | .f16 => 0x7C00 | .e5m2 => 0x7C | _ => 0

/-- MinPattern (R63). -/
def Fmt.minPattern (f : Fmt) : Nat := 2 ^ (f.width - 1)

/-- The least value of an integer format (R63). -/
def Fmt.lowest (f : Fmt) : Int := if f.signed then -(2 ^ (f.width - 1) : Nat) else 0

/-- The greatest value of an integer format (R63). -/
def Fmt.highest (f : Fmt) : Int :=
  if f.signed then (2 ^ (f.width - 1) : Nat) - 1 else (2 ^ f.width : Nat) - 1

/-- An exact value: NaN, an infinity, or m × 2^e; a zero carries its sign in `nz`. -/
inductive Num where
  | nan
  | inf (neg : Bool)
  | fin (m e : Int) (nz : Bool)
  deriving DecidableEq, Repr

def Num.zero : Num := .fin 0 0 false

/-- An integer as an exact value. -/
def Num.ofInt (i : Int) : Num := .fin i 0 false

/-- Whether a value has a negative sign, zeros included. -/
def Num.isNeg : Num → Bool
  | .nan => false
  | .inf n => n
  | .fin m _ nz => if m = 0 then nz else m < 0

def Num.isNan : Num → Bool
  | .nan => true
  | _ => false

def Num.isInf : Num → Bool
  | .inf _ => true
  | _ => false

def Num.isZero : Num → Bool
  | .fin m _ _ => m = 0
  | _ => false

def Num.neg : Num → Num
  | .nan => .nan
  | .inf n => .inf (!n)
  | .fin m e nz => .fin (-m) e (!nz)

/-- The value of an integer pattern of format `f` (R63). -/
def intOf (f : Fmt) (w : Nat) : Int :=
  let v := w % 2 ^ f.width
  if f.signed && v ≥ 2 ^ (f.width - 1) then (v : Int) - (2 ^ f.width : Nat) else v

/-- The value of a pattern of format `f` (R63, R64). -/
def numOf (f : Fmt) (w : Nat) : Num :=
  if f.isFloat then
    let m := w % 2 ^ f.mbits
    let e := w / 2 ^ f.mbits % 2 ^ f.ebits
    let s := w / 2 ^ (f.width - 1) % 2 = 1
    let top := e = 2 ^ f.ebits - 1
    if top && (f != .e4m3 || m = 7) then (if m = 0 then .inf s else .nan)
    else if e = 0 then
      .fin (if s then -m else m) (1 - (f.bias : Int) - f.mbits) s
    else
      let v : Int := m + 2 ^ f.mbits
      .fin (if s then -v else v) ((e : Int) - f.bias - f.mbits) s
  else .ofInt (intOf f w)

/-- Whether a float pattern is subnormal (R64). -/
def isSubnormal (f : Fmt) (w : Nat) : Bool :=
  f.isFloat && w / 2 ^ f.mbits % 2 ^ f.ebits == 0 && w % 2 ^ f.mbits != 0

/-- The ARITH state without a prefix: RNE, nothing else (R73). -/
def Arith.default : Arith := ⟨0, false, false, false⟩

/-- An input under FTZ (R78). -/
def inputOf (a : Arith) (f : Fmt) (w : Nat) : Num :=
  if a.ftz && isSubnormal f w then .fin 0 0 (w / 2 ^ (f.width - 1) % 2 = 1) else numOf f w

/-- One LFSR step (R76). -/
def lfsrStep (s : BitVec 32) : BitVec 32 :=
  if s.getLsbD 0 then (s >>> 1) ^^^ 0x80200003#32 else s >>> 1

/-- Rounds n / 2^d to an integer by mode `rm` (R74), for a value of sign `neg`; `r` is the LFSR's new state (R76). -/
def roundMag (rm : BitVec 3) (neg : Bool) (r : BitVec 32) (n d : Nat) : Nat :=
  let q := n / 2 ^ d
  let t := n % 2 ^ d
  if t = 0 then q else
  let up : Bool :=
    match rm.toNat with
    | 0 => 2 * t > 2 ^ d || (2 * t = 2 ^ d && q % 2 = 1)
    | 1 => false
    | 2 => !neg
    | 3 => neg
    | 4 => 2 * t ≥ 2 ^ d
    | _ => r.toNat ≤ 2 ^ 32 * t / 2 ^ d
  if up then q + 1 else q

/-- Rounds |m| × 2^e to a multiple of 2^q; the answer counts those multiples. -/
def roundAt (rm : BitVec 3) (neg : Bool) (r : BitVec 32) (mag : Nat) (e q : Int) : Nat :=
  if q ≤ e then mag * 2 ^ (e - q).toNat else roundMag rm neg r mag (q - e).toNat

/-- The overflow result of a mode without SAT (R80), as a magnitude pattern. -/
def overflowPattern (f : Fmt) (rm : BitVec 3) (neg : Bool) : Nat :=
  let toInf : Bool :=
    match rm.toNat with
    | 1 => false
    | 2 => !neg
    | 3 => neg
    | _ => true
  if toInf then (if f = .e4m3 then f.nan else f.inf) else f.maxNorm

/-- A magnitude pattern of a float format with its sign; the canonical NaN takes none. -/
def withSign (f : Fmt) (neg : Bool) (mag : Nat) : Nat :=
  if mag = f.nan then mag else mag + (if neg then 2 ^ (f.width - 1) else 0)

/-- The grid pattern of |m| × 2^e in a float format, before the range check (R444): the exponent is unbounded above, the
subnormal quantum holds below. -/
def floatPattern (f : Fmt) (rm : BitVec 3) (neg : Bool) (r : BitVec 32) (mag : Nat) (e : Int) : Nat :=
  let top : Int := (Nat.log2 mag : Int) + e
  let low : Int := 1 - (f.bias : Int)
  let q : Int := (if top < low then low else top) - f.mbits
  let n := roundAt rm neg r mag e q
  -- n × 2^q: the exponent field of a normal number is q + mbits + bias
  if n < 2 ^ f.mbits then n
  else ((q + f.mbits + f.bias).toNat - 1) * 2 ^ f.mbits + n

/-- RoundTo for a float format (R82): the pattern. -/
def roundFloat (f : Fmt) (x : Num) (a : Arith) (r : BitVec 32) : Nat :=
  match x with
  | .nan => if a.nanz then 0 else f.nan
  | .inf neg =>
    if a.sat then withSign f neg f.maxNorm
    else if f = .e4m3 then f.nan else withSign f neg f.inf
  | .fin m e nz =>
    if m = 0 then withSign f nz 0 else
    let neg := m < 0
    let p := floatPattern f a.rm neg r m.natAbs e
    if p > f.maxNorm then
      if a.sat then withSign f neg f.maxNorm else withSign f neg (overflowPattern f a.rm neg)
    else if a.ftz && p < 2 ^ f.mbits then withSign f neg 0
    else withSign f neg p

/-- The integer m × 2^e rounds to (R74, R444). -/
def roundInt (a : Arith) (r : BitVec 32) (m e : Int) : Int :=
  let n := roundAt a.rm (m < 0) r m.natAbs e 0
  if m < 0 then -(n : Int) else n

/-- The w-bit pattern of an integer. -/
def patternOf (w : Nat) (i : Int) : Nat := (i % (2 ^ w : Nat)).toNat

/-- Sat on an integer format (R82). -/
def satInt (f : Fmt) (i : Int) : Int := max f.lowest (min f.highest i)

/-- RoundTo for an integer format (R82): the pattern, and whether it is MinPattern by R79. -/
def roundToInt (f : Fmt) (x : Num) (a : Arith) (r : BitVec 32) : Nat × Bool :=
  match x with
  | .nan => if a.nanz || a.sat then (0, false) else (f.minPattern, true)
  | .inf neg =>
    if a.sat then (patternOf f.width (if neg then f.lowest else f.highest), false) else (f.minPattern, true)
  | .fin m e _ =>
    let y := roundInt a r m e
    if f.lowest ≤ y ∧ y ≤ f.highest then (patternOf f.width y, false)
    else if a.sat then (patternOf f.width (satInt f y), false)
    else (f.minPattern, true)

/-- RoundTo (R82): the pattern. -/
def roundTo (f : Fmt) (x : Num) (a : Arith) (r : BitVec 32) : Nat :=
  if f.isFloat then roundFloat f x a r else (roundToInt f x a r).1

/-- An integer result: modulo 2^w, or clamped under SAT (R81). -/
def settleInt (f : Fmt) (i : Int) (a : Arith) : Nat :=
  patternOf f.width (if a.sat then satInt f i else i)

/-- Exact sum (R65): the sign of an exact zero sum is that of IEEE 754 for the mode. -/
def addNum (rm : BitVec 3) (x y : Num) : Num :=
  match x, y with
  | .nan, _ => .nan
  | _, .nan => .nan
  | .inf a, .inf b => if a = b then .inf a else .nan
  | .inf a, _ => .inf a
  | _, .inf b => .inf b
  | .fin m e nz, .fin m' e' nz' =>
    let q := min e e'
    let s := m * (2 ^ (e - q).toNat : Nat) + m' * (2 ^ (e' - q).toNat : Nat)
    if s = 0 then
      let sameZeros := m = 0 && m' = 0 && nz == nz'
      .fin 0 0 (if sameZeros then nz else rm = 3)
    else .fin s q false

/-- Exact product. -/
def mulNum (x y : Num) : Num :=
  match x, y with
  | .nan, _ => .nan
  | _, .nan => .nan
  | .inf a, y => if y.isZero then .nan else .inf (a != y.isNeg)
  | x, .inf b => if x.isZero then .nan else .inf (x.isNeg != b)
  | .fin m e nz, .fin m' e' nz' =>
    .fin (m * m') (e + e') ((Num.fin m e nz).isNeg != (Num.fin m' e' nz').isNeg)

def subNum (rm : BitVec 3) (x y : Num) : Num := addNum rm x y.neg

/-- Numeric comparison; none where an operand is NaN. Zeros compare equal (R65). -/
def cmpNum (x y : Num) : Option Ordering :=
  match x, y with
  | .nan, _ => none
  | _, .nan => none
  | .inf a, .inf b => some (if a = b then .eq else if a then .lt else .gt)
  | .inf a, _ => some (if a then .lt else .gt)
  | _, .inf b => some (if b then .gt else .lt)
  | .fin m e _, .fin m' e' _ =>
    let q := min e e'
    some (compare (m * (2 ^ (e - q).toNat : Nat)) (m' * (2 ^ (e' - q).toNat : Nat)))

/-- x × 2^k, exact. -/
def scaleNum (x : Num) (k : Int) : Num :=
  match x with
  | .fin m e nz => .fin m (e + k) nz
  | x => x

/-- Scaled (R72): a BS8 scale byte applied; 255 gives NaN (R66). -/
def scaled (x : Num) (s : Nat) : Num := if s = 255 then .nan else scaleNum x ((s : Int) - 127)

/-! Bank formats (R45) and their decoding (R66 to R72). -/

def bfFmt (b : BitVec 32) : Nat := b.toNat % 2 ^ 4
def bfPlanes (b : BitVec 32) : Nat := b.toNat / 2 ^ 4 % 2 ^ 4
def bfScale (b : BitVec 32) : Bool := b.getLsbD 8
def bfSparse (b : BitVec 32) : Nat := b.toNat / 2 ^ 9 % 4
def bfPitch (b : BitVec 32) : Nat := b.toNat / 2 ^ 16 % 2 ^ 16

/-- The element format of a bank's FMT; none for RAW, and INT8 for BPI, whose elements are signed bytes (R45, R67). -/
def fmtOfCode : Nat → Option Fmt
  | 1 => some .i8 | 2 => some .u8 | 3 => some .i16 | 4 => some .u16 | 5 => some .i32 | 6 => some .u32
  | 7 => some .f32 | 8 => some .bf16 | 9 => some .f16 | 10 => some .e4m3 | 11 => some .e5m2 | 12 => some .i8
  | _ => none

/-- Whether a format register may hold a value (R45, R71). -/
def bfValid (b : BitVec 32) : Bool :=
  let f := bfFmt b
  let w := ((fmtOfCode f).map Fmt.width).getD 0
  f ≤ 12 &&
  (if f = 12 then 2 ≤ bfPlanes b && bfPlanes b ≤ 8 else bfPlanes b == 0) &&
  (if f = 12 then bfScale b else if f = 1 || f = 10 || f = 11 then true else !bfScale b) &&
  (if bfSparse b = 0 then true else f != 12 && !bfScale b && f != 0 && w ≤ 16) &&
  b.toNat / 2 ^ 11 % 2 ^ 5 == 0

/-- N of an N-of-12 sparse bank (R69). -/
def sparseN (s : Nat) : Nat := if s = 1 then 3 else if s = 2 then 4 else 6
/-- Bytes of a sparse group's index word (R69). -/
def sparseIx (s : Nat) : Nat := if s = 3 then 4 else 2
/-- Bytes of a sparse group whose elements are `w` bits (R69). -/
def sparseBytes (s w : Nat) : Nat := sparseIx s + sparseN s * (w / 8)

/-- A little-endian number (R3). -/
def leNat : List Byte → Nat
  | [] => 0
  | b :: bs => b.toNat + 256 * leNat bs

/-- `n` bytes of a number, little-endian (R3). -/
def leBytes : Nat → Nat → List Byte
  | 0, _ => []
  | n + 1, v => BitVec.ofNat 8 v :: leBytes n (v / 256)

/-- The integer of element `e` of a BPI group read with `p` planes (R67, R68). -/
def planeElem (g : List Byte) (p e : Nat) : Int :=
  let u := (List.range p).foldl (fun acc i =>
    let j := 7 - i
    if (g.getD (8 + 32 * (7 - j) + e / 8) 0).getLsbD (e % 8) then acc + 2 ^ j else acc) 0
  intOf .i8 u

/-- The index positions of a sparse group (R69). -/
def sparseIndices (s : Nat) (g : List Byte) : List Nat :=
  let w := leNat (g.take (sparseIx s))
  (List.range (sparseN s)).map fun j => w / 2 ^ (4 * j) % 16

/-- Whether a sparse group is well formed (R70). -/
def sparseOk (s : Nat) (g : List Byte) : Bool :=
  let ix := sparseIndices s g
  let w := leNat (g.take (sparseIx s))
  ix.all (· ≤ 11) && (ix.zip (ix.drop 1)).all (fun q => q.1 < q.2) && w / 2 ^ (4 * sparseN s) == 0

/-- Element `i` of a sparse group: its pattern, or none where no index names it (R69). -/
def sparseElem (s w : Nat) (g : List Byte) (i : Nat) : Option Nat :=
  ((sparseIndices s g).zipIdx.find? (fun q => q.1 = i)).map fun q =>
    leNat ((g.drop (sparseIx s + q.2 * (w / 8))).take (w / 8))

/-- An element decoded from a bank: its integer (for the INT32 path) and its value (R72). -/
structure Elem where
  int : Int
  val : Num
  deriving DecidableEq, Repr

def Elem.zero : Elem := ⟨0, .zero⟩

/-- An unscaled element of format `f`. -/
def elemOf (f : Fmt) (w : Nat) : Elem := ⟨if f.isFloat then 0 else intOf f w, numOf f w⟩

/-- Element `e` (0 to 255) of a scaled or BPI group in format register value `b` (R66 to R68). -/
def groupElem (b : BitVec 32) (g : List Byte) (e : Nat) : Elem :=
  let s := (g.getD (e / 32) 0).toNat
  if bfFmt b = 12 then
    let q := planeElem g (bfPlanes b) e
    ⟨q, scaled (.ofInt q) s⟩
  else
    let f := (fmtOfCode (bfFmt b)).getD .i8
    let x := elemOf f (g.getD (8 + e) 0).toNat
    ⟨x.int, scaled x.val s⟩

/-! Integer divides (R85), on w-bit patterns. -/

/-- The signed value of a w-bit pattern. -/
def sInt (w v : Nat) : Int :=
  let u := v % 2 ^ w
  if u ≥ 2 ^ (w - 1) then (u : Int) - (2 ^ w : Nat) else u

/-- DIV (R85). -/
def divS (w a b : Nat) : Nat :=
  if b % 2 ^ w = 0 then 2 ^ w - 1 else patternOf w (Int.tdiv (sInt w a) (sInt w b))
/-- REM (R85). -/
def remS (w a b : Nat) : Nat :=
  if b % 2 ^ w = 0 then a % 2 ^ w else patternOf w (Int.tmod (sInt w a) (sInt w b))
/-- DIVU (R85). -/
def divU (w a b : Nat) : Nat := if b % 2 ^ w = 0 then 2 ^ w - 1 else (a % 2 ^ w) / (b % 2 ^ w)
/-- REMU (R85). -/
def remU (w a b : Nat) : Nat := if b % 2 ^ w = 0 then a % 2 ^ w else (a % 2 ^ w) % (b % 2 ^ w)

end Sys2Proof.Machine
end

