-- ==== Sys2Proof/Machine/CoreTypes.lean ====
section
/-!
DEFINITION. The data of one core (chapters 01 to 11 of the spec) and of the task and image it runs (chapter 13). Storage
that is mostly at its reset value is a list of key and value pairs that lists no key at that value (`AMap`).
-/

namespace Sys2Proof.Machine

open Sys2Proof

/-- Sparse storage: keys and values; a key that is not listed reads as the default its user names. -/
abbrev AMap (α : Type) := List (Nat × α)

/-- A trap cause, by its code (R156). -/
abbrev Cause := BitVec 8

/-- A vector of 32 cells with their poison bits (R28, R34). -/
structure Vec where
  cells : List (BitVec 32)
  poison : BitVec 32
  deriving DecidableEq, Repr

/-- An entry of a loop stack: START, END and REMAIN (R168). -/
structure LoopEntry where
  start : Word
  last : Word
  remain : Word
  deriving DecidableEq, Repr

/-- A copy loop level: COUNT, SS and DS (R256). -/
structure Level where
  count : BitVec 32
  ss : BitVec 32
  ds : BitVec 32
  deriving DecidableEq, Repr

/-- A breakpoint comparator: enable and address (R294). -/
structure Comparator where
  en : Bool
  addr : Word
  deriving DecidableEq, Repr

/-- A sequencer. `x`, `xp` and `p` are the X registers, their poison bits and the P registers (R10); `last`, `minGap`,
`redo`, `waiting`, `wd`, `hold` and `brkPass` say when the next unit may issue (R12, R13, R19, R167, R239, R285, R294). -/
structure Seq where
  pc : Word
  x : AMap Word
  xp : BitVec 32
  p : AMap PWord
  loops : List LoopEntry
  tmask : Word
  srseed : BitVec 32
  cl : AMap Level
  ended : Bool
  endPc : Word
  brk : AMap Comparator
  /-- The address a TRET returned to, whose comparator match is passed over once (R294). -/
  brkPass : Option Word
  /-- The cycle (MX) or pulse (CT, LD, ST) in which the last unit issued. -/
  last : Nat
  /-- The least distance of the next unit's issue after a branch-class unit (R167). -/
  minGap : Nat
  /-- The next unit issues as soon as it may: the unit before it trapped, or an unwind or a launch placed it (R285). -/
  redo : Bool
  /-- The next unit stands waiting for tokens (R15). -/
  waiting : Bool
  /-- Watchdog or WAITA pulses counted (R19, R265). -/
  wd : Nat
  /-- The operation in flight that holds the sequencer (R239). -/
  hold : Option Nat
  deriving DecidableEq, Repr

/-- A handle register (R50), with what HQRY part 2 gives (R244), whether its page is resident, the virtual base it was
made for, and the fault token of a remote page (R399). -/
structure Hnd where
  bits : HWord
  home : BitVec 10
  tenant : BitVec 20
  resident : Bool
  va : Nat
  token : Option Nat
  /-- The home answered DENIED: a later PGREQ is refused (R399). -/
  denied : Bool
  /-- The extents of intermediate addresses that its translation used: the tables read, and the page (R396). -/
  ipas : List (Nat × Nat)
  deriving DecidableEq, Repr

/-- A translation of one page (R392): whether a leaf was reached and is present, its size and rights, its physical base,
the extents of intermediate addresses that the walk used (R396), the leaf entry's address, and whether an entry broke its rules. -/
structure Xl where
  leaf : Bool
  present : Bool
  psize : Nat
  perm : BitVec 10
  sync : Bool
  settled : Bool
  mig : Nat
  pa : Nat
  ipas : List (Nat × Nat)
  entry : Nat
  error : Bool
  deriving DecidableEq, Repr

/-- An entry of a translation cache, tagged with its context (R395). -/
structure CacheEntry where
  func : Nat
  page : Nat
  xl : Xl
  deriving DecidableEq, Repr

/-- A bit-field pattern of BXLD (R253): the record's 72 bytes. -/
abbrev Pattern := List Byte

/-- A token queue (R14); `taken` counts the tokens taken in the present cycle (R171), and `ord` says for each sequencer which of its
accesses are core-ordered before the tokens posted so far: those with an identity below the number (R98). -/
structure Tok where
  en : Bool
  prod : SeqId
  cons : SeqId
  count : Nat
  taken : Nat
  ord : List Nat
  deriving DecidableEq, Repr

/-- A register write that lands when an instruction completes (R157, R158, R155). -/
inductive RegWrite where
  | x (q : SeqId) (r : BitVec 5) (v : Word) (poison : Bool)
  | p (q : SeqId) (r : BitVec 3) (v : PWord)
  /-- XLATE's write: the handle for a virtual address, translated as it lands; `walk` says that the walk is then still
  running (R242). -/
  | h (r : BitVec 5) (va : Nat) (walk : Bool)
  /-- A core register, by its number (R154). -/
  | sys (n : BitVec 10) (v : Word)
  | rbase (v : BitVec 4)
  | bf (b : Nat) (v : BitVec 32)
  | cl (q : SeqId) (n : BitVec 3) (v : Level)
  | pat (n : BitVec 3) (v : Pattern)
  deriving DecidableEq, Repr

/-- A timed instruction in flight: it completes at `due`, on the schedule clock where `onCycle`, else on the sequencer's
own pulses; its writes land and its SIGNAL posts then (R16, R157). -/
structure Pending where
  id : Nat
  onCycle : Bool
  due : Nat
  q : SeqId
  pc : Word
  writes : List RegWrite
  sig : BitVec 8
  deriving DecidableEq, Repr

/-- A post of `n` tokens made in the present cycle (R16, R17); `id` places the posting instruction in program order. -/
structure Post where
  id : Nat
  q : SeqId
  pc : Word
  queue : Nat
  n : Nat
  deriving DecidableEq, Repr

/-- A value on the flow row: the flow and the position it occupies in schedule cycle `cyc` (R35). -/
structure Drive where
  cyc : Nat
  flow : Nat
  pos : Nat
  v : Vec
  deriving DecidableEq, Repr

/-- A slot result in flight (R35), on flow 16 where it is a portable form's, whose flows are invisible (R212); `fpInv` says that FP_INVALID is to be raised after it is driven (R84, R192). -/
structure SlotRes where
  id : Nat
  due : Nat
  pos : Nat
  flow : Nat
  v : Vec
  fpInv : Bool
  pc : Word
  deriving DecidableEq, Repr

/-- The operations whose portable forms read D (R212). -/
inductive Triple where
  | vfma | vsel | vclmp
  deriving DecidableEq, Repr

/-- A portable form whose read of D, one cycle after its issue, is still to come (R212). -/
structure LateForm where
  cyc : Nat
  kind : Triple
  lt : BitVec 3
  minor : BitVec 5
  arith : Arith
  mask : BitVec 32
  a : Vec
  b : Vec
  d : BitVec 12
  seed : BitVec 32
  fin : Nat
  resAt : Nat
  pc : Word
  iv : Bool
  deriving DecidableEq, Repr

/-- A delayed MRF read of a VRD, which starts at `start` (R31, R32). `m` names the physical register. -/
structure LateRead where
  id : Nat
  start : Nat
  occ : Nat
  m : BitVec 12
  flow : Nat
  deriving DecidableEq, Repr

/-- An MRF write on its way: it starts at `start` and is visible after the cycle `fin` (R31). `m` names the physical
register; `side` marks a write of the side port (R249). -/
structure MrfWrite where
  id : Nat
  start : Nat
  fin : Nat
  m : BitVec 12
  v : Vec
  mask : BitVec 32
  side : Bool
  deriving DecidableEq, Repr

/-- The kind of an MRF bank port (R30, R249). -/
inductive PortKind where
  | read | write | side
  deriving DecidableEq, Repr

/-- A reservation of one port of one MRF bank for schedule cycles `first` to `last` (R31). -/
structure PortRes where
  kind : PortKind
  bank : Nat
  port : Nat
  first : Nat
  last : Nat
  deriving DecidableEq, Repr

/-- What an ACC write does: words of one row, or whole rows made zero (R235). -/
inductive AccEff where
  | cols (row : Nat) (vs : List (Nat × BitVec 32))
  | zero (row n : Nat)
  deriving DecidableEq, Repr

/-- A write that reaches the ACC at the end of schedule cycle `cyc`; those of one cycle apply in the order of `id`, which
is issue order (R236). -/
structure AccWrite where
  id : Nat
  cyc : Nat
  eff : AccEff
  deriving DecidableEq, Repr

/-- A row that a TTOPK has still to read and rank, at `readAt`; its MRF write holds its port from `start` on (R237). -/
structure TopkRow where
  id : Nat
  readAt : Nat
  row : Nat
  start : Nat
  fin : Nat
  m : BitVec 12
  k : Nat
  mx : Bool
  f32 : Bool
  nc : Nat
  deriving DecidableEq, Repr

/-- Where an operand or an access lies: this core's scratchpad, the scratchpad of ranks of the gang (R47), HBM of this
package by physical address, or a page homed in another package, through a handle (R51, R121). -/
inductive Loc where
  | spad (a : Nat)
  | clus (rank : Nat) (mcast : BitVec 8) (a : Nat)
  | hbm (pa : Nat)
  | remote (home : BitVec 10) (va : Nat)
  /-- A page of this package that is not resident: reads give zero (R121, R228, R248). -/
  | absent
  deriving DecidableEq, Repr

/-- The operation of an array instruction (R221). -/
inductive ArrKind where
  | tmma | tmms | tdist
  deriving DecidableEq, Repr

/-- What an array instruction latches at issue (R218 to R225): locators, places (no B with KEEPB), shape, row0, mode,
formats, N mask and alias class. `q` is the sequencer and `addr` the instruction's own first parcel, after its prefixes, that
MXPROG names (R125, R230); `pc` is the unit; `sigQ` and `sig` are the post, and `no` places its instruction in program order. -/
structure ArrCmd where
  kind : ArrKind
  aLoc : Word
  bLoc : Word
  a : Loc
  b : Option Loc
  shape : Word
  row : Nat
  mode : BitVec 4
  fmtA : BitVec 32
  fmtB : BitVec 32
  mask : PWord
  cls : BitVec 3
  q : SeqId
  pc : Word
  addr : Word
  no : Nat
  staged : Bool
  sig : BitVec 8
  sigQ : SeqId
  deriving DecidableEq, Repr

/-- The B that the array holds (R223): what loaded it, its latched format, and its columns; an absent element is none. -/
structure HeldB where
  kind : ArrKind
  n : Nat
  k : Nat
  fmt : BitVec 32
  cols : List (List (Option Elem))
  deriving DecidableEq, Repr

/-- An array instruction in flight: issue cycle and the figures of R225, the B in use, the A rows fetched so far, and the
step group at which it is stopped (R229). `bad` is the address of a malformed sparse group met in loading B (R222); `full` says
that a resumption has fetched every A row that is left (R231). -/
structure ArrOp where
  id : Nat
  t : Nat
  lsrc : Nat
  kc : Nat
  delta : Nat
  cmd : ArrCmd
  b : Option HeldB
  a : AMap (List Elem)
  stop : Option Nat
  bad : Option Word
  full : Bool
  deriving DecidableEq, Repr

/-- MXPROG's suspended instruction (R229, R230). -/
structure Suspended where
  group : Nat
  armed : Bool
  op : ArrOp
  deriving DecidableEq, Repr

/-- A staged matrix command (R58, R233). -/
structure Staged where
  cmd : ArrCmd
  deriving DecidableEq, Repr

/-- What a load writes when its value returns. -/
inductive LoadDst where
  | x (r : BitVec 5) (size : Nat) (sx : Bool)
  /-- 128 bytes unchanged (R250, R252). -/
  | vec (m : BitVec 12)
  /-- A decoded load (R251): the bank format latched, INT and BLK. -/
  | dec (m : BitVec 12) (fmt : BitVec 32) (int : Bool) (blk : Nat)
  /-- A bit-field load (R254). -/
  | fields (m : BitVec 12) (pat : Pattern)
  /-- A pattern record (R253). -/
  | pattern (n : BitVec 3)
  deriving DecidableEq, Repr

/-- An untimed operation in flight. -/
inductive Op where
  /-- A load (R246 to R254): where from, how many bytes; for a promised load its due cycle and its flag (R248). -/
  | load (dst : LoadDst) (src : Loc) (n : Nat) (promise : Option Nat) (pf : Option (BitVec 3)) (absent : Bool)
  /-- A store (R246 to R252). -/
  | store (dst : Loc) (bytes : List Byte)
  /-- The fetch of one row in memory of a handle operand of an array instruction, B or A: the step group that needs it, the row's
  number, its first byte's place, and the bytes fetched, by offset from that and length (R221, R228, R229). -/
  | operand (arr : Nat) (isB : Bool) (group row : Nat) (src : Loc) (spans : List (Nat × Nat))
  /-- ORDLD and ORDST (R270). -/
  | ordLoad (d : BitVec 5) (src : Loc) (size : Nat) (sx : Bool)
  | ordStore (dst : Loc) (bytes : List Byte)
  /-- A synchronisation operation on the object at a physical or remote address; `d` is the register of SYCAS and SYRD. -/
  | sync (k : SyncKind) (obj : Loc) (va : Nat) (d : Option (BitVec 5))
  | xfence (a b : BitVec 3) (after : List Nat)
  | waita (e : BitVec 3) (a : Nat) (v : Word) (lim : BitVec 4)
  | sadrain (after : List Nat)
  | hinv (all : Bool) (h : BitVec 5) (after : List Nat)
  /-- PGREQ, with the virtual address of the page it asks for (R245). -/
  | pgreq (h : BitVec 5) (off va : Nat)
  | xlate (h : BitVec 5) (va : Nat)
  | cfree (grad : Bool) (slot : Nat)
  deriving DecidableEq, Repr

/-- How far an untimed operation has come: it waits for its effect's time; the commit buffer holds it; it waits on
another agent; its effect has been performed; its home refused it; its response timed out. -/
inductive Stage where
  | going | commit | away | done | refused | timedOut
  deriving DecidableEq, Repr

/-- An untimed operation in flight (R238 to R240). -/
structure Flight where
  id : Nat
  q : SeqId
  pc : Word
  path : Nat
  cls : BitVec 3
  op : Op
  stage : Stage
  /-- The pulse at which its next event is due, once one is known. -/
  due : Nat
  sig : BitVec 8
  /-- Trap level at its issue (R286). -/
  level : Nat
  /-- An unwind or a kill has withdrawn its flag and post (R291, R297). -/
  quiet : Bool
  /-- The data returned, and which of its bytes are marked as uncorrectable (R295). -/
  data : List Byte
  marks : List Nat
  /-- The translation it goes through, as its issue latched it (R242): a handle with its register, or, with none, the translation that a
  synchronisation operation made itself. -/
  hnd : Option (Option (BitVec 5) × Hnd)
  /-- A promised load whose due cycle has passed (R248). -/
  late : Bool
  deriving DecidableEq, Repr

/-- What a command of the copy engine does (R257, R263, R276, R280). -/
inductive CmdKind where
  | copy (src dst : Loc) (burst : Nat) (dburst : Nat) (levels : List Level) (convert : Bool)
  | acc (dst : Loc) (row nr cg ncg : Nat) (f32 : Bool)
  | fsig (target : Word) (v : Word)
  | send (up : Bool) (src : Loc) (slot : Nat) (burst : Nat) (levels : List Level)
  deriving DecidableEq, Repr

/-- Bytes bound for a place, with the marks among them (R295). -/
structure MemWrite where
  loc : Loc
  bytes : List Byte
  marks : List Nat
  deriving DecidableEq, Repr

/-- A command in the copy engine (R262). -/
structure EngineCmd where
  id : Nat
  q : SeqId
  pc : Word
  kind : CmdKind
  timed : Bool
  ord : Bool
  arith : Arith
  /-- The bank formats as latched (R46), and the LFSR before its conversions (R76). -/
  bf : AMap (BitVec 32)
  seed : BitVec 32
  /-- The copy accepted just before it, for .ORD (R111). -/
  pred : Option Nat
  flag : Option (Loc × Word)
  staged : Option Staged
  sig : BitVec 8
  cls : BitVec 3
  /-- The handles of its ends, with their registers, as its issue latched them (R242, R243). -/
  hs : List (BitVec 5 × Hnd)
  /-- The cycle of acceptance, and the start of a timed command (R260). -/
  acc : Nat
  start : Option Nat
  /-- The pulse at which an untimed command's next event is due, or the cycles that a timed one takes. -/
  due : Nat
  stage : Stage
  /-- The places it reads and those it writes, burst by burst, with their sizes (R99, R102). -/
  srcs : List (Loc × Nat)
  dests : List (Loc × Nat)
  /-- What the command has read and is to write; for CPACC the words read so far. -/
  writes : List MemWrite
  words : List (BitVec 32)
  level : Nat
  quiet : Bool
  deriving DecidableEq, Repr

/-- A stream in the SAE (R266): the next entry and the updates emitted from the window in hand (R267). -/
structure Stream where
  id : Nat
  pc : Word
  target : Loc
  extent : Nat
  /-- The register of a handle target, and the handle as its issue latched it (R242, R268). -/
  hnd : Option (BitVec 5 × Hnd)
  ix : Nat
  vals : Nat
  n : Nat
  op : BitVec 2
  ty : BitVec 2
  arith : Option Arith
  next : Nat
  updates : List (Nat × BitVec 32)
  /-- The pulse at which the updates in hand leave the commit buffer (R6, R299). -/
  out : Nat
  /-- The entry that ends the stream with a fault once the updates before it are applied (R268). -/
  fault : Option Nat
  sig : BitVec 8
  cls : BitVec 3
  level : Nat
  quiet : Bool
  due : Nat
  deriving DecidableEq, Repr

/-- An open containment region and its record (R181); `pcs` and `ended` are those of LD, MX and ST. What was issued in it has an
identity not below `no` (R297). -/
structure Region where
  id : BitVec 8
  no : Nat
  handler : Word
  counts : List Nat
  pcs : List Word
  ended : List Bool
  loops : List (List LoopEntry)
  staged : Option Staged
  deriving DecidableEq, Repr

/-- A cause that was not raised at issue and waits for a boundary (R240, R286); `level` is the trap level at the issue of
its instruction, `late` whether LATE is to be set, `epc` EPC where it is not the next unit; `waited` says that it was ready to be taken and was
not, which sets LATE (R287). -/
structure PendCause where
  q : SeqId
  cause : Cause
  epc : Option Word
  eaddr : Word
  late : Bool
  level : Nat
  waited : Bool
  deriving DecidableEq, Repr

/-- The trap registers of a level as they stood before the trap of the present cycle, which takes effect at the cycle's end (R284). -/
structure TrapRegs where
  tl : Nat
  ecause : Word
  epc : Word
  eaddr : Word
  eseq : Word
  deriving DecidableEq, Repr

/-- A deferred consumption of marked bytes, for the next boundary; `level` is the trap level at the consumption (R296). -/
structure Consumed where
  q : SeqId
  pc : Word
  addr : Nat
  level : Nat
  deriving DecidableEq, Repr

/-- A read of a scratchpad made in a tick under ERCHK: its sequencer, the trap level, the rank of the gang that it reads, the extent there, and
the address that EADDR is to report (R102). -/
structure ReadNote where
  tick : Nat
  q : SeqId
  level : Nat
  rank : Nat
  a : Nat
  n : Nat
  ea : Word
  deriving DecidableEq, Repr

/-- A byte of this core's scratchpad that its own write has changed and that other cores see unchanged up to the pulse `till`,
with its old value and mark (R6, R299). -/
structure Veil where
  till : Nat
  addr : Nat
  old : Byte
  ue : Bool
  deriving DecidableEq, Repr

/-- What the map in force gives one core at a task boundary (R314, R315, R317): slot latencies, intervals and states by
position 1 to 14, hops, Δ, crossbar latencies, BADJ, P, class and XMAX. -/
structure CoreMap where
  lat : List Nat
  ii : List Nat
  dead : List Nat
  /-- Units at STATE 1, by their bit of USE. -/
  weak : List Nat
  hop : List Nat
  delta : Nat
  xbar : List Nat
  badj : List Nat
  prom : Nat
  cls : Nat
  xmax : Nat
  working : Bool
  deriving DecidableEq, Repr

/-- A code segment (R322, R323): its length and its bytes, as they stood when the loader took the image, which a running task does
not see change (R105, R124); bytes past those listed are zero. Marks on them are those of the 64 KiB pages of HBM that hold it,
`off` bytes from the first page's start, or of the entry of the translated-image cache with an identity, `off` bytes into it
(R295, R330). -/
structure Segment where
  pages : List Nat
  entry : Option Nat
  off : Nat
  len : Nat
  bytes : List Byte
  deriving DecidableEq, Repr

/-- An image's header and task header (R153, R322), as the loader read them. -/
structure Image where
  portable : Bool
  copyDriven : Bool
  mrfReq : Nat
  accReq : Nat
  spadReq : Nat
  tokq : List (BitVec 16)
  bankf : List (BitVec 32)
  specimen : BitVec 128
  die : Nat
  cls : Nat
  mapVer : Nat
  mapDig : BitVec 384
  pdig : BitVec 384
  variant : Nat
  use : BitVec 32
  alat : List Nat
  live : BitVec 24
  entry : List Nat
  segs : List Segment
  safe : List (List Nat)
  deriving DecidableEq, Repr

/-- The chain schedule entry that launched a task: the slots it allocated, consumed and frees, and those it reserved for its
sends (R279 to R281, R348). -/
structure ChainCtx where
  stash : Option Nat
  act : Option Nat
  grad : Option Nat
  unstash : Option Nat
  down : Option Nat
  up : Option Nat
  deriving DecidableEq, Repr

/-- The task on a core (R7 to R9, R381): its image, where it stands in its graph and gang, and its tenant. -/
structure Task where
  image : Image
  argVa : Word
  queue : Nat
  graph : Nat
  node : Nat
  seqNo : Nat
  fn : Nat
  tenant : BitVec 20
  rank : Nat
  width : Nat
  oneCluster : Bool
  gang : Nat
  level : Nat
  chain : Option ChainCtx
  wheel : List Nat
  stale : Bool
  /-- The bytes of the portable image of the task's variant; none for a native image alone (R377). -/
  src : List Byte
  deriving DecidableEq, Repr

/-- Where a core stands: no task; clearing its storage before a task (R7); running; asked to halt (R301); halted with its
accesses draining (R303); killed with what it sent draining (R291); saving its record, or restoring one, up to a tick (R305,
R306); stopped at a safe point until its pipeline is empty, to go on in another image (R332). -/
inductive Status where
  | free
  | setup (left : Nat)
  | running
  | halting
  | halted
  | killed
  | saving (till : Nat)
  | restoring (till : Nat)
  | swapping (point : Nat)
  deriving DecidableEq, Repr

/-- What the resident runtime waits for on this core (R292, R308). -/
inductive RuntimeWait where
  | idle
  /-- A page request made for a cure, by its identity in flight, and whether MXRES follows it. -/
  | cure (flight : Nat) (res : Bool)
  deriving DecidableEq, Repr

/-- One core. -/
structure Core where
  die : Nat
  cluster : Nat
  core : Nat
  status : Status
  task : Option Task
  ct : Seq
  ld : Seq
  mx : Seq
  st : Seq
  -- trap registers (R287) and banked return addresses (R289)
  tl : Nat
  ecause1 : Word
  ecause2 : Word
  epc1 : Word
  epc2 : Word
  eaddr1 : Word
  eaddr2 : Word
  eseq1 : Word
  eseq2 : Word
  tvec1 : Word
  tvec2 : Word
  ret1 : Word
  /-- The address and the watchdog count of a wait of CT's that a trap interrupted; it goes on when TL returns to 0 (R19). -/
  ctWd : Option (Word × Nat)
  ret2 : Word
  -- core registers
  chkcfg : Word
  cycle : Nat
  mapver : Word
  coreClass : Nat
  rbase : BitVec 4
  bvalid : Bool
  suspended : Option Suspended
  tkwdog : Word
  fstat : Word
  replays : BitVec 32
  bf : AMap (BitVec 32)
  hnd : AMap Hnd
  tok : AMap Tok
  /-- What is core-ordered before each sequencer's next unit, as in a token queue (R98). -/
  ord : AMap (List Nat)
  bx : AMap Pattern
  errrec : Word
  -- storage
  mrf : AMap (BitVec 33)
  acc : AMap (BitVec 32)
  spad : AMap Byte
  spadUe : List Nat
  veil : List Veil
  -- timed domain
  drives : List Drive
  slotRes : List SlotRes
  slotLast : AMap Nat
  lateReads : List LateRead
  lateForms : List LateForm
  mwr : List MrfWrite
  ports : List PortRes
  accWr : List AccWrite
  arr : List ArrOp
  arrBusy : Nat
  heldB : Option HeldB
  topkUntil : Nat
  topk : List TopkRow
  /-- The pulse up to which an untimed vector write holds the side port (R249). -/
  sideFree : Nat
  /-- The load whose write of the side port has begun (R249). -/
  sideNow : Option Nat
  /-- The vectors whose untimed writes finish in this pulse (R31, R249). -/
  sideWr : List (BitVec 12 × Vec)
  mxCount : Nat
  mxReads : Nat
  mxWrites : Nat
  -- untimed activity
  done : List Pending
  posts : List Post
  flight : List Flight
  cmds : List EngineCmd
  /-- The copy or CPACC accepted last (R111). -/
  lastCopy : Option Nat
  staged : Option Staged
  stagedDue : List (Nat × Staged)
  sae : List Stream
  pend : List PendCause
  consumed : List Consumed
  regions : List Region
  abort : Bool
  tlb : List CacheEntry
  -- how the core stands in its cycle
  pulse : Nat
  nextId : Nat
  trapped : Bool
  /-- Where a trap was taken in this cycle, the registers of its level before it (R284). -/
  preTrap : Option TrapRegs
  /-- The MX unit that raised ISSUE_OVERFLOW and has not issued since: it raises it again (R286, R293). -/
  mxOver : Option Word
  /-- The P registers written in this pulse, by sequencer and number, with their values before it (R186). -/
  pOld : List (Nat × PWord)
  /-- Reads of scratchpads in the present tick (R102). -/
  reads : List ReadNote
  /-- A resumed array instruction waits for its operands, and the domain for it (R231). -/
  resuming : Bool
  mxWait : Bool
  ilk : Nat
  replayLeft : Nat
  drainForms : Bool
  /-- All conditions of R52 hold, and the completion event leaves the commit buffer at pulse `leaveAt` (R299). -/
  ended : Bool
  leaveAt : Nat
  /-- A restored core, whose sequencers issue once its array has resumed and its pending causes have been looked at (R306). -/
  restored : Bool
  /-- A pre-emption was asked for while the task was not running yet: it halts as soon as it is (R301, R311). -/
  preempt : Bool
  rtWait : RuntimeWait
  /-- Accesses were abandoned when an ember save's drain ended: DRAINED is 0 (R430). -/
  lost : Bool
  map : CoreMap
  deriving DecidableEq, Repr

end Sys2Proof.Machine
end

