-- ==== Sys2Proof/Machine/HubTypes.lean ====
section
/-!
DEFINITION. The data of the package outside its cores (chapters 13, 16, 18, 19 and 21).
-/

namespace Sys2Proof.Machine

open Sys2Proof

/-- A function: its BAR0 registers and translation context (R367, R393, R394, R441), and the MSI-X vectors it raised. -/
structure Func where
  hpdrv : Word
  agree : Word
  s1root : Word
  s1req : Nat
  s1done : Nat
  frbase : Word
  frctl : Word
  frtail : Nat
  frhead : Nat
  pool : List Nat
  s2root : Word
  s2req : Nat
  s2done : Nat
  tenant : BitVec 20
  migen : Bool
  migthr : Nat
  dirbase : Word
  dircnt : Nat
  nonce : List Byte
  qstat : Word
  msix : List Nat
  deriving DecidableEq, Repr

/-- What the command that a queue runs waits for (R372). -/
inductive QRun where
  | start
  /-- A task graph, by its number. -/
  | graph (g : Nat)
  /-- A synchronisation operation at this package's sync unit, or at another package by its tag. -/
  | sync (k : SyncKind) (pa : Nat)
  | remote (tag : Nat)
  /-- A mark to be recorded at the base dies. -/
  | mark (n : Nat)
  /-- The chain engine. -/
  | chain
  /-- Completed, with STATUS, CAUSE and NODE (R373). -/
  | over (status cause node : Nat)
  deriving DecidableEq, Repr

/-- The command a queue runs: its count, its bytes and how far it has come. -/
structure QCmd where
  n : Nat
  bytes : List Byte
  run : QRun
  deriving DecidableEq, Repr

/-- A hardware queue (R368, R369); `seen` is the QTAIL last read, `flush` counts the commands of before a reopening that are still to
be flushed (R385), `brk` holds its comparators (R421). -/
structure Queue where
  cbase : Nat
  cplbase : Nat
  log2sz : Nat
  loc : Nat
  func : Nat
  prio : Nat
  weight : Nat
  tenant : BitVec 20
  vec : Nat
  state : Nat
  tail : Nat
  head : Nat
  seen : Nat
  flush : Nat
  cur : Option QCmd
  /-- The operation of the command started last (R432). -/
  op : Option Nat
  brk : AMap Comparator
  deriving DecidableEq, Repr

/-- An image reference (R377), with what it names as the LAUNCH read it: the 64 KiB pages that hold it and its bytes. -/
structure ImageRef where
  dig : BitVec 384
  variant : Nat
  kind : Nat
  len : Nat
  va : Nat
  pages : List Nat
  bytes : List Byte
  deriving DecidableEq, Repr

/-- A node record (R376). -/
structure NodeRec where
  imgref : Nat
  img : ImageRef
  argva : Word
  w : Nat
  classc : Nat
  diec : Nat
  array : Bool
  pre : Bool
  ember : Bool
  mrfr : Nat
  tokr : Nat
  accr : Nat
  spadr : Nat
  wheel : Nat
  preds : List Nat
  deriving DecidableEq, Repr

/-- How far a node has come (R380 to R384). -/
inductive NodeState where
  | waiting | ready | running | saved | done
  | failed (status : Nat)
  deriving DecidableEq, Repr

/-- A node; `since` is the tick from which its wait counts, `ended` the number of its tasks that have ended. -/
structure Node where
  rec_ : NodeRec
  state : NodeState
  level : Nat
  since : Nat
  ended : Nat
  gang : Nat
  started : Nat
  deriving DecidableEq, Repr

/-- A task graph (R380); `status` of the first failure, its cause and node. -/
structure Graph where
  id : Nat
  queue : Nat
  seqNo : Nat
  func : Nat
  tenant : BitVec 20
  prio : Nat
  chain : Option ChainCtx
  nodes : List Node
  status : Nat
  cause : Nat
  failNode : Nat
  deriving DecidableEq, Repr

/-- A completion event as the dispatcher hears of it: the graph and node of the task that ended, and the status, 0 for OK (R386). -/
structure Ended where
  graph : Nat
  node : Nat
  status : Nat
  deriving DecidableEq, Repr

/-- Cores, by number, that are kept for a node of level 0 for which gangs have been asked to make room (R384). -/
structure Kept where
  graph : Nat
  node : Nat
  cores : List Nat
  deriving DecidableEq, Repr

/-- A saved core record (R304), with the graph and node it belongs to. -/
structure Saved where
  graph : Nat
  node : Nat
  core : Core
  deriving DecidableEq, Repr

/-- Who waits on a fault record: a page request in flight on a core of this package, or a request of another (R399). -/
inductive Holder where
  | core (die cluster core id : Nat)
  | remote (pkg tag va : Nat)
  deriving DecidableEq, Repr

/-- An open fault record (R404). -/
structure FaultRec where
  func : Nat
  page : Nat
  tenant : BitVec 20
  kind : Nat
  token : Nat
  holders : List Holder
  deriving DecidableEq, Repr

/-- A page on its way to another package (R402): its virtual and physical address, the tags of those of its packets that have been sent
and not answered, once they have been, the requests held for it, and each core's next identity when the move began. -/
structure Migration where
  id : Nat
  func : Nat
  va : Nat
  pa : Nat
  dest : Nat
  due : Nat
  tags : Option (List Nat)
  held : List Packet
  marks : AMap Nat
  deriving DecidableEq, Repr

/-- The parts of a page that have come from its old home (R402): the package, tenant and page, and the bytes so far with their marks. -/
structure Incoming where
  src : Nat
  tenant : BitVec 20
  va : Nat
  bytes : List Byte
  marks : List Nat
  deriving DecidableEq, Repr

/-- Whose a request is: the task, by gang and rank, and the identity of its operation. -/
structure Owner where
  gang : Nat
  rank : Nat
  id : Nat
  deriving DecidableEq, Repr

/-- A request this package has made of another (R399, R418): who made it, the packet, the tick at which it was last sent
(none while the damper holds it at injection, R427), and whether the home answered HELD. -/
structure Request where
  tag : Nat
  owner : Option Owner
  packet : Packet
  sent : Option Nat
  held : Bool
  deriving DecidableEq, Repr

/-- Answers that this package's router combines for a multicast packet (R414): the writer and its tag, the ports still to
answer, 24 for this package itself, and the answers so far. -/
structure Combo where
  src : Nat
  tag : Nat
  waits : List Nat
  got : List (Nat × Packet)
  deriving DecidableEq, Repr

/-- A fabric port (R416). -/
structure Link where
  state : Nat
  version : Nat
  feat : Nat
  lanes : Nat
  drops : Nat
  crcerr : Nat
  deriving DecidableEq, Repr

/-- A slot table (R412): its START and DIGEST, for each slot the pairs of output and input, and its circuits as circuit,
destination and route. -/
structure SlotTable where
  start : Nat
  digest : BitVec 384
  slots : List (List (Nat × Nat))
  circs : List (Nat × Nat × Nat)
  deriving DecidableEq, Repr

/-- A chain table's header (R344). -/
structure ChainHeader where
  up : Nat
  down : Nat
  s : Nat
  ra : Nat
  rg : Nat
  dnra : Nat
  uprg : Nat
  stbase : Nat
  ssz : Nat
  asz : Nat
  gsz : Nat
  abase : Nat
  gbase : Nat
  cirdn : Nat
  cirup : Nat
  deriving DecidableEq, Repr

/-- A chain entry (R345). -/
structure ChainEntry where
  kind : Nat
  stash : Nat
  nact : Bool
  ngrad : Bool
  sdown : Bool
  sup : Bool
  mb : Nat
  prio : Nat
  step : Bool
  addr : Nat
  target : Word
  deriving DecidableEq, Repr

/-- A hello kept from a neighbour (R347): its package, whether it names activation slots or gradient slots, its tenant, slots, base
and slot size. -/
structure Hello where
  pkg : Nat
  act : Bool
  tenant : BitVec 20
  slots : Nat
  base : Nat
  size : Nat
  deriving DecidableEq, Repr

/-- The chain schedule engine (R343 to R361). A slot holds the micro-batch in it. `running` is the graph of entry `entry`;
its launch record may still be on its way from another package;
`sync` the operation of a SYNC head, `acq` whether that is its ACQ.G; `sent` and `freed` say which sends and frees its tasks have made. -/
structure Chain where
  owner : Option Nat
  held : Bool
  func : Nat
  tenant : BitVec 20
  header : ChainHeader
  entries : List ChainEntry
  head : Nat
  running : Option Nat
  entry : Nat
  ctx : ChainCtx
  sentDown : Bool
  sentUp : Bool
  freedAct : Bool
  freedGrad : Bool
  sync : Option QRun
  acq : Bool
  started : Bool
  done : Bool
  stopped : Bool
  helloSent : Bool
  stash : List (Option Nat)
  act : List (Option Nat)
  grad : List (Option Nat)
  dview : List Bool
  uview : List Bool
  bubUp : Nat
  bubDown : Nat
  bubStash : Nat
  bubSlot : Nat
  wait : Nat
  hellos : List Hello
  /-- Where the neighbours' slots lie, once their hellos are in. -/
  upHello : Option Hello
  downHello : Option Hello
  /-- The status a stop reports, and the tick of the last issue or completion, whose cycle is examined no more. -/
  status : Nat
  last : Nat
  /-- The tick at which the last graph completed (R432). -/
  graphEnd : Nat
  deriving DecidableEq, Repr

/-- A die map in force (R312 to R319): its version and digest, the map of each core that is not nominal, by cluster and
core, and the record's bytes. -/
structure DieMap where
  version : Nat
  digest : BitVec 384
  cores : AMap CoreMap
  bytes : List Byte
  deriving DecidableEq, Repr

/-- An image of the translated-image cache (R330), with the bytes of the portable image it was made from and the marks on its
own (R295). -/
structure CacheImage where
  id : Nat
  pdig : BitVec 384
  variant : Nat
  die : Nat
  version : Nat
  cls : Nat
  vis : BitVec 64
  bytes : List Byte
  ue : List Nat
  src : List Byte
  deriving DecidableEq, Repr

/-- A translation in progress (R329), for the functions of a mask, under the map of a version; `again` says that it replaces an entry
that a new map made the cache drop, and that launches wait for it (R334). -/
structure Translation where
  id : Nat
  vis : BitVec 64
  version : Nat
  pdig : BitVec 384
  variant : Nat
  die : Nat
  cls : Nat
  src : List Byte
  due : Nat
  again : Bool
  deriving DecidableEq, Repr

/-- The power controller (R425 to R429): level registers, the pins as last read and in force, the table's entries as the 7
bytes of R439, the level each of the 56 units of the kindling order works at (none before its first start), the next
step, and the input power in W as last measured. -/
structure Power where
  level : Nat
  pinRead : Nat
  pins : Nat
  inforce : Nat
  table : List (List Nat)
  unitLevel : List (Option Nat)
  next : Option (Nat × Nat)
  pfail : Bool
  ember : Bool
  inw : Nat
  deriving DecidableEq, Repr

/-- The mark that a queue's latest MARK command made (R432): its queue and tenant, the tick at which the command ran, and whether
the mark's copy has finished, no page having been skipped. -/
structure MarkRec where
  queue : Nat
  tenant : BitVec 20
  start : Nat
  no : Nat
  whole : Bool
  deriving DecidableEq, Repr

/-- A decision of the journal (R386). -/
inductive Decision where
  | kick (q tail : Nat)
  | start (q n : Nat)
  | node (graph node : Nat) (cores : List Nat)
  | preempt (core : Nat)
  | record (q n status : Nat)
  deriving DecidableEq, Repr

/-- The hub section of an ember image (R431): queues, kicks, the journal, the dispatcher's graphs and round pointers, the chain engine,
and the marks. -/
structure HubSave where
  queues : AMap Queue
  kicks : List Nat
  journal : List Decision
  graphs : List Graph
  round : List Nat
  chain : Chain
  marks : List MarkRec
  deriving DecidableEq, Repr

/-- The header of an ember image (R431). -/
structure EmberHead where
  magic : Nat
  ever : Nat
  specimen : BitVec 128
  time : Word
  nrec : Nat
  total : Nat
  digest : BitVec 384
  complete : Nat
  deriving DecidableEq, Repr

/-- An ember image (R431): its header, the hub section, and the core records with the kept storage; the first `before` records of the
package's list are older than the save and lie in HBM. -/
structure Ember where
  head : EmberHead
  hub : HubSave
  records : List Saved
  before : Nat
  deriving DecidableEq, Repr

/-- Whether an image's last byte has been written. -/
def Ember.whole (e : Ember) : Bool := e.head.complete == 0xA5

/-- Soundings (R311, R434): the window registers, clusters of the window still to sound, the cluster being sounded with the
tick of its end, and the tick of each cluster's last sounding and of its becoming free. -/
structure Sounding where
  mask : Nat
  start : Word
  armed : Bool
  opened : Bool
  todo : List Nat
  cur : Option (Nat × Nat × Bool)
  soundings : Nat
  idle : Nat
  last : AMap Nat
  freeAt : AMap Nat
  deriving DecidableEq, Repr

/-- The checkpoint copier (R436 to R438): registers, the dirty pages, the pages of the mark still to copy, and the content
staged. `all` lists the base dies whose every page is dirty; `asked` is a mark that these base dies have still to record. -/
structure Ckpt where
  ctl : Word
  dst : Word
  all : List Nat
  dirty : List Nat
  markNo : Nat
  pages : List Nat
  place : Nat
  ue : Bool
  staged : List (Nat × List Byte × List Nat)
  asked : Option (Nat × List Nat)
  marks : List MarkRec
  deriving DecidableEq, Repr

/-- The wellhead (R439 to R441): each class's policy, the configuration record's SEQ and digest, whether the key store is
erased, the alarm log, and whether the package is halted. -/
structure Wellhead where
  policy : List Nat
  seqNo : Nat
  cfg : BitVec 384
  erased : Bool
  alarms : BitVec 5
  halted : Bool
  deriving DecidableEq, Repr

/-- A write held at a base die until its page's old content is staged (R437). -/
structure HeldWrite where
  id : Nat
  pa : Nat
  bytes : List Byte
  marks : List Nat
  deriving DecidableEq, Repr

/-- A bound region (R114, R274): object, base, length, scope, the package and core that bound it, and the context of its
addresses. The object is named by its physical address at its home, and by its virtual one elsewhere. -/
structure Binding where
  obj : Nat
  base : Nat
  len : Nat
  scope : BitVec 3
  pkg : Nat
  core : Nat
  func : Nat
  deriving DecidableEq, Repr

/-- A read that a queue, or the chain engine as number 1,024, has made of another package (R371): the context, extent and tag, and
what came back, where it has: bytes, or a refusal. -/
structure Fetch where
  who : Nat
  func : Nat
  va : Nat
  len : Nat
  tag : Nat
  got : Option (Option (List Byte))
  deriving DecidableEq, Repr

/-- A hub map (R412): its version and digest, and its unit records. -/
structure HubMap where
  version : Nat
  digest : BitVec 384
  units : List (List Byte)
  deriving DecidableEq, Repr

/-- What the driver or the board does other than by a register: writes to HBM or to host memory, sets the package's number (R321),
hands over a hub map record (R412), begins a port's training, has a link send some beats again (R416), measures the input power
(R426), or holds an ember image in its flash (R433).
Log entry 76 (DESIGN CHOICE). -/
inductive Poke where
  | hbm (pa : Nat) (bytes : List Byte)
  | host (a : Nat) (bytes : List Byte)
  | pkg (n : Nat)
  | hubMap (bytes : List Byte)
  | train (port : Nat)
  | resend (port n : Nat)
  | inputPower (w : Nat)
  | flash (e : Option Ember)
  deriving DecidableEq, Repr

/-- Who waits at the sync unit: an operation of a core, the request of another package, a queue's command, or the chain engine. -/
inductive Waiter where
  | core (core id : Nat)
  | packet (p : Packet)
  | queue (q : Nat)
  | chain
  deriving DecidableEq, Repr

/-- An operation that has arrived at the sync unit and waits (R112): whose it is, its kind and object, the package, core and context it
comes from, and the translation of its object, with the number of its arrival. -/
structure SyncWait where
  who : Waiter
  kind : SyncKind
  pa : Nat
  pkg : Nat
  core : Nat
  func : Nat
  via : Option Hnd
  no : Nat
  deriving DecidableEq, Repr

/-- An invalidation in progress (R396): the accesses of cores that it waits for, by core and identity, and the operations at the sync
unit. -/
structure Inval where
  id : Nat
  func : Nat
  stage : Nat
  waits : List (Nat × Nat)
  syncs : List SyncWait
  deriving DecidableEq, Repr

/-- The package outside the cores. -/
structure Hub where
  -- the package, its memory and the host's
  pkg : Nat
  hbm : AMap Byte
  hbmUe : List Nat
  host : AMap Byte
  hostUe : List Nat
  /-- Graphs killed whose completion is still to be recorded, with the kill's cause and node (R291). -/
  kills : List (Nat × Nat × Nat)
  -- host interface and dispatch
  funcs : AMap Func
  kicks : List Nat
  queues : AMap Queue
  graphs : List Graph
  nextGraph : Nat
  nextGang : Nat
  round : List Nat
  errsel : Word
  /-- Completion events that wait for the active queue core, in the order in which they were raised (R386, R387). -/
  events : List Ended
  kept : List Kept
  journal : List Decision
  /-- Queue core 0 or 1, and the tick at which the standby takes over after an error (R387). -/
  active : Nat
  takeover : Option Nat
  saved : List Saved
  -- images and maps
  specimen : BitVec 128
  firmware : Nat
  map0 : DieMap
  map1 : DieMap
  /-- The maps that were in force before, with their dies (R326). -/
  oldMaps : List (Nat × DieMap)
  newMap : List (Nat × List Byte)
  cache : List CacheImage
  translations : List Translation
  /-- Reads that queue cores have made of other packages (R371). -/
  fetches : List Fetch
  /-- MAPINFO bit 32 of each die: a record has been copied (R435). -/
  mapDone : BitVec 2
  -- translation
  dieTlb0 : List CacheEntry
  dieTlb1 : List CacheEntry
  ingress : List CacheEntry
  invals : List Inval
  faults : List FaultRec
  nextToken : Nat
  migCount : List (Nat × Nat × Nat × Nat)
  migrations : List Migration
  incoming : List Incoming
  -- synchronisation: bound regions; operations that wait, in the order of their arrival; ordered requests that wait
  bound : List Binding
  /-- Regions that cores of this package have bound to objects homed elsewhere. -/
  boundAway : List Binding
  syncWait : List SyncWait
  arrivals : List Packet
  -- fabric
  requests : List Request
  nextTag : Nat
  /-- Tags whose requests have ended, with the tick from which they may be used again (R418). -/
  spent : List (Nat × Nat)
  /-- Packets that wait to be injected, and those that left, by port. -/
  out : List Packet
  wire : List (Nat × Packet)
  combos : List Combo
  links : List Link
  paths : AMap (BitVec 128)
  ptsel : Nat
  groups : AMap Word
  mcsel : Nat
  slotNow : Option SlotTable
  slotNext : Option SlotTable
  ststat : Nat
  /-- The hub map in force, and those before it (R412, R413). -/
  hubMap : HubMap
  oldHubs : List HubMap
  fto : Nat
  brksel : Nat
  chain : Chain
  -- operation
  power : Power
  image : Option Ember
  embstat : Bool
  emberEnd : Option Nat
  sounding : Sounding
  ckpt : Ckpt
  heldWrites : List HeldWrite
  well : Wellhead
  nextId : Nat
  deriving DecidableEq, Repr

end Sys2Proof.Machine

namespace Sys2Proof.Config

/-- The bytes of an ember image after its header: the spec does not say how the hub section is laid out.
Log entry 99 (DESIGN CHOICE). -/
opaque emberImage (h : Machine.HubSave) (rs : List Machine.Saved) : List Byte

end Sys2Proof.Config
end

