-- ==== Sys2Proof/Machine/State.lean ====
section
/-!
DEFINITION. The state of the machine, and the reasons for which it can stop. INVENTORY.md lists every field against the
rule of spec/ that names it.
-/

namespace Sys2Proof.Machine

open Sys2Proof

/-- Faults. No meaning of this model raises one: every trap the spec describes is taken, and every event whose conditions
do not hold changes nothing. -/
inductive Fault where
  /-- No instruction or event raises it (safe: a run that stopped so would have gone on in the hardware). -/
  | none
  deriving DecidableEq, Repr

/-- Refusals. -/
inductive Refusal where
  /-- An arm of `exec` that has no meaning yet raises it (safe: nothing is claimed of the instruction). -/
  | notModelled (mnemonic : String)
  deriving DecidableEq, Repr

/-- What the model does next for the core in hand: begin its pulse, let the sequencers issue, end its pulse, turn to
the next core; or step the package outside the cores. -/
inductive Phase where
  | begin | issue | close | rotate | hub
  deriving DecidableEq, Repr

/-- The machine: the core in hand and the sequencer whose turn it is, the other cores, and the package around them. -/
structure State where
  core : Core
  who : SeqId
  phase : Phase
  parked : List Core
  /-- Cores of the present tick that still await their pulse. -/
  turns : Nat
  /-- Events due now, in order. -/
  agenda : List Instr
  /-- Operations of the outside world, each with the tick at which it lands. -/
  inputs : List (Nat × Instr)
  /-- What the driver and the board do besides, in the same way. -/
  pokes : List (Nat × Poke)
  /-- Counter of free values. -/
  free : Nat
  /-- Reference cycles of the hub and pod clock (R118, R412). -/
  tick : Nat
  hub : Hub
  deriving DecidableEq, Repr

/-- A sequencer at reset, and before a launch (R7, R77, R282). -/
def Seq.initial : Seq :=
  { pc := 0, x := [], xp := 0, p := [], loops := [], tmask := 0, srseed := 1, cl := [], ended := false, endPc := 0,
    brk := [], brkPass := none, last := 0, minGap := 1, redo := false, waiting := false, wd := 0, hold := none }

/-- The nominal map of a core (R35, R188, R315): log entry 6, DESIGN CHOICE. -/
def CoreMap.nominal : CoreMap :=
  { lat := [3, 1, 3, 1, 3, 1, 3, 1, 3, 1, 3, 1, 6, 6], ii := List.replicate 14 1, dead := [], weak := [],
    hop := List.replicate 15 1, delta := 0, xbar := [], badj := [0, 0, 0, 0], prom := 600, cls := 0, xmax := 4,
    working := true }

/-- A core that holds no task. Trap vectors hold the runtime's entry (R288). -/
def Core.idle (die cluster core : Nat) : Core :=
  { die := die, cluster := cluster, core := core, status := .free, task := none, ct := Seq.initial, ld := Seq.initial,
    mx := Seq.initial, st := Seq.initial, tl := 0, ecause1 := 0, ecause2 := 0, epc1 := 0, epc2 := 0, eaddr1 := 0,
    eaddr2 := 0, eseq1 := 0, eseq2 := 0, tvec1 := 0x80000000, tvec2 := 0x80000000, ret1 := 0, ret2 := 0, ctWd := none, chkcfg := 0,
    cycle := 0, mapver := 0, coreClass := 0, rbase := 0, bvalid := false, suspended := none, tkwdog := 0x1000000,
    fstat := 0, replays := 0, bf := [], hnd := [], tok := [], ord := [], bx := [], errrec := 0, mrf := [], acc := [], spad := [],
    spadUe := [], veil := [], drives := [], slotRes := [], slotLast := [], lateReads := [], lateForms := [], mwr := [], ports := [],
    accWr := [],
    arr := [], arrBusy := 0, heldB := none, topkUntil := 0, topk := [], sideFree := 0, sideNow := none, sideWr := [], mxCount := 0, mxReads := 0, mxWrites := 0,
    leaveAt := 0,
    done := [], posts := [], flight := [], cmds := [], lastCopy := none, staged := none, stagedDue := [], sae := [], pend := [],
    consumed := [], regions := [], abort := false, tlb := [], pulse := 0, nextId := 0, trapped := false,
    preTrap := none, mxOver := none, pOld := [], reads := [], resuming := false, mxWait := false, ilk := 0, replayLeft := 0,
    drainForms := false, ended := false, restored := false, preempt := false, rtWait := .idle, lost := false, map := CoreMap.nominal }

/-- A function at reset (R367, R393, R394, R441). -/
def Func.reset : Func :=
  { hpdrv := 0, agree := 0, s1root := 0, s1req := 0, s1done := 0, frbase := 0, frctl := 0, frtail := 0, frhead := 0,
    pool := [], s2root := 0, s2req := 0, s2done := 0, tenant := 0, migen := false, migthr := 16, dirbase := 0,
    dircnt := 0, nonce := List.replicate 32 0, qstat := 0, msix := [] }

/-- A queue at reset: disabled (log entry 7, DESIGN CHOICE). -/
def Queue.reset : Queue :=
  { cbase := 0, cplbase := 0, log2sz := 4, loc := 0, func := 0, prio := 0, weight := 1, tenant := 0, vec := 0, state := 0,
    tail := 0, head := 0, seen := 0, flush := 0, cur := none, op := none, brk := [] }

def Link.reset : Link := ⟨0, 0, 0, 0, 0, 0⟩

def ChainHeader.reset : ChainHeader := ⟨0xFFFF, 0xFFFF, 0, 0, 0, 0, 0, 0, 0, 0, 0, 0, 0, 0, 0⟩

def ChainCtx.none : ChainCtx := ⟨Option.none, Option.none, Option.none, Option.none, Option.none, Option.none⟩

/-- The chain engine at reset (R353, R354). -/
def Chain.reset : Chain :=
  { owner := none, held := false, func := 0, tenant := 0, header := ChainHeader.reset, entries := [], head := 0,
    running := none, entry := 0, ctx := ChainCtx.none, sentDown := false, sentUp := false, freedAct := false,
    freedGrad := false, sync := none, acq := false, started := false, done := false, stopped := false, helloSent := false, stash := [],
    act := [], grad := [], dview := [], uview := [], bubUp := 0, bubDown := 0, bubStash := 0, bubSlot := 0, wait := 0,
    hellos := [], upHello := none, downHello := none, status := 0, last := 0, graphEnd := 0 }

/-- A map in which every core is nominal (log entry 6, DESIGN CHOICE). -/
def DieMap.nominal : DieMap := ⟨1, 0, [], []⟩

/-- The default damper table (R427), as the fields of R439: CAP, BEINJ, CPBW and the clocks of priorities 3 to 0. -/
def damperTable : List (List Nat) :=
  [[140, 8, 8, 8, 8, 8, 8], [133, 4, 8, 8, 8, 8, 8], [126, 0, 8, 8, 8, 8, 8], [119, 0, 6, 8, 8, 8, 8],
   [112, 0, 4, 8, 8, 8, 8], [105, 0, 4, 4, 8, 8, 8], [98, 0, 4, 1, 8, 8, 8], [91, 0, 4, 1, 4, 8, 8],
   [84, 0, 4, 1, 1, 8, 8], [77, 0, 4, 1, 1, 4, 8], [70, 0, 4, 1, 1, 1, 8], [63, 0, 4, 1, 1, 1, 6],
   [56, 0, 4, 1, 1, 1, 4], [49, 0, 4, 1, 1, 1, 3], [42, 0, 2, 1, 1, 1, 2], [35, 0, 1, 1, 1, 1, 1]]

/-- The power controller at reset: the kindling order is about to run, 48 ns, 60 ticks, between steps (R425). -/
def Power.reset : Power :=
  { level := 0, pinRead := 0, pins := 0, inforce := 0, table := damperTable, unitLevel := List.replicate 56 none,
    next := some (0, 0), pfail := false, ember := false, inw := 0 }

def Sounding.reset : Sounding :=
  { mask := 0, start := 0, armed := false, opened := false, todo := [], cur := none, soundings := 0, idle := 168,
    last := [], freeAt := [] }

def Ckpt.reset : Ckpt :=
  { ctl := 0, dst := 0, all := [], dirty := [], markNo := 0, pages := [], place := 0, ue := false, staged := [],
    asked := none, marks := [] }

/-- The wellhead at reset (log entry 8, DESIGN CHOICE). -/
def Wellhead.reset : Wellhead := ⟨[0, 0, 0, 0, 0], 0, 0, false, 0, false⟩

/-- The package outside its cores at reset. -/
def Hub.reset : Hub :=
  { pkg := 0, hbm := [], hbmUe := [], host := [], hostUe := [], kills := [], funcs := [], kicks := [], queues := [],
    graphs := [], nextGraph := 0, nextGang := 0, round := [0, 0, 0, 0], errsel := 0, events := [], kept := [], journal := [],
    active := 0, takeover := none, saved := [], specimen := 0, firmware := 0, map0 := DieMap.nominal,
    map1 := DieMap.nominal, oldMaps := [], newMap := [], cache := [], translations := [], fetches := [], mapDone := 0,
    dieTlb0 := [], dieTlb1 := [], ingress := [], invals := [], faults := [], nextToken := 0, migCount := [], migrations := [], incoming := [],
    bound := [], boundAway := [], syncWait := [], arrivals := [], requests := [], nextTag := 0, spent := [], out := [],
    wire := [], combos := [],
    links := List.replicate 24 Link.reset, paths := [], ptsel := 0, groups := [], mcsel := 0, slotNow := none,
    slotNext := none, ststat := 0, hubMap := ⟨0, 0, []⟩, oldHubs := [], fto := 100, brksel := 0, chain := Chain.reset,
    power := Power.reset,
    image := none, embstat := false, emberEnd := none, sounding := Sounding.reset, ckpt := Ckpt.reset, heldWrites := [],
    well := Wellhead.reset, nextId := 0 }

/-- The cores of the package but the first: 2 dies of 21 clusters of 8 (R1). -/
def otherCores : List Core :=
  ((List.range 336).drop 1).map fun n => Core.idle (n / 168) (n % 168 / 8) (n % 8)

/-- The machine right after reset: no task on any core, nothing in memory. The fields that are the
model's own start empty or at 0 (log entry 1, DESIGN CHOICE). -/
def State.reset : State :=
  { core := Core.idle 0 0 0, who := .ct, phase := .hub, parked := otherCores, turns := 0, agenda := [], inputs := [], pokes := [],
    free := 0, tick := 0, hub := Hub.reset }

end Sys2Proof.Machine
end

