-- ==== Sys2Proof/Machine/Lanes.lean ====
section
/-!
DEFINITION. What the flow-row operations compute, lane by lane (R189 to R208), as functions of their input vectors. The
slot forms and the portable forms share them (R209, R214).
-/

namespace Sys2Proof.Machine

open Sys2Proof

/-- A vector whose cells are all zero and unpoisoned. -/
def Vec.zero : Vec := ⟨List.replicate 32 0, 0⟩

/-- What an EMPTY position or a collision yields: zeros with every poison bit set (R36, R37). -/
def Vec.poisoned : Vec := ⟨List.replicate 32 0, BitVec.allOnes 32⟩

def Vec.cell (v : Vec) (e : Nat) : BitVec 32 := v.cells.getD e 0

def Vec.pois (v : Vec) (e : Nat) : Bool := v.poison.getLsbD e

/-- A poison word from one bit per element. -/
def poisonOf (f : Nat → Bool) : BitVec 32 :=
  BitVec.ofNat 32 ((List.range 32).foldl (fun acc e => if f e then acc + 2 ^ e else acc) 0)

/-- A vector from one cell and one poison bit per element. -/
def Vec.ofFn (c : Nat → BitVec 32) (p : Nat → Bool) : Vec := ⟨(List.range 32).map c, poisonOf p⟩

/-- Lane `k` of a cell, for lanes of `w` bits (R28). -/
def laneOf (w : Nat) (c : BitVec 32) (k : Nat) : Nat := c.toNat / 2 ^ (w * k) % 2 ^ w

/-- A cell from its lanes, lane 0 first. -/
def cellOf (w : Nat) : List Nat → BitVec 32
  | [] => 0
  | l :: ls => BitVec.ofNat 32 (l % 2 ^ w + 2 ^ w * (cellOf w ls).toNat)

/-- Lane ℓ of a vector (R189). -/
def Vec.lane (v : Vec) (w l : Nat) : Nat := laneOf w (v.cell (l / (32 / w))) (l % (32 / w))

/-- The lane format of a lane-type field with bit U (R140); none where U = 1 goes with a float type. -/
def laneFmt (lt : BitVec 3) (u : Bool) : Option Fmt :=
  match lt.toNat, u with
  | 0, false => some .i8 | 1, false => some .i16 | 2, false => some .i32
  | 0, true => some .u8 | 1, true => some .u16 | 2, true => some .u32
  | 3, false => some .f32 | 4, false => some .bf16 | 5, false => some .f16
  | 6, false => some .e4m3 | 7, false => some .e5m2
  | _, _ => none

/-- The target format of VCVT and VQNT (R189); bpi, code 12, quantises as i8 (R204). -/
def targetFmt : Nat → Option Fmt
  | 0 => some .i8 | 1 => some .i16 | 2 => some .i32 | 3 => some .f32 | 4 => some .bf16 | 5 => some .f16
  | 6 => some .e4m3 | 7 => some .e5m2 | 8 => some .u8 | 9 => some .u16 | 10 => some .u32 | 12 => some .i8
  | _ => none

/-- The slot operations (R188). -/
inductive SlotKind where
  | vadd | vsub | vmul | vfma | vmin | vmax | vabs | vneg | vand | vor | vxor | vnot | vshl | vshr | vsha | vcmp
  | vsel | vcvt | vclmp | vscale | vqnt | vexp2 | vlog2 | vrcp | vrsq | vtanh | vsumr | vperm
  deriving DecidableEq, Repr

/-- Imm(IMM9) as an exact value (R190). -/
def immInt (i : BitVec 9) : Int := i.toInt

/-- Imm(IMM9) as a lane pattern (R190, R195). In e4m3 and e5m2 lanes, which R190 does not speak of, a value that is not exact
rounds to nearest without SAT, whatever the prefix says.
Log entry 60 (DESIGN CHOICE). -/
def immLane (f : Fmt) (i : BitVec 9) : Nat :=
  if f.isFloat then roundFloat f (.ofInt (immInt i)) Arith.default 0 else patternOf f.width (immInt i)

/-- One lane pattern in every lane. -/
def Vec.splat (f : Fmt) (l : Nat) : Vec :=
  let c := cellOf f.width (List.replicate (32 / f.width) l)
  ⟨List.replicate 32 c, 0⟩

/-- What one lane gives: the pattern, and whether the operation was invalid (R84). -/
structure Lane where
  v : Nat
  inv : Bool
  deriving DecidableEq, Repr

/-- The fold of one instruction over its lanes: the LFSR, and whether an unpoisoned lane was invalid. -/
structure Run where
  r : BitVec 32
  inv : Bool
  deriving DecidableEq, Repr

/-- The lanes of one cell, lane 0 first. Under SR a lane that passes through RoundTo advances the LFSR (R76). -/
def cellLanes (w : Nat) (sr : Bool) (f : Nat → Nat → Nat → BitVec 32 → Lane) (a b c : BitVec 32) (clean : Bool) :
    List Nat → Run → List Nat × Run
  | [], st => ([], st)
  | k :: ks, st =>
    let r := if sr then lfsrStep st.r else st.r
    let o := f (laneOf w a k) (laneOf w b k) (laneOf w c k) r
    let rest := cellLanes w sr f a b c clean ks ⟨r, st.inv || (o.inv && clean)⟩
    (o.v :: rest.1, rest.2)

/-- SlotOp of R190 for operations that work lane by lane: masked cells pass a. -/
def eachCell (w : Nat) (sr : Bool) (f : Nat → Nat → Nat → BitVec 32 → Lane) (mask : BitVec 32) (a b c : Vec) :
    List Nat → Run → List (BitVec 32) × Run
  | [], st => ([], st)
  | e :: es, st =>
    if mask.getLsbD e then
      let clean := !(a.pois e || b.pois e || c.pois e)
      let o := cellLanes w sr f (a.cell e) (b.cell e) (c.cell e) clean (List.range (32 / w)) st
      let rest := eachCell w sr f mask a b c es o.2
      (cellOf w o.1 :: rest.1, rest.2)
    else
      let rest := eachCell w sr f mask a b c es st
      (a.cell e :: rest.1, rest.2)

/-- The vector of a lane-by-lane operation, with its poison (R190), and the LFSR and FP_INVALID after it. -/
def lanewise (w : Nat) (sr : Bool) (f : Nat → Nat → Nat → BitVec 32 → Lane) (mask : BitVec 32) (a b c : Vec)
    (r : BitVec 32) : Vec × Run :=
  let o := eachCell w sr f mask a b c (List.range 32) ⟨r, false⟩
  (⟨o.1, poisonOf fun e => a.pois e || (mask.getLsbD e && (b.pois e || c.pois e))⟩, o.2)

/-! Special functions (R205, R206): the exact value rounded once by RNE. An irrational value is computed to far more bits
than a tie can need, with a last bit that says it lies above them (log entry 9, DEDUCED). -/

/-- The integer square root of `n`, bit by bit from 2^k down. -/
def isqrtAux (n : Nat) : Nat → Nat → Nat
  | 0, acc => acc
  | k + 1, acc =>
    let t := acc + 2 ^ k
    isqrtAux n k (if t * t ≤ n then t else acc)

/-- The integer square root. -/
def isqrt (n : Nat) : Nat := isqrtAux n (Nat.log2 n / 2 + 1) 0

/-- 2^f for the fraction f = n / 2^k in [0, 1), with 160 fraction bits: the product of the roots 2^(2^-i) over the bits of
f; `root` is the root of the level before. -/
def exp2Frac (n : Nat) : Nat → Nat → Nat → Nat
  | 0, _, acc => acc
  | k + 1, root, acc =>
    let root' := isqrt (root * 2 ^ 160)
    exp2Frac n k root' (if n / 2 ^ k % 2 = 1 then acc * root' / 2 ^ 160 else acc)

/-- 2^x for x = m × 2^e. -/
def exp2Num (m e : Int) : Num :=
  if e ≥ 0 then
    let n := m * (2 ^ e.toNat : Nat)
    if n > 1000 then .fin 1 1000 false else if n < -1000 then .fin 1 (-1000) false else .fin 1 n false
  else
    let k := (-e).toNat
    let i := Int.fdiv m (2 ^ k : Nat)
    let f := Int.fmod m (2 ^ k : Nat)
    if i > 1000 then .fin 1 1000 false else if i < -1000 then .fin 1 (-1000) false
    else if f = 0 then .fin 1 i false
    else if k > 60 then
      -- |x| is below 2^-30 or its value lies within 2^-30 of an integer: one part in 2^30 above 2^i, or below 2^(i+1)
      let up := f.toNat / 2 ^ (k - 1) = 1
      if up then .fin (2 ^ 40 - 1) (i + 1 - 40) false else .fin (2 ^ 40 + 1) (i - 40) false
    else
      let v := exp2Frac f.toNat k (2 * 2 ^ 160) (2 ^ 160)
      .fin (2 * v + 1) (i - 161) false

/-- The first `n` fraction bits of log2 of x / 2^300 in [1, 2), by repeated squaring. -/
def log2Bits : Nat → Nat → Nat → Nat
  | 0, _, acc => acc
  | n + 1, x, acc =>
    let y := x * x / 2 ^ 300
    if y ≥ 2 ^ 301 then log2Bits n (y / 2) (2 * acc + 1) else log2Bits n y (2 * acc)

/-- log2 of m × 2^e, m positive. -/
def log2Num (m : Nat) (e : Int) : Num :=
  let l := Nat.log2 m
  let i : Int := l + e
  if m = 2 ^ l then .ofInt i
  else
    let b := log2Bits 120 (m * 2 ^ (300 - l)) 0
    .fin (i * (2 ^ 121 : Nat) + Int.ofNat (2 * b + 1)) (-121) false

/-- 1 / (m × 2^e), m not zero. -/
def rcpNum (m e : Int) : Num :=
  let d := m.natAbs
  let k := Nat.log2 d + 64
  let q := 2 ^ k / d
  let v : Int := 2 * q + (if 2 ^ k % d = 0 then 0 else 1)
  .fin (if m < 0 then -v else v) (-e - k - 1) false

/-- 1 / √(m × 2^e), m positive. -/
def rsqNum (m : Nat) (e : Int) : Num :=
  let odd := Int.emod e 2 = 1
  let d := if odd then m * 2 else m
  let h := if odd then (e - 1) / 2 else e / 2
  let k := Nat.log2 d + 64
  let q := isqrt (2 ^ (2 * k) / d)
  .fin (Int.ofNat (2 * q + (if q * q * d = 2 ^ (2 * k) then 0 else 1))) (-h - k - 1) false

/-- The Taylor sum of e^y with y = n / 2^256, from term `i` on. -/
def expTaylor (y : Nat) : Nat → Nat → Nat → Nat
  | 0, _, _ => 0
  | k + 1, i, term => term + expTaylor y k (i + 1) (term * y / 2 ^ 256 / (i + 1))

/-- `k` squarings of a value with 256 fraction bits. -/
def squarings : Nat → Nat → Nat
  | 0, x => x
  | k + 1, x => squarings k (x * x / 2 ^ 256)

/-- tanh of m × 2^e, m not zero. -/
def tanhNum (m e : Int) : Num :=
  let top : Int := (Nat.log2 m.natAbs : Int) + e
  let neg := m < 0
  if top < -12 then .fin m e false
  else if top ≥ 4 then .fin (if neg then -(2 ^ 40 - 1) else 2 ^ 40 - 1) (-40) false
  else
    -- y = 2 |x| / 2^8 with 256 fraction bits
    let y := if e + 249 ≥ 0 then m.natAbs * 2 ^ (e + 249).toNat else m.natAbs / 2 ^ (-(e + 249)).toNat
    let E := squarings 8 (expTaylor y 60 0 (2 ^ 256))
    let t : Nat := (E - 2 ^ 256) * 2 ^ 200 / (E + 2 ^ 256)
    let v := Int.ofNat (2 * t + 1)
    .fin (if neg then -v else v) (-201) false

/-- A special function at an exact input: its exact value, and whether the operation is invalid (R205). -/
def specialFn (k : SlotKind) (x : Num) : Num × Bool :=
  match x with
  | .nan => (.nan, true)
  | .inf neg =>
    match k with
    | .vexp2 => (if neg then .zero else .inf false, false)
    | .vlog2 => if neg then (.nan, true) else (.inf false, false)
    | .vrcp => (.fin 0 0 neg, false)
    | .vrsq => if neg then (.nan, true) else (.zero, false)
    | _ => (.fin (if neg then -1 else 1) 0 false, false)
  | .fin m e nz =>
    if m = 0 then
      match k with
      | .vexp2 => (.fin 1 0 false, false)
      | .vlog2 => (.inf true, false)
      | .vrcp => (.inf nz, false)
      | .vrsq => (.inf nz, false)
      | _ => (.fin 0 0 nz, false)
    else
      match k with
      | .vexp2 => (exp2Num m e, false)
      | .vlog2 => if m < 0 then (.nan, true) else (log2Num m.toNat e, false)
      | .vrcp => (rcpNum m e, false)
      | .vrsq => if m < 0 then (.nan, true) else (rsqNum m.toNat e, false)
      | _ => (tanhNum m e, false)

/-- A special function on one lane (R205): f32 rounds by RNE; bf16 and f16 round the f32 result by the whole prefix. -/
def specialLane (k : SlotKind) (f : Fmt) (a : Arith) (w : Nat) (r : BitVec 32) : Lane :=
  let o := specialFn k (inputOf a f w)
  if f = .f32 then ⟨roundFloat .f32 o.1 { a with rm := 0 } r, o.2⟩
  else ⟨roundFloat f (numOf .f32 (roundFloat .f32 o.1 Arith.default r)) a r, o.2⟩

/-! Lane operations. -/

/-- The smaller (`mx` false) or larger of two floats, −0 below +0, NaN if either is NaN; not rounded (R197). -/
def pickFloat (mx : Bool) (f : Fmt) (a : Arith) (x y : Nat) : Lane :=
  let flush w := if a.ftz && isSubnormal f w then w / 2 ^ (f.width - 1) * 2 ^ (f.width - 1) else w
  let x := flush x
  let y := flush y
  match cmpNum (numOf f x) (numOf f y) with
  | none => ⟨if a.nanz then 0 else f.nan, true⟩
  | some o =>
    let xLess := match o with
      | .lt => true
      | .gt => false
      | .eq => (numOf f x).isNeg
    ⟨if xLess != mx then x else y, false⟩

/-- VMIN and VMAX on one lane (R197). -/
def pickLane (mx : Bool) (f : Fmt) (a : Arith) (x y : Nat) : Lane :=
  if f.isFloat then pickFloat mx f a x y
  else ⟨if (intOf f x < intOf f y) != mx then x else y, false⟩

/-- Whether a product of exact values is invalid (R84). -/
def mulInvalid (x y : Num) : Bool := (mulNum x y).isNan

/-- An addition, subtraction, multiplication or fused multiply-add on one lane (R197). -/
def arithLane (k : SlotKind) (hi : Bool) (f : Fmt) (a : Arith) (x y z : Nat) (r : BitVec 32) : Lane :=
  if f.isFloat then
    let p := inputOf a f x
    let q := inputOf a f y
    let s := inputOf a f z
    let v := match k with
      | .vadd => addNum a.rm p q
      | .vsub => subNum a.rm p q
      | .vmul => mulNum p q
      | _ => addNum a.rm (mulNum p q) s
    ⟨roundFloat f v a r, v.isNan⟩
  else
    let p := intOf f x
    let q := intOf f y
    let s := intOf f z
    match k with
    | .vadd => ⟨settleInt f (p + q) a, false⟩
    | .vsub => ⟨settleInt f (p - q) a, false⟩
    | .vmul =>
      if hi then ⟨patternOf f.width (Int.fdiv (p * q) (2 ^ f.width : Nat)), false⟩ else ⟨settleInt f (p * q) a, false⟩
    | _ => ⟨settleInt f (p * q + s) a, false⟩

/-- VABS and VNEG on one lane (R197). -/
def signLane (ng : Bool) (f : Fmt) (a : Arith) (x : Nat) : Lane :=
  if f.isFloat then
    let x := if a.ftz && isSubnormal f x then x / 2 ^ (f.width - 1) * 2 ^ (f.width - 1) else x
    if (numOf f x).isNan then ⟨if a.nanz then 0 else f.nan, true⟩
    else
      let mag := x % 2 ^ (f.width - 1)
      let neg := x / 2 ^ (f.width - 1) % 2 = 1
      ⟨mag + (if ng && !neg then 2 ^ (f.width - 1) else 0), false⟩
  else
    let v := intOf f x
    ⟨settleInt f (if ng then -v else v.natAbs) a, false⟩

/-- The bitwise operations and shifts on one lane (R199). -/
def bitLane (k : SlotKind) (w x y : Nat) : Lane :=
  let s := y % w
  match k with
  | .vand => ⟨x &&& y, false⟩
  | .vor => ⟨x ||| y, false⟩
  | .vxor => ⟨x ^^^ y, false⟩
  | .vnot => ⟨2 ^ w - 1 - x % 2 ^ w, false⟩
  | .vshl => ⟨x * 2 ^ s % 2 ^ w, false⟩
  | .vshr => ⟨x % 2 ^ w / 2 ^ s, false⟩
  | _ => ⟨patternOf w (Int.fdiv (sInt w x) (2 ^ s : Nat)), false⟩

/-- Whether a VCMP condition holds of an ordering (R200). -/
def condHolds (c : Nat) (o : Ordering) : Bool :=
  match c with
  | 0 => o == .eq
  | 1 => o != .eq
  | 2 => o == .lt
  | 3 => o != .gt
  | 4 => o == .gt
  | _ => o != .lt

/-- VCMP on one lane (R200). -/
def cmpLane (c : Nat) (f : Fmt) (a : Arith) (x y : Nat) : Lane :=
  let all := 2 ^ f.width - 1
  if f.isFloat then
    match cmpNum (inputOf a f x) (inputOf a f y) with
    | none => ⟨if c = 1 then all else 0, true⟩
    | some o => ⟨if condHolds c o then all else 0, false⟩
  else ⟨if condHolds c (compare (intOf f x) (intOf f y)) then all else 0, false⟩

/-- Conv of R202 on one lane; a conversion under SAT is never invalid (R84). -/
def convLane (src dst : Fmt) (a : Arith) (x : Nat) (r : BitVec 32) : Lane :=
  if src.isFloat then
    if dst.isFloat then
      let v := inputOf a src x
      ⟨roundFloat dst v a r, v.isNan && !a.sat⟩
    else
      let v := inputOf a src x
      let o := roundToInt dst v a r
      ⟨o.1, (o.2 || v.isNan) && !a.sat⟩
  else if dst.isFloat then ⟨roundFloat dst (.ofInt (intOf src x)) a r, false⟩
  else ⟨settleInt dst (intOf src x) a, false⟩

/-- VSCALE on one lane (R203): the NaN of s = 255 is not invalid. -/
def scaleLane (f : Fmt) (a : Arith) (x s : Nat) (r : BitVec 32) : Lane :=
  let v := if f.isFloat then inputOf a f x else .ofInt (intOf f x)
  ⟨roundFloat .f32 (scaled v s) a r, v.isNan⟩

/-- Whether a conversion passes its lanes through RoundTo (R76, R81, R202). -/
def convRounds (src dst : Fmt) : Bool := src.isFloat || dst.isFloat

/-! Cross-cell operations. -/

/-- VCVT (R202): conversions in the order of i, then the lanes that pass from b. -/
def vcvt (src dst : Fmt) (part : Nat) (a : Arith) (mask : BitVec 32) (va vb : Vec) (r : BitVec 32) : Vec × Run :=
  let ws := src.width
  let wd := dst.width
  let n := 1024 / max ws wd
  let sr := a.rm = 5 && convRounds src dst
  let go := (List.range n).foldl (fun (acc : AMap Nat × Run) i =>
    let sl := if wd ≥ ws then part * n + i else i
    let dl := if wd ≥ ws then i else part * n + i
    let e := dl / (32 / wd)
    if mask.getLsbD e then
      let se := sl / (32 / ws)
      let r := if sr then lfsrStep acc.2.r else acc.2.r
      let o := convLane src dst a (va.lane ws sl) r
      let clean := !(va.pois se)
      (acc.1 ++ [(dl, o.v)], ⟨r, acc.2.inv || (o.inv && clean)⟩)
    else acc) ([], ⟨r, false⟩)
  let perCell := 32 / wd
  let lane (dl : Nat) : Nat :=
    match go.1.find? (fun q => q.1 = dl) with
    | some q => q.2
    | none => if wd < ws then vb.lane wd dl else 0
  let cell (e : Nat) : BitVec 32 :=
    if mask.getLsbD e then cellOf wd ((List.range perCell).map fun k => lane (e * perCell + k)) else va.cell e
  -- the source cell that feeds lane dl, where one does
  let feeds (dl : Nat) : Option Nat :=
    if wd ≥ ws then some ((part * n + dl) / (32 / ws))
    else if part * n ≤ dl ∧ dl < part * n + n then some ((dl - part * n) / (32 / ws)) else none
  let pois (e : Nat) : Bool :=
    if mask.getLsbD e then
      (List.range perCell).any fun k =>
        match feeds (e * perCell + k) with
        | some se => va.pois se
        | none => vb.pois e
    else va.pois e
  (Vec.ofFn cell pois, go.2)

/-- The smallest s in 0 to 254 with m × 2^(127 − s) ≤ T, else 254 (R204). -/
def quantScale (m : Num) (t : Int) : Nat → Nat → Nat
  | 0, s => s
  | k + 1, s => if cmpNum (scaleNum m (127 - (s : Int))) (.ofInt t) = some .gt then quantScale m t k (s + 1) else s

/-- VQNT (R204). Masked cells count as +0 and are not read for poison. A NaN lane makes it invalid (R84).
Log entry 61 (DEDUCED). -/
def vqnt (code : Nat) (a : Arith) (mask : BitVec 32) (va : Vec) (r : BitVec 32) : Vec × Run :=
  let tgt := (targetFmt code).getD .i8
  let x (e : Nat) : Num := if mask.getLsbD e then inputOf a .f32 (va.cell e).toNat else .zero
  let absN (n : Num) : Num := if n.isNeg then n.neg else n
  let bad := (List.range 32).any fun e => (x e).isNan || (x e).isInf
  let m := (List.range 32).foldl (fun (acc : Num) e =>
    if cmpNum acc (absN (x e)) = some .lt then absN (x e) else acc) Num.zero
  let t : Int := if code = 6 then 448 else if code = 7 then 57344 else 127
  let s : Nat := if bad then 255 else if m.isZero then 127 else quantScale m t 254 0
  let idle := bad || m.isZero
  let sr := a.rm = 5 && !idle
  let q := (List.range 32).foldl (fun (acc : List Nat × BitVec 32) e =>
    if idle then (acc.1 ++ [0], acc.2)
    else
      -- the lanes of masked cells are not computed and advance no LFSR (R192)
      let live := mask.getLsbD e
      let r := if sr && live then lfsrStep acc.2 else acc.2
      (acc.1 ++ [if live then roundTo tgt (scaleNum (x e) (127 - (s : Int))) { a with sat := true } r else 0], r)) ([], r)
  let cells : Nat → BitVec 32 := fun c =>
    if c < 8 then
      if code = 12 then
        BitVec.ofNat 32 ((List.range 32).foldl (fun acc e =>
          if (q.1.getD e 0) / 2 ^ (7 - c) % 2 = 1 then acc + 2 ^ e else acc) 0)
      else cellOf 8 ((List.range 4).map fun k => q.1.getD (4 * c + k) 0)
    else if c = 8 then BitVec.ofNat 32 s else 0
  let poi := (List.range 32).any fun e => mask.getLsbD e && va.pois e
  let nanIn := (List.range 32).any fun e => (x e).isNan
  (Vec.ofFn cells (fun _ => poi), ⟨q.2, nanIn && !poi⟩)

/-- The result of VSUMR over the participating cells of one group, in ascending order (R207): the pattern, the LFSR and
whether it was invalid. One NaN decides a float group's largest value. A group without cells passes nothing through RoundTo, and
so does not advance the LFSR under SR.
Log entry 59 (DEDUCED). -/
def sumGroup (mx : Bool) (f : Fmt) (a : Arith) (xs : List Nat) (r : BitVec 32) : Nat × BitVec 32 × Bool :=
  if mx then
    match xs with
    | [] => (if f.isFloat then withSign .f32 true Fmt.f32.inf else patternOf f.width f.lowest, r, false)
    | x :: rest =>
      let o := match if f.isFloat then xs.find? fun y => (inputOf a f y).isNan else none with
        | some y => pickLane true f a y y
        | none => ⟨rest.foldl (fun acc y => (pickLane true f a acc y).v) (pickLane true f a x x).v, false⟩
      (o.v, r, o.inv)
  else if f.isFloat then
    match xs with
    | [] => (0, r, false)
    | x :: rest =>
      let v := rest.foldl (fun acc y => addNum a.rm acc (inputOf a f y)) (inputOf a f x)
      let r := if a.rm = 5 then lfsrStep r else r
      (roundFloat f v a r, r, v.isNan)
  else (settleInt f (xs.foldl (fun acc y => acc + intOf f y) 0) a, r, false)

/-- VSUMR (R207). -/
def vsumr (mx : Bool) (g : Nat) (f : Fmt) (a : Arith) (mask : BitVec 32) (va : Vec) (r : BitVec 32) : Vec × Run :=
  let size := 2 ^ g
  let groups := 32 / size
  let go := (List.range groups).foldl (fun (acc : List (Nat × Bool) × Run) i =>
    let es := ((List.range size).map (i * size + ·)).filter (mask.getLsbD ·)
    let o := sumGroup mx f a (es.map fun e => (va.cell e).toNat) acc.2.r
    let poi := es.any va.pois
    (acc.1 ++ [(o.1, poi)], ⟨o.2.1, acc.2.inv || (o.2.2 && !poi)⟩)) ([], ⟨r, false⟩)
  let at_ (e : Nat) := go.1.getD (e / size) (0, false)
  (Vec.ofFn (fun e => if mask.getLsbD e then BitVec.ofNat 32 (at_ e).1 else va.cell e)
    (fun e => if mask.getLsbD e then (at_ e).2 else va.pois e), go.2)

/-- VPERM (R208): mode 0 index from b, 1 rotate, 2 reverse, 3 exclusive-or. Masked cells pass a (R190). -/
def vperm (mode k : Nat) (mask : BitVec 32) (va vb : Vec) (r : BitVec 32) : Vec × Run :=
  let src (e : Nat) : Nat :=
    match mode with
    | 0 => (vb.cell e).toNat % 32
    | 1 => (e + k) % 32
    | 2 => 31 - e
    | _ => (e ^^^ k) % 32
  (Vec.ofFn (fun e => if mask.getLsbD e then va.cell (src e) else va.cell e)
    (fun e => if mask.getLsbD e then va.pois (src e) || (mode = 0 && vb.pois e) else va.pois e), ⟨r, false⟩)

/-- The minor field of a slot form (R141): U, BI, HI or MAX, the condition, the target code and VPERM's mode. -/
def minorU (m : BitVec 5) : Bool := m.getLsbD 4
def minorBi (m : BitVec 5) : Bool := m.getLsbD 3
def minorLow (m : BitVec 5) : Bool := m.getLsbD 0
def minorCond (m : BitVec 5) : Nat := m.toNat % 8
def minorCode (m : BitVec 5) : Nat := m.toNat % 16
def minorMode (m : BitVec 5) : Nat := m.toNat % 4

/-- Whether the lanes of an operation pass through RoundTo, and so advance the LFSR under SR (R76, R192, R205). -/
def rounds (k : SlotKind) (f : Fmt) : Bool :=
  match k with
  | .vadd | .vsub | .vmul | .vfma => f.isFloat
  | .vscale => true
  | .vexp2 | .vlog2 | .vrcp | .vrsq | .vtanh => f != .f32
  | _ => false

/-- One lane of a lane-by-lane operation.
Log entry 18 (DEDUCED). -/
def laneFn (k : SlotKind) (f : Fmt) (minor : BitVec 5) (a : Arith) (x y z : Nat) (r : BitVec 32) : Lane :=
  match k with
  | .vadd | .vsub | .vmul | .vfma => arithLane k (minorLow minor) f a x y z r
  | .vmin => pickLane false f a x y
  | .vmax => pickLane true f a x y
  | .vabs => signLane false f a x
  | .vneg => signLane true f a x
  | .vand | .vor | .vxor | .vnot | .vshl | .vshr | .vsha => bitLane k f.width x y
  | .vcmp => cmpLane (minorCond minor) f a x y
  | .vsel => ⟨if z = 0 then y else x, false⟩
  | .vclmp =>
    let m := pickLane true f { a with nanz := false } x y
    let o := pickLane false f a m.v z
    ⟨o.v, m.inv || o.inv⟩
  | .vscale => scaleLane f a x (y % 256) r
  | .vexp2 | .vlog2 | .vrcp | .vrsq | .vtanh => specialLane k f a x r
  | .vcvt | .vqnt | .vsumr | .vperm => ⟨x, false⟩

/-- What a slot operation computes from its tapped vectors (R190 to R208): the vector driven, the LFSR after it and
whether it raises FP_INVALID. An operand b in immediate form is already a vector here. -/
def slotCompute (k : SlotKind) (f : Fmt) (minor : BitVec 5) (imm : BitVec 9) (ar : Arith) (mask : BitVec 32)
    (a b c : Vec) (r : BitVec 32) : Vec × Run :=
  match k with
  | .vcvt => vcvt f ((targetFmt (minorCode minor)).getD f) (imm.toNat % 4) ar mask a b r
  | .vqnt => vqnt (minorCode minor) ar mask a r
  | .vsumr => vsumr (minorLow minor) (imm.toNat % 8) f ar mask a r
  | .vperm => vperm (minorMode minor) (imm.toNat % 32) mask a b r
  | k => lanewise f.width (ar.rm = 5 && rounds k f) (laneFn k f minor ar) mask a b c r

/-- VIOTA (R196): lane ℓ holds (base + ℓ) mod 2^w. -/
def viota (f : Fmt) (base : Int) : Vec :=
  let per := 32 / f.width
  ⟨(List.range 32).map fun e => cellOf f.width ((List.range per).map fun k => patternOf f.width (base + (e * per + k : Nat))), 0⟩

end Sys2Proof.Machine
end

