-- ==== Sys2Proof/Machine/Fields.lean ====
section
/-!
DEFINITION. The checks of an instruction's encoding that need no state: which prefixes its group accepts (R132), and
whether every field holds a value its entry allows (check 7 of R137; R139 to R148 and the entries). Bits that must be zero
are the decoder's concern (`Decoded.unit`).
-/

namespace Sys2Proof.Machine

open Sys2Proof

/-- The prefix kinds a group of instructions accepts (R132). -/
structure Accepts where
  arith : Bool
  imm : Bool
  mem : Bool
  pred : Bool
  deriving DecidableEq, Repr

/-- The rows of R132, by short or long form and major opcode. -/
def acceptsOf (long : Bool) (m : Nat) : Accepts :=
  if !long then
    if m ≤ 0x17 || m = 0x20 then ⟨false, false, false, true⟩
    else if m ≤ 0x1F || m = 0x21 then ⟨false, true, false, true⟩
    else if m = 0x38 || m = 0x39 then ⟨false, false, true, true⟩
    else ⟨false, false, false, false⟩
  else if m = 0x00 || m = 0x02 || m = 0x03 then ⟨false, false, false, true⟩
  else if m ≤ 0x1F then ⟨false, false, false, false⟩
  else if m ≤ 0x2A then ⟨false, false, true, true⟩
  else if m = 0x41 || m = 0x42 || m = 0x46 then ⟨true, false, true, false⟩
  else if m = 0x62 then ⟨false, false, true, false⟩
  else if m < 0x84 then ⟨false, false, false, false⟩
  else if m ≤ 0x9F then ⟨true, false, false, true⟩
  else if m = 0xA0 then ⟨false, false, false, true⟩
  else if m ≤ 0xBF then ⟨true, false, false, true⟩
  else if m ≤ 0xC2 then ⟨false, false, true, false⟩
  else ⟨false, false, false, false⟩

/-- Check 5 of R137: the unit has no prefix of a kind its instruction does not accept. -/
def pfxAccepted (f : Info) : Bool :=
  let a := acceptsOf f.long f.major
  (f.pfx.arith.isNone || a.arith) && (f.pfx.imm.isNone || a.imm) && (f.pfx.mem.isNone || a.mem) &&
    (f.pfx.pred.isNone || a.pred)

/-- The fields of the prefixes and the SIGNAL byte (R73, R106, R136). -/
def headOk (f : Info) : Bool :=
  (f.pfx.arith.all fun a => a.rm.toNat ≤ 5) &&
  (f.pfx.mem.all fun m => m.scope.toNat ≤ 4 && m.hint != 3) &&
  (f.signal.getLsbD 7 || f.signal == 0)

/-- An immediate field of `w` bits with an optional IMM prefix, as a signed 64-bit operand (R130). -/
def immOf (p : Option (BitVec 25)) {w : Nat} (i : BitVec w) : Word :=
  match p with
  | none => i.signExtend 64
  | some q => (q ++ i).signExtend 64

/-- Whether the register number of RDSR is listed (R154). -/
def srListed (n : Nat) : Bool :=
  n ≤ 0x0B || n = 0x10 || (0x20 ≤ n && n ≤ 0x24) || (0x30 ≤ n && n ≤ 0x33) || n = 0x40 ||
    (0x50 ≤ n && n ≤ 0x54) || n = 0x60 || (0x100 ≤ n && n ≤ 0x117)

/-- Whether WRSR may write a register (R154). -/
def srWritable (n : Nat) : Bool :=
  (1 ≤ n && n ≤ 0x0B) || n = 0x10 || n = 0x32 || n = 0x33 || n = 0x40

/-- The trap registers, which only CT may write (R154). -/
def srTrap (n : Nat) : Bool := n ≤ 0x0A

/-- The classes of slots (R188). -/
inductive SlotClass where
  | ma | al | sf
  deriving DecidableEq, Repr

/-- The class of slot that performs an operation (R188). -/
def SlotKind.cls : SlotKind → SlotClass
  | .vmul | .vfma => .ma
  | .vexp2 | .vlog2 | .vrcp | .vrsq | .vtanh | .vsumr | .vperm => .sf
  | _ => .al

/-- The class of slot at a position, for positions 1 to 14 (R34). -/
def slotClassAt (pos : Nat) : SlotClass :=
  if pos ≥ 13 then .sf else if pos % 2 = 1 then .ma else .al

/-- The flows an operation taps: FB (with or without an immediate form) and FC (R189). -/
def tapsB (k : SlotKind) (minor : BitVec 5) (src dst : Fmt) : Bool :=
  match k with
  | .vabs | .vneg | .vnot | .vqnt | .vexp2 | .vlog2 | .vrcp | .vrsq | .vtanh | .vsumr => false
  | .vsel | .vclmp => true
  | .vcvt => dst.width < src.width
  | .vperm => minorMode minor = 0
  | _ => !minorBi minor

def tapsC : SlotKind → Bool
  | .vfma | .vsel | .vclmp => true
  | _ => false

/-- The lane types an operation accepts (R189). -/
def laneTypeOk (k : SlotKind) (f : Fmt) : Bool :=
  let int := !f.isFloat
  let flt := f = .f32 || f = .bf16 || f = .f16
  match k with
  | .vadd | .vsub | .vmul | .vfma | .vmin | .vmax | .vcmp | .vclmp => int || flt
  | .vabs | .vneg => (int && f.signed) || flt
  | .vand | .vor | .vxor | .vnot | .vsel | .vcvt => true
  | .vshl | .vshr | .vsha => int
  | .vscale => f = .i32 || f = .f32
  | .vqnt => f = .f32
  | .vexp2 | .vlog2 | .vrcp | .vrsq | .vtanh => flt
  | .vsumr => f = .i32 || f = .u32 || f = .f32
  | .vperm => f = .i32

/-- The minor bits [15:12] an operation allows, given its lane type (R189, R200, R202, R204, R207, R208). -/
def minorOk (k : SlotKind) (f : Fmt) (minor : BitVec 5) : Bool :=
  let m := minor.toNat % 16
  match k with
  | .vmul => m % 8 = 0 || (m % 8 = 1 && !f.isFloat)
  | .vcmp => m % 8 ≤ 5
  | .vcvt => (targetFmt m).isSome && m != 12
  | .vqnt => m = 0 || m = 6 || m = 7 || m = 12
  | .vsumr => m = 0 || m = 1
  | .vperm => m ≤ 3
  | .vabs | .vneg | .vnot | .vsel | .vclmp | .vexp2 | .vlog2 | .vrcp | .vrsq | .vtanh => m = 0
  | _ => m % 8 = 0

/-- IMM9 in a slot form: free with an immediate operand, and otherwise what the entry states (R141, R202, R203, R207, R208). -/
def immOk (k : SlotKind) (f : Fmt) (minor : BitVec 5) (imm : BitVec 9) : Bool :=
  let i := imm.toNat
  match k with
  | .vcvt =>
    let d := (targetFmt (minorCode minor)).getD f
    i < max f.width d.width / min f.width d.width
  | .vscale => if minorBi minor then i < 256 else i = 0
  | .vsumr => i ≤ 5
  | .vperm => if minorMode minor % 2 = 1 then i < 32 else i = 0
  | .vsel | .vclmp | .vabs | .vneg | .vnot | .vqnt | .vexp2 | .vlog2 | .vrcp | .vrsq | .vtanh => i = 0
  | _ => minorBi minor || i = 0

/-- Check 7 for a slot form (R141, R188, R189). -/
def slotOk (k : SlotKind) (o : Slot) : Bool :=
  match laneFmt o.lt (minorU o.minor) with
  | none => false
  | some f =>
    let d := (targetFmt (minorCode o.minor)).getD f
    1 ≤ o.pos.toNat && o.pos.toNat ≤ 14 && decide (slotClassAt o.pos.toNat = k.cls) &&
    laneTypeOk k f && minorOk k f o.minor && immOk k f o.minor o.imm &&
    (tapsB k o.minor f d || o.fb == 0) && (tapsC k || o.fc == 0)

/-- The minor field that a portable form's minor stands for in the slot form (R209). -/
def portMinor (k : SlotKind) (m : BitVec 4) : BitVec 5 :=
  match k with
  | .vcvt | .vqnt => BitVec.ofNat 5 m.toNat
  | _ => BitVec.ofNat 5 (m.toNat / 8 * 16 + m.toNat % 8)

/-- IMM9 that a portable form stands for: VSUMR.P takes g = 32 (R209). -/
def portImm (k : SlotKind) : BitVec 9 := if k = .vsumr then 5 else 0

/-- Whether a portable form reads row A, row B (R209). -/
def portUsesB (k : SlotKind) (minor : BitVec 5) (f d : Fmt) : Bool :=
  match k with
  | .vclmp => true
  | .vcvt => d.width < f.width
  | _ => tapsB k minor f d

/-- Check 7 for a portable form with a slot (R143, R209). -/
def portOk (k : SlotKind) (o : Port) : Bool :=
  let mi := portMinor k o.minor
  match laneFmt o.lt (minorU mi) with
  | none => false
  | some f =>
    let d := (targetFmt (minorCode mi)).getD f
    let extra := match k with
      | .vcvt | .vqnt => true
      | .vsel | .vscale => o.minor == 0
      | .vperm => o.minor == 0 || o.minor == 2
      | .vsumr => o.minor.toNat % 8 / 2 == 0
      | _ => true
    laneTypeOk k f && minorOk k f mi && extra && (portUsesB k mi f d || o.b == 0)

/-- The mode field of an array instruction: bit [13] must be 0 (R217). -/
def modeOk (m : BitVec 4) : Bool := !m.getLsbD 3

/-- The checks of an instruction's own fields (check 7 of R137), beyond its prefixes and SIGNAL byte. -/
def operandsOk : Instr → Bool
  | .shli h o | .shri h o | .shai h o => (immOf h.pfx.imm o.i).toNat < 64
  | .cmp _ o => o.c.toNat ≤ 5
  | .cmpi _ o => o.c.toNat ≤ 5
  | .cmpL _ o => o.c.toNat ≤ 5
  | .ldx _ o => !(o.y == 3 && o.x)
  | .rdsr _ o => srListed o.r.toNat
  | .wrsr _ o => srListed o.r.toNat && srWritable o.r.toNat
  | .hinv _ o => !o.all || o.h == 0
  | .hqry _ o => o.part != 3
  | .crgnAbort h => h.signal == 0
  | .vld _ o => o.deco || (!o.int && o.blk == 0)
  | .cplv _ o => o.n.toNat ≤ 5
  | .cpgo _ o => o.dep.toNat ≤ 5 && (o.fl || (o.f == 0 && o.v == 0))
  | .csend _ o => o.dep.toNat ≤ 5
  | .cpacc _ o => o.row.toNat + o.nr.toNat + 1 ≤ 2048 && o.cg.toNat + o.ncg.toNat + 1 ≤ 4
  | .mxstage _ o => o.op != 3 && modeOk o.mode
  | .bfmt _ o => o.b.toNat < 24 && bfValid o.v
  | .bfmtr _ o => o.b.toNat < 24
  | .saq h o => o.op != 3 && o.ty != 3 && h.pfx.arith.all (·.rm != 5)
  | .xfence _ o => o.a.toNat ≤ 4 && o.b.toNat ≤ 4
  | .cstash _ o => o.sel != 3
  | .vrd _ o => o.pos == 0
  | .vwr _ o => o.pos == 15 && (o.masked || o.pr == 0)
  | .vbcast _ o => o.pos == 0 && o.fa == 0 && o.fb == 0 && o.fc == 0 &&
      (laneFmt o.lt (minorU o.minor)).isSome && o.minor.toNat % 16 ≤ 1 &&
      (!minorLow o.minor || o.imm.toNat < 32)
  | .viota _ o => o.pos == 0 && o.fa == 0 && o.fb == 0 && o.fc == 0 &&
      ((laneFmt o.lt (minorU o.minor)).any fun f => !f.isFloat) && o.minor.toNat % 16 == 0
  | .vadd _ o => slotOk .vadd o
  | .vsub _ o => slotOk .vsub o
  | .vmul _ o => slotOk .vmul o
  | .vfma _ o => slotOk .vfma o
  | .vmin _ o => slotOk .vmin o
  | .vmax _ o => slotOk .vmax o
  | .vabs _ o => slotOk .vabs o
  | .vneg _ o => slotOk .vneg o
  | .vand _ o => slotOk .vand o
  | .vor _ o => slotOk .vor o
  | .vxor _ o => slotOk .vxor o
  | .vnot _ o => slotOk .vnot o
  | .vshl _ o => slotOk .vshl o
  | .vshr _ o => slotOk .vshr o
  | .vsha _ o => slotOk .vsha o
  | .vcmp _ o => slotOk .vcmp o
  | .vsel _ o => slotOk .vsel o
  | .vcvt _ o => slotOk .vcvt o
  | .vclmp _ o => slotOk .vclmp o
  | .vscale _ o => slotOk .vscale o
  | .vqnt _ o => slotOk .vqnt o
  | .vexp2 _ o => slotOk .vexp2 o
  | .vlog2 _ o => slotOk .vlog2 o
  | .vrcp _ o => slotOk .vrcp o
  | .vrsq _ o => slotOk .vrsq o
  | .vtanh _ o => slotOk .vtanh o
  | .vsumr _ o => slotOk .vsumr o
  | .vperm _ o => slotOk .vperm o
  | .vmovdP _ o => o.lt == 0 && o.b == 0
  | .vbcastP _ o => o.lt == 0 && o.minor == 0 && o.b == 0
  | .viotaP _ o => ((laneFmt o.lt (o.minor.getLsbD 3)).any fun f => !f.isFloat) && o.minor.toNat % 8 == 0 &&
      o.a == 0 && o.b == 0
  | .vaddP _ o => portOk .vadd o
  | .vsubP _ o => portOk .vsub o
  | .vmulP _ o => portOk .vmul o
  | .vfmaP _ o => portOk .vfma o
  | .vminP _ o => portOk .vmin o
  | .vmaxP _ o => portOk .vmax o
  | .vabsP _ o => portOk .vabs o
  | .vnegP _ o => portOk .vneg o
  | .vandP _ o => portOk .vand o
  | .vorP _ o => portOk .vor o
  | .vxorP _ o => portOk .vxor o
  | .vnotP _ o => portOk .vnot o
  | .vshlP _ o => portOk .vshl o
  | .vshrP _ o => portOk .vshr o
  | .vshaP _ o => portOk .vsha o
  | .vcmpP _ o => portOk .vcmp o
  | .vselP _ o => portOk .vsel o
  | .vcvtP _ o => portOk .vcvt o
  | .vclmpP _ o => portOk .vclmp o
  | .vscaleP _ o => portOk .vscale o
  | .vqntP _ o => portOk .vqnt o
  | .vexp2P _ o => portOk .vexp2 o
  | .vlog2P _ o => portOk .vlog2 o
  | .vrcpP _ o => portOk .vrcp o
  | .vrsqP _ o => portOk .vrsq o
  | .vtanhP _ o => portOk .vtanh o
  | .vsumrP _ o => portOk .vsumr o
  | .vpermP _ o => portOk .vperm o
  | .tmma _ o => modeOk o.mode
  | .tmms _ o => modeOk o.mode
  | .tdist _ o => modeOk o.mode
  | .ttopk _ o => o.row.toNat + o.nr.toNat + 1 ≤ 2048 && o.k.toNat ≤ o.nc.toNat
  | _ => true

/-- Check 7 of R137, for a unit whose must-be-zero bits are zero. -/
def fieldsOk (i : Instr) : Bool :=
  match i.info with
  | none => true
  | some f => headOk f && operandsOk i

/-- Whether a portable form belongs to portable code only, or an instruction to native code only: check 4 for the task's
code form (R187, R215, R238). -/
def formAllows (portable : Bool) (f : Info) : Bool :=
  if !f.long then true
  else if 0x80 ≤ f.major && f.major ≤ 0x9F then !portable
  else if 0xA0 ≤ f.major && f.major ≤ 0xBF then portable
  else if 0xC0 ≤ f.major || f.major = 0x43 || f.major = 0x42 then !portable
  else true

end Sys2Proof.Machine
end

