-- ==== Sys2Proof/WellFormed.lean ====
section
/-!
DEFINITION. Well-formed instructions: what the encoding of an instruction must satisfy for the decoder to read it back and
for the decode checks that need no state to pass (R125 to R148). An event of the opcode table is always well formed.
-/

namespace Sys2Proof

/-- How many prefixes a unit has (R129). -/
def Pfx.count (x : Pfx) : Nat :=
  x.arith.isSome.toNat + x.imm.isSome.toNat + x.mem.isSome.toNat + x.pred.isSome.toNat

/-- At most two prefixes, all of kinds the instruction accepts, every field a value its entry allows, and P = 0 on the
unit's first parcel. -/
def Instr.wf (i : Instr) : Bool :=
  match i.info with
  | none => true
  | some f => decide (f.pfx.count ≤ 2) && !f.p && Machine.pfxAccepted f && Machine.fieldsOk i

end Sys2Proof
end

