-- ==== Sys2Proof/Machine/Ops.lean ====
section
/-!
DEFINITION. The named operations over the state: sparse storage, registers, memory, the MRF, tokens, completions, traps
and the return from them, and the checks and bookkeeping that issuing a unit takes (R12 to R20, R137, R284 to R291).
-/

namespace Sys2Proof.Machine

open Sys2Proof

/-! Sparse storage. -/

/-- The value at a key; `d` where the key is not listed. -/
def AMap.get {α : Type} (d : α) (m : AMap α) (k : Nat) : α :=
  match m with
  | [] => d
  | (k', v) :: rest => if k' = k then v else AMap.get d rest k

/-- The storage without a key. -/
def AMap.erase {α : Type} (m : AMap α) (k : Nat) : AMap α := m.filter (fun q => q.1 != k)

/-- The storage with a key listed before the first greater one. -/
def AMap.insert {α : Type} (m : AMap α) (k : Nat) (v : α) : AMap α :=
  match m with
  | [] => [(k, v)]
  | (k', v') :: rest => if k < k' then (k, v) :: (k', v') :: rest else (k', v') :: AMap.insert rest k v

/-- Writes a key; writing the default removes it, so that equal storage is equal data. -/
def AMap.set {α : Type} [DecidableEq α] (d : α) (m : AMap α) (k : Nat) (v : α) : AMap α :=
  if v = d then AMap.erase m k else AMap.insert (AMap.erase m k) k v

/-- Keys strictly rising. -/
def rising {α : Type} : AMap α → Bool
  | [] => true
  | [_] => true
  | (a, _) :: (b, v) :: rest => decide (a < b) && rising ((b, v) :: rest)

/-- The canonical form: keys strictly rising, and no entry equal to the default. -/
def AMap.wf {α : Type} [DecidableEq α] (d : α) (m : AMap α) : Bool := rising m && m.all (fun q => decide (q.2 ≠ d))

/-- The canonical form of a memory: what an unlisted address reads as is zero (R7; log entry 4, DESIGN CHOICE). -/
def Memory.wf (m : AMap Byte) : Bool := AMap.wf (0 : Byte) m

/-! Bytes of a memory. -/

def memGet (m : AMap Byte) (a : Nat) : Byte := AMap.get 0 m a
def memSet (m : AMap Byte) (a : Nat) (b : Byte) : AMap Byte := AMap.set 0 m a b

/-- `n` bytes from an address. -/
def memRead (m : AMap Byte) (a : Nat) : Nat → List Byte
  | 0 => []
  | n + 1 => memGet m a :: memRead m (a + 1) n

/-- Bytes written from an address on. -/
def memWrite (m : AMap Byte) (a : Nat) : List Byte → AMap Byte
  | [] => m
  | b :: bs => memWrite (memSet m a b) (a + 1) bs

/-- Addresses of a list of marks that lie in an extent (R295). -/
def marksIn (ue : List Nat) (a n : Nat) : List Nat := ue.filter fun x => a ≤ x ∧ x < a + n
/-- Marks with those of an extent replaced: a write carries the marks of its source (R295). -/
def setMarks (ue : List Nat) (a n : Nat) (new : List Nat) : List Nat :=
  new ++ ue.filter fun x => !(a ≤ x ∧ x < a + n)

/-! Sequencers and their registers (R10). -/

def Core.seq (c : Core) (q : SeqId) : Seq :=
  match q with
  | .ct => c.ct
  | .ld => c.ld
  | .mx => c.mx
  | .st => c.st

def Core.setSeq (c : Core) (q : SeqId) (v : Seq) : Core :=
  match q with
  | .ct => { c with ct := v }
  | .ld => { c with ld := v }
  | .mx => { c with mx := v }
  | .st => { c with st := v }

def Core.updSeq (c : Core) (q : SeqId) (f : Seq → Seq) : Core := c.setSeq q (f (c.seq q))

/-- The code of a sequencer (R153). -/
def seqCode : SeqId → Nat
  | .ct => 0
  | .ld => 1
  | .mx => 2
  | .st => 3

/-- The sequencer of a code (R153). -/
def seqOf (n : Nat) : SeqId :=
  match n % 4 with
  | 0 => .ct
  | 1 => .ld
  | 2 => .mx
  | _ => .st

/-- X0 reads as zero (R10). -/
def Seq.getX (s : Seq) (r : BitVec 5) : Word := if r = 0 then 0 else AMap.get 0 s.x r.toNat
def Seq.getXP (s : Seq) (r : BitVec 5) : Bool := r != 0 && s.xp.getLsbD r.toNat

/-- Sets one bit of a word. -/
def setBit {w : Nat} (v : BitVec w) (n : Nat) (b : Bool) : BitVec w :=
  if b then v ||| BitVec.twoPow w n else v &&& ~~~(BitVec.twoPow w n)

/-- Writes to X0 are discarded (R10). -/
def Seq.setX (s : Seq) (r : BitVec 5) (v : Word) (poison : Bool) : Seq :=
  if r = 0 then s else { s with x := AMap.set 0 s.x r.toNat v, xp := setBit s.xp r.toNat poison }

/-- P0 reads as all ones, and writes to it are discarded (R10). -/
def Seq.getP (s : Seq) (r : BitVec 3) : PWord := if r = 0 then BitVec.allOnes 32 else AMap.get 0 s.p r.toNat
def Seq.setP (s : Seq) (r : BitVec 3) (v : PWord) : Seq :=
  if r = 0 then s else { s with p := AMap.set 0 s.p r.toNat v }

def Level.initial : Level := ⟨1, 0, 0⟩
def Seq.getCl (s : Seq) (n : Nat) : Level := AMap.get Level.initial s.cl n
def Seq.setCl (s : Seq) (n : Nat) (v : Level) : Seq := { s with cl := AMap.set Level.initial s.cl n v }

/-- Writes a P register; CHKR reads the value from before the pulse (R186). -/
def Core.writeP (c : Core) (q : SeqId) (r : BitVec 3) (v : PWord) : Core :=
  let k := seqCode q * 8 + r.toNat
  { c.updSeq q fun s => s.setP r v with
    pOld := if c.pOld.any (·.1 = k) then c.pOld else c.pOld ++ [(k, (c.seq q).getP r)] }

/-- A P register as it stood before the pulse's writes (R186). -/
def Core.pBefore (c : Core) (q : SeqId) (r : BitVec 3) : PWord :=
  match c.pOld.find? (·.1 = seqCode q * 8 + r.toNat) with
  | some x => x.2
  | none => (c.seq q).getP r

/-! The core's other registers. -/

/-- A handle as at launch: invalid (R7). -/
def Hnd.invalid : Hnd := ⟨0, 0, 0, false, 0, none, false, []⟩
def Core.getH (c : Core) (r : BitVec 5) : Hnd := AMap.get Hnd.invalid c.hnd r.toNat
def Core.setH (c : Core) (r : BitVec 5) (v : Hnd) : Core := { c with hnd := AMap.set Hnd.invalid c.hnd r.toNat v }

/-- The fields of R50. -/
def Hnd.valid (h : Hnd) : Bool := h.bits.getLsbD 0
def Hnd.miss (h : Hnd) : Bool := h.bits.getLsbD 1
def Hnd.remote (h : Hnd) : Bool := h.bits.getLsbD 2
def Hnd.psize (h : Hnd) : Nat := h.bits.toNat / 2 ^ 3 % 4
def Hnd.perm (h : Hnd) (bit : Nat) : Bool := h.bits.getLsbD bit
def Hnd.sync (h : Hnd) : Bool := h.bits.getLsbD 15
def Hnd.paddr (h : Hnd) : Nat := h.bits.toNat / 2 ^ 64 % 2 ^ 52
def Hnd.vaddr (h : Hnd) : Nat := h.bits.toNat / 2 ^ 64 % 2 ^ 57
/-- Bytes of a page (R50). -/
def pageBytes (psize : Nat) : Nat := match psize with
  | 0 => 0x10000
  | 1 => 0x200000
  | _ => 0x40000000
def Hnd.size (h : Hnd) : Nat := pageBytes h.psize
def Hnd.clearValid (h : Hnd) : Hnd := { h with bits := setBit h.bits 0 false }

/-- A queue that the header leaves unconfigured (R14). -/
def Tok.none : Tok := ⟨false, .ct, .ct, 0, 0, []⟩
def Core.getTok (c : Core) (q : Nat) : Tok := AMap.get Tok.none c.tok q
def Core.setTok (c : Core) (q : Nat) (v : Tok) : Core := { c with tok := AMap.set Tok.none c.tok q v }

/-- Core order (R98): whatever either of two lists orders before. -/
def joinOrder (a b : List Nat) : List Nat := (List.range 4).map fun i => max (a.getD i 0) (b.getD i 0)

/-- What is core-ordered before a sequencer's next unit. -/
def Core.getOrd (c : Core) (q : SeqId) : List Nat := AMap.get [] c.ord (seqCode q)

/-- Whether what a sequencer issued under an identity is core-ordered before the next unit of another (R98). -/
def Core.ordered (c : Core) (q : SeqId) (by_ : SeqId) (id : Nat) : Bool := q = by_ || decide (id < (c.getOrd q).getD (seqCode by_) 0)

def Core.getBf (c : Core) (b : Nat) : BitVec 32 := AMap.get 0 c.bf b
def Core.setBf (c : Core) (b : Nat) (v : BitVec 32) : Core := { c with bf := AMap.set 0 c.bf b v }

def Core.udchk (c : Core) : Bool := c.chkcfg.getLsbD 0
def Core.erchk (c : Core) : Bool := c.chkcfg.getLsbD 1
/-- ILOCK's bit for an operation class (R26). -/
def Core.ilock (c : Core) (cls : Nat) : Bool := c.chkcfg.getLsbD (16 + cls)

/-- Whether the core runs a portable task (R153). -/
def Core.portable (c : Core) : Bool := c.task.any fun t => t.image.portable
def Core.copyDriven (c : Core) : Bool := c.task.any fun t => t.image.copyDriven

/-! The MRF (R28 to R33, R53). -/

/-- Phys of R53: a rotated register name to the physical register. -/
def phys (rbase : BitVec 4) (n : Nat) : Nat :=
  if n < 16 then n else 16 + (n - 16 + rbase.toNat) % 16

/-- An MRF operand with its register made physical (R33). -/
def physOp (rbase : BitVec 4) (m : BitVec 12) : BitVec 12 :=
  BitVec.ofNat 12 (m.toNat / 2 ^ 10 * 2 ^ 10 + phys rbase (m.toNat / 2 ^ 5 % 2 ^ 5) * 2 ^ 5 + m.toNat % 2 ^ 5)

def mrfDir (m : BitVec 12) : Nat := m.toNat / 2 ^ 10
def mrfReg (m : BitVec 12) : Nat := m.toNat / 2 ^ 5 % 2 ^ 5
def mrfIx (m : BitVec 12) : Nat := m.toNat % 2 ^ 5

/-- CellOf of R53. -/
def cellOfDir (d e k : Nat) : Nat × Nat :=
  match d with
  | 0 => (k, e)
  | 1 => (e, k)
  | 2 => (e, (e + k) % 32)
  | _ => (e, (k + 32 - e) % 32)

/-- The storage key of element `e` of the vector a physical operand names. -/
def mrfKey (m : BitVec 12) (e : Nat) : Nat :=
  let ij := cellOfDir (mrfDir m) e (mrfIx m)
  mrfReg m * 1024 + ij.1 * 32 + ij.2

/-- ReadVec of R53, of a physical operand. -/
def readVec (mrf : AMap (BitVec 33)) (m : BitVec 12) : Vec :=
  Vec.ofFn (fun e => (AMap.get 0 mrf (mrfKey m e)).setWidth 32) (fun e => (AMap.get 0 mrf (mrfKey m e)).getLsbD 32)

/-- A cell with its poison bit, as stored. -/
def mrfCell (v : BitVec 32) (poison : Bool) : BitVec 33 := BitVec.ofBool poison ++ v

/-- WriteVec of R53, of a physical operand, element by element. -/
def writeVec (mrf : AMap (BitVec 33)) (m : BitVec 12) (v : Vec) (mask : BitVec 32) : AMap (BitVec 33) :=
  (List.range 32).foldl (fun acc e =>
    if mask.getLsbD e then AMap.set 0 acc (mrfKey m e) (mrfCell (v.cell e) (v.pois e)) else acc) mrf

/-- The banks a physical operand's access touches (R30). -/
def mrfBanks (m : BitVec 12) : List Nat :=
  match mrfDir m with
  | 0 => List.range 8
  | 1 => List.range 8
  | 2 => (List.range 8).filter fun b => b % 2 = (mrfIx m + mrfReg m) % 2
  | _ => [(mrfIx m + mrfReg m) % 8]

/-- The occupancy of an access: the figure of R30 plus the core's BADJ (R316). -/
def occupancy (map : CoreMap) (m : BitVec 12) : Nat :=
  let d := mrfDir m
  (match d with | 0 => 1 | 1 => 1 | 2 => 2 | _ => 8) + map.badj.getD d 0

/-- Whether a port is free over an interval of cycles (R31). -/
def portFree (ps : List PortRes) (k : PortKind) (bank port first last : Nat) : Bool :=
  ps.all fun p => !(p.kind = k && p.bank = bank && p.port = port && p.first ≤ last && first ≤ p.last)

/-- The ports of a kind: two for reads, one for writes, one side port (R30, R249). -/
def portCount (k : PortKind) : Nat := if k = .read then 2 else 1

/-- The first free port of a kind in a bank over an interval. -/
def freePort (ps : List PortRes) (k : PortKind) (bank first last : Nat) : Option Nat :=
  (List.range (portCount k)).find? fun p => portFree ps k bank p first last

/-- Reservations for an access at a cycle, where every bank has a free port. -/
def tryReserve (ps : List PortRes) (k : PortKind) (banks : List Nat) (first last : Nat) : Option (List PortRes) :=
  match banks with
  | [] => some []
  | b :: rest =>
    match freePort ps k b first last, tryReserve ps k rest first last with
    | some p, some r => some (⟨k, b, p, first, last⟩ :: r)
    | _, _ => none

/-- Reserves the ports of an access from the first cycle, from `start` on, in which all are free (R31): the start and the
reservations. `n` bounds the search; a search that ends takes the last cycle tried. -/
def reserve (ps : List PortRes) (k : PortKind) (banks : List Nat) (occ : Nat) : Nat → Nat → Nat × List PortRes
  | 0, start => (start, ps)
  | n + 1, start =>
    match tryReserve ps k banks start (start + occ - 1) with
    | some r => (start, ps ++ r)
    | none => reserve ps k banks occ n (start + 1)

/-- How far ahead a reservation can lie: past the last one, everything is free. -/
def portHorizon (ps : List PortRes) (start : Nat) : Nat := ps.foldl (fun acc p => max acc (p.last + 1)) start + 1 - start

/-- Reserves from `start` on; the answer is the cycle at which the access starts. -/
def Core.reserve (c : Core) (k : PortKind) (m : BitVec 12) (start : Nat) : Nat × Core :=
  let occ := occupancy c.map m
  let r := Machine.reserve c.ports k (mrfBanks m) occ (portHorizon c.ports start) start
  (r.1, { c with ports := r.2 })

/-! The ACC (R39). -/

def accKey (row col : Nat) : Nat := row * 128 + col
def Core.getAcc (c : Core) (row col : Nat) : BitVec 32 := AMap.get 0 c.acc (accKey row col)
def accSet (a : AMap (BitVec 32)) (row : Nat) (cols : List (Nat × BitVec 32)) : AMap (BitVec 32) :=
  cols.foldl (fun acc q => AMap.set 0 acc (accKey row q.1) q.2) a

/-! The flow row (R34 to R37). -/

/-- The value of a flow at a position in the present cycle; none where it is EMPTY (R36). -/
def Core.flowAt (c : Core) (f pos : Nat) : Option Vec :=
  (c.drives.find? fun d => d.cyc = c.cycle && d.flow = f && d.pos = pos).map (·.v)

/-- A tap: an EMPTY position yields zeros with poison (R36). -/
def Core.tap (c : Core) (f pos : Nat) : Vec := (c.flowAt f pos).getD Vec.poisoned

/-- Puts a value on the row; a second value in one place and cycle collides (R37). -/
def addDrive (ds : List Drive) (d : Drive) : List Drive :=
  if ds.any (fun e => e.cyc = d.cyc && e.flow = d.flow && e.pos = d.pos) then
    ds.map fun e => if e.cyc = d.cyc && e.flow = d.flow && e.pos = d.pos then { e with v := Vec.poisoned } else e
  else ds ++ [d]

/-- Where the values of cycle `cyc` go next: each moves one position east after its hop, and leaves after position 15 (R35). -/
def moveFlows (hop : List Nat) (cyc : Nat) (ds : List Drive) : List Drive :=
  let still := ds.filter fun d => d.cyc != cyc
  let moving := (ds.filter fun d => d.cyc = cyc && d.pos ≤ 14).map fun d =>
    { d with cyc := cyc + hop.getD d.pos 1, pos := d.pos + 1 }
  moving.foldl addDrive still

/-! State access. -/

def State.updCore (s : State) (f : Core → Core) : State := { s with core := f s.core }
def State.seq (s : State) : Seq := s.core.seq s.who
def State.updSeq (s : State) (f : Seq → Seq) : State := s.updCore fun c => c.updSeq s.who f

/-- A free time, and the state with the counter moved on (log entry 5, DESIGN CHOICE). -/
def State.freeTime (s : State) : Nat × State := (Config.latency s.free, { s with free := s.free + 1 })

/-- An identity for a thing in flight; identities rise in program order. -/
def Core.newId (c : Core) : Nat × Core := (c.nextId, { c with nextId := c.nextId + 1 })

/-! Tokens and completions (R14 to R18). -/

/-- Whether bit 7 of a WAIT or SIGNAL byte names tokens, the queue and the count (R135, R136). -/
def byteTokens (b : BitVec 8) : Option (Nat × Nat) :=
  if b.getLsbD 7 then some (b.toNat % 16, b.toNat / 16 % 8 + 1) else none

/-- Notes the SIGNAL post of an instruction for the end of the cycle (R16); `id` is the instruction's identity. -/
def Core.post (c : Core) (id : Nat) (q : SeqId) (pc : Word) (sig : BitVec 8) : Core :=
  match byteTokens sig with
  | none => c
  | some (queue, n) => { c with posts := c.posts ++ [⟨id, q, pc, queue, n⟩] }

/-- The cycle or pulse in which a sequencer issues now: MX counts schedule cycles, the others their own pulses (R12, R13). -/
def Core.now (c : Core) (q : SeqId) : Nat := if q = .mx then c.cycle else c.pulse

/-- A timed instruction that completes `lat` cycles after its issue (R16, R157). -/
def Core.complete (c : Core) (q : SeqId) (pc : Word) (lat : Nat) (writes : List RegWrite) (sig : BitVec 8) : Core :=
  { c with
    done := c.done ++ [⟨c.nextId, q = .mx, c.now q + lat, q, pc, writes, sig⟩]
    nextId := c.nextId + 1 }

/-! Places and operations in flight, as traps and interlocks see them. -/

def Loc.isRemote : Loc → Bool
  | .remote .. => true
  | _ => false

/-- Whether a place is reached through a handle. -/
def Loc.viaHandle : Loc → Bool
  | .spad .. => false
  | .clus .. => false
  | _ => true

def isAcq : SyncKind → Bool
  | .acqL => true
  | .acqG _ => true
  | _ => false

/-- Whether a kill lets an operation that has left the commit buffer go on (R291): an access that was sent. A waiting ACQ is
withdrawn.
Log entry 56 (DEDUCED). -/
def Flight.outlivesKill (f : Flight) : Bool :=
  decide (f.stage ≠ .commit) && match f.op with
  | .load _ l .. => l.isRemote
  | .store l _ => l.viaHandle
  | .ordLoad .. => true
  | .ordStore .. => true
  | .sync k .. => !isAcq k
  | _ => false

/-- Whether a kill lets a command of the engine go on: one whose writes are on their way. -/
def EngineCmd.outlivesKill (k : EngineCmd) : Bool :=
  decide (k.stage = .away) && match k.kind with
  | .copy src .. => !src.isRemote
  | _ => true

/-- Whether a kill lets updates of a stream land: those to memory that have left the commit buffer. -/
def Stream.outlivesKill (t : Stream) (pulse : Nat) : Bool :=
  t.target.viaHandle && decide (t.updates ≠ []) && decide (t.out ≤ pulse)

/-! Trap causes (R156). -/

def Cause.illegalLength : Cause := 0x01
def Cause.illegalOpcode : Cause := 0x02
def Cause.illegalField : Cause := 0x03
def Cause.orphanPrefix : Cause := 0x04
def Cause.wrongSequencer : Cause := 0x05
def Cause.issueOverflow : Cause := 0x06
def Cause.divZero : Cause := 0x10
def Cause.intOverflow : Cause := 0x11
def Cause.fpInvalid : Cause := 0x12
def Cause.translationFault : Cause := 0x20
def Cause.permission : Cause := 0x21
def Cause.handleInvalid : Cause := 0x22
def Cause.alignment : Cause := 0x23
def Cause.bankFormat : Cause := 0x24
def Cause.remoteFault : Cause := 0x25
def Cause.fabricTimeout : Cause := 0x26
def Cause.undersizedDelay : Cause := 0x30
def Cause.earlyRead : Cause := 0x31
def Cause.tokenOverflow : Cause := 0x32
def Cause.tokenStall : Cause := 0x33
def Cause.breakpoint : Cause := 0x40
def Cause.swtrap : Cause := 0x41
def Cause.mapStale : Cause := 0x42
def Cause.ueConsumed : Cause := 0x50

/-- The causes of R156. -/
def causeListed (n : Nat) : Bool :=
  (1 ≤ n && n ≤ 6) || (0x10 ≤ n && n ≤ 0x12) || (0x20 ≤ n && n ≤ 0x26) || (0x30 ≤ n && n ≤ 0x33) ||
    (0x40 ≤ n && n ≤ 0x42) || n = 0x50

/-- A cause with what EADDR is to hold. -/
structure TrapRec where
  cause : Cause
  eaddr : Word
  deriving DecidableEq, Repr

/-- What an instruction's operand checks and effect answer: a state, or the trap that stops it. -/
abbrev Eff := Except TrapRec State

def trapWith (c : Cause) (eaddr : Word := 0) : Eff := .error ⟨c, eaddr⟩

/-! Trap entry and return (R284 to R291, R177). -/

/-- Whether issued portable forms have still to complete (R214). -/
def Core.formsPending (c : Core) : Bool := c.mwr.any (!·.side) || c.lateForms != []

/-- Whether a sequencer runs a trap handler: CT does above TL 0, though its own code may have ended (R173, R284). -/
def Core.handling (c : Core) (q : SeqId) : Bool := q = .ct && c.tl != 0

/-- Whether a trap was taken in this cycle. -/
def Core.tookTrap (c : Core) : Bool := c.preTrap.isSome

/-- The trap registers of a level, as they stand. -/
def Core.trapRegsNow (c : Core) (n : Nat) : TrapRegs :=
  if n = 1 then ⟨c.tl, c.ecause1, c.epc1, c.eaddr1, c.eseq1⟩ else ⟨c.tl, c.ecause2, c.epc2, c.eaddr2, c.eseq2⟩

/-- The trap level of the present cycle: a trap of the cycle raises it at the cycle's end (R284). -/
def Core.level (c : Core) : Nat :=
  match c.preTrap with
  | some o => o.tl
  | none => c.tl

/-- The trap registers of a level in the present cycle (R284). -/
def Core.trapRegs (c : Core) (n : Nat) : TrapRegs :=
  match c.preTrap with
  | some o => if o.tl + 1 = n then o else c.trapRegsNow n
  | none => c.trapRegsNow n

/-- TrapEntry of R284 below TL 2: the registers of the next level, CT at its vector. In a portable task CT starts only
when every issued portable form has completed (R214).
Log entry 21 (DEDUCED). -/
def Core.enterTrap (c : Core) (q : SeqId) (cause : Cause) (late : Bool) (epc eaddr : Word) : Core :=
  let ret := c.ct.pc
  let code := BitVec.setWidth 64 cause + (if late then 0x100 else 0)
  let who := BitVec.ofNat 64 (seqCode q)
  let before := c.trapRegsNow (c.tl + 1)
  let c := if c.tl = 0 then
      { c with
        ecause1 := code, epc1 := epc, eaddr1 := eaddr, eseq1 := who, ret1 := if q = SeqId.ct then c.ret1 else ret, tl := 1,
        ctWd := if c.ct.waiting then some (ret, c.ct.wd) else none,
        ct := { c.ct with pc := c.tvec1, redo := true, minGap := 1, waiting := false } }
    else
      { c with
        ecause2 := code, epc2 := epc, eaddr2 := eaddr, eseq2 := who, ret2 := if q = SeqId.ct then c.ret2 else ret, tl := 2,
        ct := { c.ct with pc := c.tvec2, redo := true, minGap := 1, waiting := false } }
  { c with preTrap := some before, drainForms := c.portable && c.formsPending }

/-- What a kill leaves of a core (R291): its sequencers and timed work stop, effects still in the commit buffer are
discarded, and what was already sent lands or times out without flag or post. With nothing left the core is free. -/
def Core.killed (c : Core) : Core :=
  let flight := (c.flight.filter Flight.outlivesKill).map fun f => { f with quiet := true }
  let cmds := (c.cmds.filter EngineCmd.outlivesKill).map fun k => { k with quiet := true }
  let sae := (c.sae.filter fun t => t.outlivesKill c.pulse).map fun t => { t with n := t.next, fault := none, quiet := true }
  let nothing := flight = [] ∧ cmds = [] ∧ sae = []
  { Core.idle c.die c.cluster c.core with
    status := if nothing then .free else .killed
    task := if nothing then none else c.task
    flight := flight, cmds := cmds, sae := sae, hnd := c.hnd, tlb := c.tlb
    spad := c.spad, spadUe := c.spadUe, pulse := c.pulse, nextId := c.nextId, map := c.map,
    mapver := c.mapver, coreClass := c.coreClass, errrec := c.errrec, fstat := c.fstat }

/-- A trap at TL 2 (R291): every core running a task of the graph stops, and the graph is to complete as KILLED with the
cause given. -/
def State.kill (s : State) (cause : Nat) : State :=
  match s.core.task with
  | none => s
  | some t =>
    let same (c : Core) : Bool := decide (c.status ≠ .killed) && c.task.any fun u => u.graph = t.graph
    { s with
      core := s.core.killed
      parked := s.parked.map fun c => if same c then c.killed else c
      hub := { s.hub with kills := s.hub.kills ++ [(t.graph, cause, t.node)] } }

/-- A trap raised by sequencer `q` (R284): entry at the next level, or the kill at TL 2. TRAP n there kills with cause
n[7:0] (R292). -/
def State.raise (s : State) (q : SeqId) (cause : Cause) (late : Bool) (epc eaddr : Word) : State :=
  if s.core.tl = 2 then s.kill (if cause = Cause.swtrap then eaddr.toNat % 256 else cause.toNat)
  else s.updCore fun c => c.enterTrap q cause late epc eaddr

/-- Whether a pending cause may be taken at this boundary (R286): at TL 0 any; above, a late fault of an instruction that
CT issued at TL 1 or more, and a consumption of marked bytes at TL 1 or more (R296).
Log entry 57 (DEDUCED). -/
def PendCause.ready (p : PendCause) (tl : Nat) : Bool :=
  tl = 0 || (p.level ≥ 1 && (p.q = .ct || p.cause = Cause.ueConsumed))

/-- Whether a sequencer stands at a boundary for a pending cause: no operation holds it. -/
def Core.atBoundary (c : Core) (q : SeqId) : Bool := (c.seq q).hold.isNone

/-- Whether a cause raised at issue by `q` yields to another of this cycle: a trap already taken, or a pending cause that is to be
taken of a sequencer not after it (R286). -/
def Core.yields (c : Core) (q : SeqId) : Bool :=
  c.tookTrap || c.pend.any fun p => p.ready c.tl && c.atBoundary p.q && seqCode p.q ≤ seqCode q

/-- Notes whether the MX unit that traps at issue does so by ISSUE_OVERFLOW. -/
def Core.noteOver (c : Core) (q : SeqId) (cause : Cause) : Core :=
  if q = .mx then { c with mxOver := if cause = Cause.issueOverflow then some c.mx.pc else none } else c

/-- A cause raised at issue by the sequencer in turn (R137, R286): the unit has no effect and will issue again. Where the cause yields,
the unit raises it then; a wait goes on, and a comparator it has passed stays passed (R19, R294). -/
def State.trapAtIssue (s : State) (cause : Cause) (eaddr : Word) : State :=
  let pc := s.seq.pc
  let s' := (s.updSeq fun q => { q with redo := true }).updCore fun c => c.noteOver s.who cause
  if s.core.yields s.who then s'
  else (s'.updSeq fun q => { q with waiting := false, brkPass := none }).raise s.who cause false pc eaddr

/-! Turns. -/

/-- The turn passes to the next sequencer; after ST the pulse is closed. -/
def State.pass (s : State) : State :=
  match s.who with
  | .ct => { s with who := .ld }
  | .ld => { s with who := .mx }
  | .mx => { s with who := .st }
  | .st => { s with who := .ct, phase := .close }

/-! Interlocks (R12, R239, R242). -/

/-- Whether an X register of a sequencer has an outstanding write; that of a promised load ends as its due cycle poisons the
register (R239, R248). -/
def Core.xBusy (c : Core) (q : SeqId) (r : BitVec 5) : Bool :=
  r != 0 &&
  (c.done.any (fun p => p.writes.any fun
      | .x q' r' _ _ => q' = q && r' = r
      | _ => false) ||
   c.flight.any (fun f => f.q = q &&
    match f.op with
    | .load (.x r' _ _) _ _ _ _ _ => r' = r && !f.late
    | .ordLoad r' _ _ _ => r' = r
    | .sync _ _ _ (some r') => r' = r
    | _ => false))

/-- Whether a P register of a sequencer has an outstanding write. -/
def Core.pBusy (c : Core) (q : SeqId) (r : BitVec 3) : Bool :=
  r != 0 &&
  (c.done.any (fun p => p.writes.any fun
      | .p q' r' _ => q' = q && r' = r
      | _ => false) ||
   c.flight.any (fun f => f.q = q &&
    match f.op with
    | .load _ _ _ _ (some r') _ => r' = r
    | .waita r' _ _ _ => r' = r
    | _ => false))

/-- Whether XLATE is still writing a handle register (R49). -/
def Core.hWriting (c : Core) (r : BitVec 5) : Bool :=
  c.done.any fun p => p.writes.any fun
    | .h r' _ _ => r' = r
    | _ => false

/-- Whether a handle register has an outstanding write for a sequencer: XLATE's, and for CT an HINV in progress (R49, R243). -/
def Core.hBusy (c : Core) (q : SeqId) (r : BitVec 5) : Bool :=
  c.hWriting r ||
  (decide (q = .ct) && c.flight.any fun f =>
    match f.op with
    | .hinv all r' _ => all || r' = r
    | _ => false)

/-- KEEPB of a shape (R146). -/
def shKeep (w : Word) : Bool := w.getLsbD 60

/-- The locator registers of an array instruction that it reads: with KEEPB it reads no B locator (R223). -/
def locatorsRead (s : Seq) (a b sh : BitVec 5) : List (BitVec 5) := if shKeep (s.getX sh) then [a] else [a, b]

/-- The registers of an instruction's operands as it stands before a sequencer. -/
def Seq.operandRegs (s : Seq) (i : Instr) : Regs :=
  let mat (a b sh : BitVec 5) : Regs := { i.regs with xs := locatorsRead s a b sh ++ [sh] }
  match i with
  | .tmma _ o => mat o.a o.b o.s
  | .tmms _ o => mat o.a o.b o.s
  | .tdist _ o => mat o.a o.b o.s
  | .mxstage _ o => mat o.a o.b o.s
  | _ => i.regs

/-- The register of a PRED prefix. -/
def predRegs (pfx : Pfx) : Regs := { Regs.none with ps := (pfx.pred.map (·.preg)).toList }

/-- The registers a unit waits for: those of its operands and its PRED register. -/
def unitRegs (s : Seq) (i : Instr) (pfx : Pfx) : Regs :=
  let g := s.operandRegs i
  { g with ps := g.ps ++ (predRegs pfx).ps }

/-- The interlock of R12: a source or destination register has an outstanding write. -/
def Core.stalled (c : Core) (q : SeqId) (g : Regs) : Bool :=
  (g.xs ++ g.xd).any (c.xBusy q) || (g.ps ++ g.pd).any (c.pBusy q) || (g.hs ++ g.hd).any (c.hBusy q)

/-! Fetch (R105, R124, R323). -/

/-- The resident runtime's addresses in CT's window (R323). -/
def runtimeBase : Nat := 0x80000000
def inRuntime (a : Nat) : Bool := runtimeBase ≤ a && a < runtimeBase + 0x40000

def Segment.empty : Segment := ⟨[], none, 0, 0, []⟩

/-- The segment of a sequencer's code (R322, R323). -/
def Core.segment (c : Core) (q : SeqId) : Segment :=
  match c.task with
  | none => Segment.empty
  | some t => t.image.segs.getD (seqCode q) Segment.empty

/-- The address of a byte of an entry of the translated-image cache: the region lies beyond the physical addresses.
Log entry 58 (DESIGN CHOICE). -/
def cacheAddr (entry off : Nat) : Nat := 2 ^ 52 + entry * 2 ^ 32 + off

/-- The address of a byte of a segment. -/
def Segment.addr (g : Segment) (a : Nat) : Nat :=
  match g.entry with
  | some e => cacheAddr e (g.off + a)
  | none => g.pages.getD ((g.off + a) / 65536) 0 + (g.off + a) % 65536

/-- Whether a byte of the translated-image cache or of HBM is marked. -/
def Hub.marked (h : Hub) (a : Nat) : Bool :=
  if a < 2 ^ 52 then h.hbmUe.contains a
  else h.cache.any fun e => e.id = (a - 2 ^ 52) / 2 ^ 32 && e.ue.contains (a % 2 ^ 32)

/-- The bytes a sequencer fetches from an address of its window on: at most the 16 of the longest unit, and none past the
window's end (R105, R124). -/
def State.codeAt (s : State) (q : SeqId) (a : Nat) : List Byte :=
  let g := s.core.segment q
  (List.range (min 16 (g.len - a))).map fun i => g.bytes.getD (a + i) 0

/-- The first marked address of the bytes of a fetch (R295). -/
def State.codeMarked (s : State) (q : SeqId) (a n : Nat) : Option Nat :=
  let g := s.core.segment q
  ((List.range n).map fun i => g.addr (a + i)).find? s.hub.marked

/-- The address after the issue unit at an address (R177); a unit that does not decode counts as one parcel. -/
def State.afterUnit (s : State) (q : SeqId) (a : Word) : Word :=
  match decode (s.codeAt q a.toNat) with
  | .unit _ len _ => a + BitVec.ofNat 64 (4 * len)
  | .bad _ => a + 4

/-! Issuing a unit. -/

/-- What an instruction knows of its own issue. -/
structure Ctx where
  q : SeqId
  pc : Word
  /-- The address after the unit. -/
  next : Word
  pfx : Pfx
  sig : BitVec 8
  deriving DecidableEq, Repr

/-- The parcels of a unit (R126, R133, R134). -/
def unitParcels (f : Info) : Nat := f.pfx.count + (if f.long then 2 else 1)

def ctxOf (s : State) (f : Info) : Ctx :=
  { q := s.who, pc := s.seq.pc, next := s.seq.pc + BitVec.ofNat 64 (4 * unitParcels f), pfx := f.pfx, sig := f.signal }

/-- The ARITH state of a unit (R73). -/
def Ctx.arith (u : Ctx) : Arith := u.pfx.arith.getD Arith.default
/-- The alias class of a unit (R106). -/
def Ctx.cls (u : Ctx) : BitVec 3 := (u.pfx.mem.map (·.cls)).getD 0

/-- The token wait of a unit: its WAIT byte, or TKWAIT's operands (R135, R171). -/
def tokenWait (i : Instr) (f : Info) : Option (Nat × Nat) :=
  match i with
  | .tkwait _ o => some (o.q.toNat, o.n.toNat + 1)
  | _ => byteTokens f.wait

/-- The issue delta of a unit (R135): a token wait has none and issues one cycle after its predecessor (R55). -/
def issueDelta (i : Instr) (f : Info) : Nat :=
  if (tokenWait i f).isSome then 1 else f.wait.toNat

/-- The branch-class instructions (R167). -/
def branchClass : Instr → Bool
  | .br .. | .bp .. | .bnp .. | .call .. | .ret .. | .jmpx .. | .loop .. | .loopL .. | .endl .. | .chkpMrf .. | .chkpX ..
  | .chkr .. => true
  | _ => false

/-- Array instructions (R215). -/
def arrayInstr : Instr → Bool
  | .tmma .. | .tmms .. | .tdist .. => true
  | _ => false

/-- The MRF reads and writes a unit counts towards R13. -/
def mrfUse : Instr → Nat × Nat
  | .vrd .. => (1, 0)
  | .vwr .. => (0, 1)
  | .chkpMrf .. => (1, 0)
  | .accrd .. => (0, 1)
  | .accwr .. => (1, 0)
  | _ => (0, 0)

/-- Check 6 of R137: the sequencer set, the array mode (R58, R215), and the queues the unit names (R18). -/
def sequencerOk (i : Instr) (f : Info) (c : Core) (q : SeqId) : Bool :=
  i.seqs.contains q &&
  (!arrayInstr i || !c.copyDriven) &&
  (match i with
   | .mxstage .. => c.copyDriven
   | .wrsr _ o => !srTrap o.r.toNat || q = .ct
   | .tkpost _ o => (c.getTok o.q.toNat).en && (c.getTok o.q.toNat).prod = q
   | .tkwait _ o => (c.getTok o.q.toNat).en && (c.getTok o.q.toNat).cons = q
   | .tkcnt _ o => (c.getTok o.q.toNat).en && ((c.getTok o.q.toNat).cons = q || (c.getTok o.q.toNat).prod = q)
   | _ => true) &&
  (match byteTokens f.wait with
   | some (n, _) => (c.getTok n).en && decide ((c.getTok n).cons = q)
   | none => true) &&
  (match byteTokens f.signal with
   | some (n, _) => (c.getTok n).en && decide ((c.getTok n).prod = q)
   | none => true)

/-- CPGO.T belongs to native code (R238). -/
def timedCopyOk (i : Instr) (c : Core) : Bool :=
  match i with
  | .cpgo _ o => !(o.tm && c.portable)
  | _ => true

/-- Check 8 of R137: ISSUE_OVERFLOW on MX (R13); a unit that raised it raises it again (R286, R293). -/
def overflows (i : Instr) (c : Core) (q : SeqId) : Bool :=
  q = .mx && ((c.mx.redo && c.mxOver = some c.mx.pc) || c.mxCount + 1 > 4 || c.mxReads + (mrfUse i).1 > 2 || c.mxWrites + (mrfUse i).2 > 1)

/-- Checks 3 to 8 of R137, in their order; `ok` says that every bit that must be zero is zero. Checks 1, 2 and the P bits
inside the unit are the decoder's. -/
def decodeCheck (i : Instr) (f : Info) (ok : Bool) (c : Core) (q : SeqId) : Option Cause :=
  if f.p then some Cause.orphanPrefix
  else if !formAllows c.portable f then some Cause.illegalOpcode
  else if !pfxAccepted f then some Cause.orphanPrefix
  else if !sequencerOk i f c q then some Cause.wrongSequencer
  else if !(ok && fieldsOk i && timedCopyOk i c) then some Cause.illegalField
  else if overflows i c q then some Cause.issueOverflow
  else none

/-- Whether the tokens a unit waits for are present (R15). -/
def tokensReady (i : Instr) (f : Info) (c : Core) : Bool :=
  match tokenWait i f with
  | none => true
  | some (q, n) => n ≤ (c.getTok q).count

/-- Whether a unit goes to the copy engine (R262). -/
def engineInstr : Instr → Bool
  | .cpgo .. | .cpacc .. | .csend .. | .fsig .. => true
  | _ => false

/-- Whether a unit is an untimed access through a handle, which waits while the handle's walk runs (R241). -/
def waitsMiss (i : Instr) : Bool :=
  match i with
  | .ldg .. | .ldgP .. | .stg .. | .vldg .. | .vstg .. | .pref .. | .ordld .. | .ordst .. | .pgreq .. => true
  | _ => false

/-- The X registers of a unit that may hold a handle locator (R145, R241). -/
def locatorRegs (s : Seq) : Instr → List (BitVec 5)
  | .cpgo _ o => [o.d, o.s]
  | .saq _ o => [o.b]
  | .csend _ o => [o.s]
  | .mxstage _ o => locatorsRead s o.a o.b o.s
  | _ => []

/-- Whether a locator is used by an untimed access, which waits while its handle's walk runs; an array instruction that meets a
running walk traps instead (R50, R224). -/
def locatorWaits : Instr → Bool
  | .mxstage .. => false
  | _ => true

/-- The handles that the locators of a unit name are written and, for an untimed access, have no walk running (R12, R49, R241). -/
def Core.locatorsReady (c : Core) (q : SeqId) (i : Instr) : Bool :=
  (locatorRegs (c.seq q) i).all fun r =>
    let w := ((c.seq q).getX r).toNat
    w / 2 ^ 62 != 2 ||
      (!c.hBusy q (BitVec.ofNat 5 (w / 2 ^ 32)) && !(locatorWaits i && (c.getH (BitVec.ofNat 5 (w / 2 ^ 32))).miss))

/-- The slot operation of a portable form, and its minor. -/
def formKind : Instr → Option SlotKind
  | .vaddP .. => some .vadd | .vsubP .. => some .vsub | .vmulP .. => some .vmul | .vfmaP .. => some .vfma
  | .vminP .. => some .vmin | .vmaxP .. => some .vmax | .vabsP .. => some .vabs | .vnegP .. => some .vneg
  | .vandP .. => some .vand | .vorP .. => some .vor | .vxorP .. => some .vxor | .vnotP .. => some .vnot
  | .vshlP .. => some .vshl | .vshrP .. => some .vshr | .vshaP .. => some .vsha | .vcmpP .. => some .vcmp
  | .vselP .. => some .vsel | .vcvtP .. => some .vcvt | .vclmpP .. => some .vclmp | .vscaleP .. => some .vscale
  | .vqntP .. => some .vqnt | .vexp2P .. => some .vexp2 | .vlog2P .. => some .vlog2 | .vrcpP .. => some .vrcp
  | .vrsqP .. => some .vrsq | .vtanhP .. => some .vtanh | .vsumrP .. => some .vsumr | .vpermP .. => some .vperm
  | _ => none

/-- The row-direction vector a portable form's field names (R143). -/
def formRow (rbase : BitVec 4) (r : BitVec 10) : BitVec 12 := physOp rbase (BitVec.setWidth 12 r)

/-- The vectors of a portable form: D, and those it reads of A and B (R209, R210), by physical operand. -/
def formVectors (i : Instr) (rbase : BitVec 4) : List (BitVec 12) :=
  let rows (o : Port) : List (BitVec 12) :=
    match formKind i with
    | none => [formRow rbase o.d, formRow rbase o.a]
    | some k =>
      let mi := portMinor k o.minor
      let f := (laneFmt o.lt (minorU mi)).getD .i32
      let d := (targetFmt (minorCode mi)).getD f
      [formRow rbase o.d, formRow rbase o.a] ++ (if portUsesB k mi f d then [formRow rbase o.b] else [])
  match i with
  | .vmovdP _ o =>
    [physOp rbase (BitVec.ofNat 12 (o.minor.toNat / 4 * 2 ^ 10 + o.d.toNat)),
     physOp rbase (BitVec.ofNat 12 (o.minor.toNat % 4 * 2 ^ 10 + o.a.toNat))]
  | .viotaP _ o => [formRow rbase o.d]
  | .vbcastP _ o | .vaddP _ o | .vsubP _ o | .vmulP _ o | .vfmaP _ o | .vminP _ o | .vmaxP _ o
  | .vabsP _ o | .vnegP _ o | .vandP _ o | .vorP _ o | .vxorP _ o | .vnotP _ o | .vshlP _ o | .vshrP _ o | .vshaP _ o
  | .vcmpP _ o | .vselP _ o | .vcvtP _ o | .vclmpP _ o | .vscaleP _ o | .vqntP _ o | .vexp2P _ o | .vlog2P _ o
  | .vrcpP _ o | .vrsqP _ o | .vtanhP _ o | .vsumrP _ o | .vpermP _ o => rows o
  | _ => []

/-- The sum of the hops before a position. -/
def hopSum (map : CoreMap) (pos : Nat) : Nat := (List.range pos).foldl (fun acc q => acc + map.hop.getD q 1) 0

/-- Whether a slot works (R314). -/
def slotWorks (map : CoreMap) (pos : Nat) : Bool := !map.dead.contains pos

/-- The positions of a class of slots, lowest first (R188). -/
def slotsOf (k : SlotClass) : List Nat := (List.range 15).filter fun p => p ≥ 1 && decide (slotClassAt p = k)

/-- The slot a portable form takes when it issues now (R212): the lowest working slot of its class whose initiation
interval has passed in the cycle its operands reach it. -/
def formSlot (c : Core) (k : SlotKind) : Option Nat :=
  let e := if tapsC k then 1 else 0
  (slotsOf k.cls).find? fun p =>
    slotWorks c.map p &&
      (let at_ := c.cycle + 1 + e + hopSum c.map p
       match c.slotLast.find? (·.1 = p) with
       | none => true
       | some (_, last) => last + c.map.ii.getD (p - 1) 1 ≤ at_)

/-- What a portable form waits for beyond its registers (R211): four cycles since the last form, no pending write to a
cell it reads or writes, and a slot. -/
def formReady (i : Instr) (c : Core) : Bool :=
  match formVectors i c.rbase with
  | [] => true
  | vs =>
    let keys := vs.flatMap fun m => (List.range 32).map (mrfKey m)
    (c.slotLast.all fun q => q.1 != 0 || q.2 + 4 ≤ c.cycle) &&
    (c.mwr.all fun w => w.side || (List.range 32).all fun e => !keys.contains (mrfKey w.m e)) &&
    (match formKind i with
     | none => true
     | some k => (formSlot c k).isSome)

/-- Whether a unit that passed its decode checks can issue once its tokens are present (R12, R55, R211, R241, R262); MX in
native code has no interlock (R13). -/
def restReady (i : Instr) (f : Info) (c : Core) (q : SeqId) : Bool :=
  q = .mx && !c.portable ||
    (!c.stalled q (unitRegs (c.seq q) i f.pfx) && (q != .mx || formReady i c) &&
      (!waitsMiss i || i.regs.hs.all fun h => !(c.getH h).miss) &&
      c.locatorsReady q i && (!engineInstr i || c.cmds.length < 16))

/-- Whether a unit that passed its decode checks can issue now. -/
def canIssue (i : Instr) (f : Info) (c : Core) (q : SeqId) : Bool := tokensReady i f c && restReady i f c q

/-- The bit of a PRED prefix for element `e` as it stands at issue (R131); without a prefix, 1. -/
def predMask (s : Seq) (pfx : Pfx) : PWord :=
  match pfx.pred with
  | none => BitVec.allOnes 32
  | some p => if p.inv then ~~~(s.getP p.preg) else s.getP p.preg

/-- The instructions whose PRED acts element by element: the slot and portable forms (R131, R190, R209). -/
def perLane (f : Info) : Bool := f.long && 0x84 ≤ f.major

/-- The latency at which a suppressed unit makes its SIGNAL post (R131, R157). -/
def suppressedLatency : Instr → Nat
  | .mad .. => 3
  | _ => 1

/-- Whether an instruction that accepts PRED is timed (R157, R238). -/
def timedInstr (f : Info) : Bool := !(f.long && 0x20 ≤ f.major && f.major ≤ 0x2A)

/-! When a sequencer may issue. -/

/-- Whether a sequencer may issue in this pulse apart from its delta: the core runs, no operation holds it, and under a trap
only CT goes on, ended or not, once issued portable forms are done (R23, R173, R239, R284). -/
def Core.mayIssue (c : Core) (q : SeqId) : Bool :=
  c.status = .running && (!(c.seq q).ended || c.handling q) && (c.seq q).hold.isNone && (!c.trapped || (q = .ct && !c.drainForms)) &&
    (q != .mx || (c.ilk = 0 && !c.resuming))

/-- Whether a unit's delta has passed (R12, R13, R135, R285). -/
def Core.deltaDone (c : Core) (q : SeqId) (delta : Nat) : Bool :=
  (c.seq q).redo || decide ((c.seq q).last + max delta (c.seq q).minGap ≤ c.now q)

/-- Whether MX stands at a token wait in the present cycle, which freezes the timed domain (R22, R55). -/
def State.mxStands (s : State) : Bool :=
  s.core.mayIssue .mx && match decode (s.codeAt .mx s.core.mx.pc.toNat) with
    | .unit i _ ok => i.info.any fun f =>
        s.core.deltaDone .mx (issueDelta i f) && (decodeCheck i f ok s.core .mx).isNone && !tokensReady i f s.core
    | .bad _ => false

/-- The first schedule cycle from which timed work issued now counts (R23). -/
def State.baseCycle (s : State) : Nat := if s.mxStands || s.core.ilk != 0 then s.core.cycle + 1 else s.core.cycle

/-- The comparator of the sequencer in turn that matches its unit (R294). -/
def Seq.breakAt (s : Seq) : Option Nat :=
  if s.brkPass = some s.pc then none
  else (List.range 8).find? fun n =>
    match AMap.get ⟨false, 0⟩ s.brk n with
    | ⟨en, a⟩ => en && a = s.pc

/-- Under UDCHK, a unit of native MX that reads a register whose producer's latency has not elapsed (R26, R157). -/
def earlyReg (g : Regs) (c : Core) (q : SeqId) : Bool :=
  q = .mx && !c.portable && c.udchk && (g.xs.any (c.xBusy q) || g.ps.any (c.pBusy q))

/-- Whether PRED suppresses a unit as a whole (R131). -/
def suppressed (s : Seq) (f : Info) : Bool := !perLane f && !(predMask s f.pfx).getLsbD 0

/-- The registers whose early read traps: a suppressed unit raises no trap from its operands (R131). -/
def checkedRegs (s : Seq) (i : Instr) (f : Info) : Regs := if suppressed s f then predRegs f.pfx else unitRegs s i f.pfx

/-- Takes the tokens of a unit's wait (R15); what their posts come after is then core-ordered before the unit (R98). -/
def Core.takeTokens (c : Core) (w : Option (Nat × Nat)) : Core :=
  match w with
  | none => c
  | some (q, n) =>
    let t := c.getTok q
    { c.setTok q { t with count := t.count - n, taken := t.taken + n } with
      ord := AMap.set [] c.ord (seqCode t.cons) (joinOrder (c.getOrd t.cons) t.ord) }

/-- The bookkeeping of a unit's issue: the PC past it, when the next unit may issue, and R13's counts. The effect may move
the PC and the distance again (R167). -/
def issued (i : Instr) (f : Info) (s : State) : State :=
  let u := ctxOf s f
  let mx := s.who = .mx
  (s.updSeq fun q =>
    { q with
      pc := u.next, last := s.core.now s.who, minGap := if mx && !branchClass i then 0 else 1, redo := false,
      waiting := false, wd := 0, brkPass := none }).updCore fun c =>
    let c := c.takeTokens (tokenWait i f)
    if mx then
      { c with
        mxCount := c.mxCount + 1, mxReads := c.mxReads + (mrfUse i).1, mxWrites := c.mxWrites + (mrfUse i).2,
        mxWait := false }
    else c

/-- A unit that stands: where only its tokens are missing it waits, from then on until they are there, and its watchdog counts
this pulse unless a trap is being handled (R19); a token wait of MX freezes the timed domain (R22, R55). A unit that lacks registers as
well begins its wait when it has them.
Log entry 79 (DESIGN CHOICE). -/
def standing (i : Instr) (f : Info) (s : State) : State :=
  let waits := !tokensReady i f s.core && (restReady i f s.core s.who || s.seq.waiting)
  let s := s.updSeq fun q =>
    if waits then
      { q with waiting := true, wd := if s.core.level = 0 then (if q.waiting then q.wd + 1 else 0) else q.wd }
    else { q with waiting := false, wd := 0 }
  if s.who = .mx && waits then s.updCore fun c => { c with mxWait := true } else s

/-- The turn after a unit issued: CT, LD and ST issue one unit a cycle, MX goes on (R12, R13). -/
def afterIssue (s : State) (q : SeqId) : State := if q = .mx then s else s.pass

/-- Issues a unit (R137, R15, R131): the decode checks; the wait for tokens and registers; a comparator (R294); PRED; then
the operand checks and the effect `body`, which sees the unit's bookkeeping done. A unit that traps has no effect. -/
def issueWith (ok : Bool) (i : Instr) (s : State) (body : Ctx → State → Eff) : Host.Outcome State Fault Refusal :=
  match i.info with
  | none => .next s
  | some f =>
    let q := s.who
    match decodeCheck i f ok s.core q with
    | some cause => .next (s.trapAtIssue cause 0).pass
    | none =>
      if !canIssue i f s.core q then .next (standing i f s).pass
      else match s.seq.breakAt with
      | some n => .next (s.trapAtIssue Cause.breakpoint (BitVec.ofNat 64 (0x10000 + n))).pass
      | none =>
        if earlyReg (checkedRegs s.seq i f) s.core q then .next (s.trapAtIssue Cause.undersizedDelay 0).pass
        else
          let u := ctxOf s f
          let s' := issued i f s
          if suppressed s.seq f then
            let done := if timedInstr f then s'.updCore fun c => c.complete q u.pc (suppressedLatency i) [] u.sig
              else s'.updCore fun c => c.post c.nextId q u.pc u.sig
            .next (afterIssue done q)
          else match body u s' with
          | .error t => .next (s.trapAtIssue t.cause t.eaddr).pass
          | .ok t => .next (afterIssue t q)

/-- Issues a unit whose must-be-zero bits are zero. -/
def issue (i : Instr) (s : State) (body : Ctx → State → Eff) : Host.Outcome State Fault Refusal := issueWith true i s body

/-- Moves the PC of the sequencer that issues, as by a jump: a taken branch-class unit on CT, LD or ST costs one cycle
more (R167). -/
def State.jumpTo (s : State) (u : Ctx) (target : Word) : State :=
  s.updCore fun c => c.updSeq u.q fun q => { q with pc := target, minGap := if u.q = .mx then 1 else 2 }

end Sys2Proof.Machine
end

