-- ==== Sys2Proof/Machine/Flags.lean ====
section
/-!
DEFINITION. Conditions and the predicates they make (R147, R160, R164).
-/

namespace Sys2Proof.Machine

open Sys2Proof

/-- A condition code on two values of one width (R147, R164): eq, ne, lt, ge, ltu, geu. -/
def condOf {w : Nat} (c : BitVec 4) (a b : BitVec w) : Bool :=
  match c.toNat with
  | 0 => a == b
  | 1 => a != b
  | 2 => a.slt b
  | 3 => !a.slt b
  | 4 => a.ult b
  | _ => !a.ult b

/-- A condition on 64 bits, or under .w on bits [31:0] (R164). -/
def condW (w : Bool) (c : BitVec 4) (a b : Word) : Bool :=
  if w then condOf c (a.setWidth 32) (b.setWidth 32) else condOf c a b

/-- A scalar condition as a predicate: all ones or all zeros (R160). -/
def predOf (b : Bool) : PWord := if b then BitVec.allOnes 32 else 0

end Sys2Proof.Machine
end

