-- ==== Sys2Proof/Machine/Operands.lean ====
section
/-!
DEFINITION. Operand forms: the .w forms of scalar arithmetic (R161), register sources and their poison (R41, R42), locators
(R47, R145) and the checks of an access (R44, R51, R95, R241).
-/

namespace Sys2Proof.Machine

open Sys2Proof

/-- A two-operand result of 64 bits, or under .w of bits [31:0] sign-extended (R161). -/
def wForm (w : Bool) (f : (n : Nat) → BitVec n → BitVec n → BitVec n) (a b : Word) : Word :=
  if w then (f 32 (a.setWidth 32) (b.setWidth 32)).signExtend 64 else f 64 a b

/-- The sequencer that issues, as its registers stand (R25). -/
def State.regs (s : State) (u : Ctx) : Seq := s.core.seq u.q

def State.x (s : State) (u : Ctx) (r : BitVec 5) : Word := (s.regs u).getX r
def State.xPoison (s : State) (u : Ctx) (r : BitVec 5) : Bool := (s.regs u).getXP r

/-- Whether any register of a list is poisoned. -/
def State.anyPoison (s : State) (u : Ctx) (rs : List (BitVec 5)) : Bool := rs.any (s.xPoison u)

/-- A result in an X register after `lat` cycles, with the unit's post (R157). -/
def State.setXAfter (s : State) (u : Ctx) (lat : Nat) (d : BitVec 5) (v : Word) (poison : Bool) : State :=
  s.updCore fun c => c.complete u.q u.pc lat [.x u.q d v poison] u.sig

/-- A result in a P register after one cycle, with the unit's post (R157). -/
def State.setPAfter (s : State) (u : Ctx) (d : BitVec 3) (v : PWord) : State :=
  s.updCore fun c => c.complete u.q u.pc 1 [.p u.q d v] u.sig

/-- A unit that only completes (R157). -/
def State.completeAfter (s : State) (u : Ctx) (lat : Nat) (ws : List RegWrite) : State :=
  s.updCore fun c => c.complete u.q u.pc lat ws u.sig

/-! Locators (R47, R145). -/

def locKind (w : Word) : Nat := w.toNat / 2 ^ 62
/-- The address of a local or cluster locator (R44, R47). -/
def locAddr (w : Word) : Nat := w.toNat % 2 ^ 22
def locOffset (w : Word) : Nat := w.toNat % 2 ^ 32
def locHandle (w : Word) : BitVec 5 := BitVec.ofNat 5 (w.toNat / 2 ^ 32)
def locRank (w : Word) : Nat := w.toNat / 2 ^ 51 % 8
def locMcast (w : Word) : BitVec 8 := BitVec.ofNat 8 (w.toNat / 2 ^ 54)

/-- The fields of a locator that must be zero are zero, and its kind is not 11 (R47, R145). -/
def locFieldsOk (w : Word) : Bool :=
  match locKind w with
  | 0 => w.toNat / 2 ^ 22 % 2 ^ 40 == 0
  | 1 => w.toNat / 2 ^ 22 % 2 ^ 29 == 0
  | 2 => w.toNat / 2 ^ 37 % 2 ^ 25 == 0
  | _ => false

/-- The cluster rules of R47: one cluster, and RANK and every rank of MCAST lie in the gang. -/
def clusterOk (c : Core) (w : Word) : Bool :=
  match c.task with
  | none => false
  | some t =>
    t.oneCluster && decide (locRank w < t.width) &&
      (List.range 8).all fun r => !(locMcast w).getLsbD r || decide (r < t.width)

/-- Scratchpad bytes of a core (R44). -/
def spadSize : Nat := 0x300000

/-- The bank of a local address (R44). -/
def bankOf (a : Nat) : Nat := a / 2 ^ 17 % 32

/-- The place of offset `off` of a handle's page: HBM, another package, or a page that is not resident (R51, R121). -/
def handlePlace (h : Hnd) (off : Nat) : Loc :=
  if h.remote then .remote h.home (h.vaddr + off)
  else if h.resident then .hbm (h.paddr + off) else .absent

/-- A locator with its offset replaced, as EADDR reports it (R241). -/
def locWithOffset (h : BitVec 5) (off : Nat) : Word := BitVec.ofNat 64 (2 * 2 ^ 62 + h.toNat * 2 ^ 32 + off % 2 ^ 32)

/-- What an access through a handle asks of checks 4 to 7 of R241. -/
structure HandleUse where
  path : Nat
  write : Bool
  /-- A REMOTE handle is refused (R266). -/
  localOnly : Bool
  /-- A local page that is not resident raises TRANSLATION_FAULT at issue. -/
  resident : Bool
  align : Nat
  deriving DecidableEq, Repr

/-- Checks 4 to 7 of R241 for `n` bytes at offset `off` (an integer, since a displacement may run below the page). -/
def checkHandle (c : Core) (r : BitVec 5) (off : Int) (n : Nat) (k : HandleUse) : Except TrapRec Unit :=
  let h := c.getH r
  let loc := locWithOffset r off.toNat
  let bit := 5 + 2 * k.path + (if k.write then 1 else 0)
  if !h.valid then .error ⟨Cause.handleInvalid, loc⟩
  else if !h.perm bit || h.sync || (k.localOnly && h.remote) then .error ⟨Cause.permission, loc⟩
  else if off % (k.align : Int) ≠ 0 then .error ⟨Cause.alignment, loc⟩
  else if off < 0 ∨ off + n > h.size then .error ⟨Cause.translationFault, loc⟩
  else if k.resident && !h.remote && !h.resident then .error ⟨Cause.translationFault, loc⟩
  else .ok ()

/-- Checks 6 and 7 of R241 for `n` bytes of the local scratchpad at an address (R44): a sum of base and displacement does not
wrap, and EADDR holds it as 64 bits.
Log entry 62 (DEDUCED). -/
def checkLocal (a : Int) (n align : Nat) : Except TrapRec Unit :=
  if a % (align : Int) ≠ 0 then .error ⟨Cause.alignment, BitVec.ofInt 64 a⟩
  else if a < 0 ∨ a + n > spadSize then .error ⟨Cause.translationFault, BitVec.ofInt 64 a⟩
  else .ok ()

/-- Fails with a cause on the first of a list that a property does not hold of. -/
def needAll {α : Type} (l : List α) (ok : α → Bool) (cause : Cause) (ea : α → Word) : Except TrapRec Unit :=
  match l.find? fun x => !ok x with
  | some x => .error ⟨cause, ea x⟩
  | none => .ok ()

/-- A locator with its address or offset replaced, as EADDR reports a failing access of it (R241). -/
def locAt (w : Word) (a : Int) : Word :=
  if locKind w = 2 then locWithOffset (locHandle w) (a % (2 ^ 32 : Nat)).toNat else w + BitVec.ofInt 64 (a - locAddr w)

/-- A locator register that must be of kind 00 (checks 1 and 2 of R241): its address. -/
def localOperand (s : State) (u : Ctx) (r : BitVec 5) : Except TrapRec Nat :=
  let w := s.x u r
  if s.xPoison u r then .error ⟨Cause.undersizedDelay, w⟩
  else if locKind w ≠ 0 ∨ !locFieldsOk w then .error ⟨Cause.illegalField, w⟩
  else .ok (locAddr w)

/-- The starts that a list of levels gives from a base, CL0 innermost (R258). -/
def burstStarts : List Level → Nat → (Level → Int) → List Int
  | [], base, _ => [base]
  | l :: ls, base, f =>
    (burstStarts ls base f).flatMap fun (a : Int) => (List.range l.count.toNat).map fun (i : Nat) => a + Int.ofNat i * f l

/-- The starts of the source and destination of every burst, in emission order: CL0 innermost (R258). -/
def bursts (ls : List Level) (src dst : Nat) : List (Int × Int) :=
  (burstStarts ls src (fun l => l.ss.toInt)).zip (burstStarts ls dst (fun l => l.ds.toInt))

end Sys2Proof.Machine
end

