-- ==== Sys2Proof/Machine/Scalar.lean ====
section
/-!
DEFINITION. Scalar arithmetic, immediates, compares and predicates (R157 to R165, R85).
-/

namespace Sys2Proof.Machine

open Sys2Proof

/-- What `exec` answers. -/
abbrev Out := Host.Outcome State Fault Refusal

/-! The results of R161 on w-bit values. -/

/-- A shift amount: the low bits of the second source (R161). -/
def shAmount {n : Nat} (b : BitVec n) : Nat := b.toNat % n

/-- The place of the highest one bit from bit `k - 1` down, as a count of zeros above it. -/
def clzFrom {n : Nat} (a : BitVec n) : Nat → Nat
  | 0 => n
  | k + 1 => if a.getLsbD k then n - 1 - k else clzFrom a k

/-- The number of one bits below bit `k`. -/
def popFrom {n : Nat} (a : BitVec n) : Nat → Nat
  | 0 => 0
  | k + 1 => (a.getLsbD k).toNat + popFrom a k

/-- A two-source result with its poison, after `lat` cycles (R157, R159, R161). -/
def arith2 (lat : Nat) (o : RRR) (f : (n : Nat) → BitVec n → BitVec n → BitVec n) (u : Ctx) (s : State) : Eff :=
  .ok (s.setXAfter u lat o.d (wForm o.w f (s.x u o.a) (s.x u o.b)) (s.anyPoison u [o.a, o.b]))

/-- A one-source result (R161). -/
def arith1 (o : RR) (f : (n : Nat) → BitVec n → BitVec n) (u : Ctx) (s : State) : Eff :=
  .ok (s.setXAfter u 1 o.d (wForm o.w (fun n a _ => f n a) (s.x u o.a) 0) (s.xPoison u o.a))

/-- A result from a source and the immediate (R162). -/
def arithI (o : RI) (h : Short) (f : Word → Word → Word) (u : Ctx) (s : State) : Eff :=
  .ok (s.setXAfter u 1 o.d (f (s.x u o.a) (immOf h.pfx.imm o.i)) (s.xPoison u o.a))

/-- The cause of a divide that traps (R85, R159): none where a source is poisoned. -/
def divTrap (signed : Bool) (w : Nat) (tmask : Word) (a b : Nat) : Option Cause :=
  if b % 2 ^ w = 0 then (if tmask.getLsbD 0 then some Cause.divZero else none)
  else if signed && a % 2 ^ w = 2 ^ (w - 1) && b % 2 ^ w = 2 ^ w - 1 && tmask.getLsbD 1 then some Cause.intOverflow
  else none

/-- A divide or remainder (R85): 20 cycles, 12 with .w (R157). -/
def divide (signed : Bool) (o : RRR) (f : Nat → Nat → Nat → Nat) (u : Ctx) (s : State) : Eff :=
  let w := if o.w then 32 else 64
  let a := s.x u o.a
  let b := s.x u o.b
  let poison := s.anyPoison u [o.a, o.b]
  let go : Eff := .ok (s.setXAfter u (if o.w then 12 else 20) o.d
    (wForm o.w (fun n x y => BitVec.ofNat n (f n x.toNat y.toNat)) a b) poison)
  if poison then go
  else match divTrap signed w (s.regs u).tmask a.toNat b.toNat with
    | some c => trapWith c
    | none => go

/-- A compare (R160, R164); a poisoned source traps (R159). -/
def compare (e : BitVec 3) (c : BitVec 4) (w : Bool) (poison : Bool) (a b : Word) (u : Ctx) (s : State) : Eff :=
  if poison then trapWith Cause.undersizedDelay else .ok (s.setPAfter u e (predOf (condW w c a b)))

/-- A predicate operation (R165). -/
def predOp (e : BitVec 3) (v : PWord) (u : Ctx) (s : State) : Eff := .ok (s.setPAfter u e v)

/-- A predicate register of the sequencer that issues. -/
def State.p (s : State) (u : Ctx) (r : BitVec 3) : PWord := (s.regs u).getP r

/-- Sum modulo 2^w (R161). -/
def execAdd (h : Short) (o : RRR) (s : State) : Out :=
  issue (.add h o) s (arith2 1 o (fun _ a b => a + b))

/-- Difference modulo 2^w (R161). -/
def execSub (h : Short) (o : RRR) (s : State) : Out :=
  issue (.sub h o) s (arith2 1 o (fun _ a b => a - b))

/-- Bitwise AND (R161). -/
def execAnd (h : Short) (o : RRR) (s : State) : Out :=
  issue (.and h o) s (arith2 1 o (fun _ a b => a &&& b))

/-- Bitwise OR (R161). -/
def execOr (h : Short) (o : RRR) (s : State) : Out :=
  issue (.or h o) s (arith2 1 o (fun _ a b => a ||| b))

/-- Bitwise XOR (R161). -/
def execXor (h : Short) (o : RRR) (s : State) : Out :=
  issue (.xor h o) s (arith2 1 o (fun _ a b => a ^^^ b))

/-- AND with the complement (R161). -/
def execAndn (h : Short) (o : RRR) (s : State) : Out :=
  issue (.andn h o) s (arith2 1 o (fun _ a b => a &&& ~~~b))

/-- Left shift (R161). -/
def execShl (h : Short) (o : RRR) (s : State) : Out :=
  issue (.shl h o) s (arith2 1 o (fun _ a b => a <<< shAmount b))

/-- Logical right shift (R161). -/
def execShr (h : Short) (o : RRR) (s : State) : Out :=
  issue (.shr h o) s (arith2 1 o (fun _ a b => a >>> shAmount b))

/-- Arithmetic right shift (R161). -/
def execSha (h : Short) (o : RRR) (s : State) : Out :=
  issue (.sha h o) s (arith2 1 o (fun _ a b => a.sshiftRight (shAmount b)))

/-- Left rotation (R161). -/
def execRot (h : Short) (o : RRR) (s : State) : Out :=
  issue (.rot h o) s (arith2 1 o (fun _ a b => a.rotateLeft (shAmount b)))

/-- Smaller, signed (R161). -/
def execMin (h : Short) (o : RRR) (s : State) : Out :=
  issue (.min h o) s (arith2 1 o (fun _ a b => if b.slt a then b else a))

/-- Larger, signed (R161). -/
def execMax (h : Short) (o : RRR) (s : State) : Out :=
  issue (.max h o) s (arith2 1 o (fun _ a b => if a.slt b then b else a))

/-- Smaller, unsigned (R161). -/
def execMinu (h : Short) (o : RRR) (s : State) : Out :=
  issue (.minu h o) s (arith2 1 o (fun _ a b => if b.ult a then b else a))

/-- Larger, unsigned (R161). -/
def execMaxu (h : Short) (o : RRR) (s : State) : Out :=
  issue (.maxu h o) s (arith2 1 o (fun _ a b => if a.ult b then b else a))

/-- Low half of the product (R161). -/
def execMul (h : Short) (o : RRR) (s : State) : Out :=
  issue (.mul h o) s (arith2 3 o (fun _ a b => a * b))

/-- High half of the signed product (R161). -/
def execMulh (h : Short) (o : RRR) (s : State) : Out :=
  issue (.mulh h o) s (arith2 3 o (fun n a b => BitVec.ofInt n (a.toInt * b.toInt / 2 ^ n)))

/-- Signed quotient (R85). -/
def execDiv (h : Short) (o : RRR) (s : State) : Out :=
  issue (.div h o) s (divide true o divS)

/-- Unsigned quotient (R85). -/
def execDivu (h : Short) (o : RRR) (s : State) : Out :=
  issue (.divu h o) s (divide false o divU)

/-- Signed remainder (R85). -/
def execRem (h : Short) (o : RRR) (s : State) : Out :=
  issue (.rem h o) s (divide true o remS)

/-- Unsigned remainder (R85). -/
def execRemu (h : Short) (o : RRR) (s : State) : Out :=
  issue (.remu h o) s (divide false o remU)

/-- Leading zeros (R161). -/
def execClz (h : Short) (o : RR) (s : State) : Out :=
  issue (.clz h o) s (arith1 o fun n a => BitVec.ofNat n (clzFrom a n))

/-- One bits (R161). -/
def execPopc (h : Short) (o : RR) (s : State) : Out :=
  issue (.popc h o) s (arith1 o fun n a => BitVec.ofNat n (popFrom a n))

/-- The first source where bit 0 of the predicate is set, else the second; poisoned if either source is (R161, R159). -/
def execSel (h : Short) (o : Sel) (s : State) : Out :=
  issue (.sel h o) s fun u s =>
    .ok (s.setXAfter u 1 o.d (wForm o.w (fun _ a b => if (s.p u o.t).getLsbD 0 then a else b) (s.x u o.a) (s.x u o.b))
      (s.anyPoison u [o.a, o.b]))

/-- A copy with its poison (R161). -/
def execMov (h : Short) (o : Mov) (s : State) : Out :=
  issue (.mov h o) s fun u s => .ok (s.setXAfter u 1 o.d (s.x u o.a) (s.xPoison u o.a))

/-- Sum with the immediate (R162). -/
def execAddi (h : Short) (o : RI) (s : State) : Out :=
  issue (.addi h o) s (arithI o h (fun a i => a + i))

/-- AND with the immediate (R162). -/
def execAndi (h : Short) (o : RI) (s : State) : Out :=
  issue (.andi h o) s (arithI o h (fun a i => a &&& i))

/-- OR with the immediate (R162). -/
def execOri (h : Short) (o : RI) (s : State) : Out :=
  issue (.ori h o) s (arithI o h (fun a i => a ||| i))

/-- XOR with the immediate (R162). -/
def execXori (h : Short) (o : RI) (s : State) : Out :=
  issue (.xori h o) s (arithI o h (fun a i => a ^^^ i))

/-- Left shift by the immediate (R162). -/
def execShli (h : Short) (o : RI) (s : State) : Out :=
  issue (.shli h o) s (arithI o h (fun a i => a <<< i.toNat))

/-- Logical right shift by the immediate (R162). -/
def execShri (h : Short) (o : RI) (s : State) : Out :=
  issue (.shri h o) s (arithI o h (fun a i => a >>> i.toNat))

/-- Arithmetic right shift by the immediate (R162). -/
def execShai (h : Short) (o : RI) (s : State) : Out :=
  issue (.shai h o) s (arithI o h (fun a i => a.sshiftRight i.toNat))

/-- The immediate, without poison (R162, R159). -/
def execLi (h : Short) (o : Li) (s : State) : Out :=
  issue (.li h o) s fun u s => .ok (s.setXAfter u 1 o.d (immOf h.pfx.imm o.i) false)

/-- Compares two registers (R164). -/
def execCmp (h : Short) (o : Cmp) (s : State) : Out :=
  issue (.cmp h o) s fun u s => compare o.e o.c o.w (s.anyPoison u [o.a, o.b]) (s.x u o.a) (s.x u o.b) u s

/-- Compares with an immediate (R164). -/
def execCmpi (h : Short) (o : Cmpi) (s : State) : Out :=
  issue (.cmpi h o) s fun u s => compare o.e o.c false (s.xPoison u o.a) (s.x u o.a) (immOf h.pfx.imm o.i) u s

/-- AND of two predicates (R165). -/
def execPand (h : Short) (o : PPP) (s : State) : Out :=
  issue (.pand h o) s fun u s => predOp o.e (s.p u o.f &&& s.p u o.g) u s

/-- OR of two predicates (R165). -/
def execPor (h : Short) (o : PPP) (s : State) : Out :=
  issue (.por h o) s fun u s => predOp o.e (s.p u o.f ||| s.p u o.g) u s

/-- XOR of two predicates (R165). -/
def execPxor (h : Short) (o : PPP) (s : State) : Out :=
  issue (.pxor h o) s fun u s => predOp o.e (s.p u o.f ^^^ s.p u o.g) u s

/-- Complement of a predicate (R165). -/
def execPnot (h : Short) (o : PP) (s : State) : Out :=
  issue (.pnot h o) s fun u s => predOp o.e (~~~(s.p u o.f)) u s

/-- A copy of a predicate (R165). -/
def execPmov (h : Short) (o : PP) (s : State) : Out :=
  issue (.pmov h o) s fun u s => predOp o.e (s.p u o.f) u s

/-- Sum with a 26-bit immediate (R163). -/
def execAddiL (h : Long) (o : AddiL) (s : State) : Out :=
  issue (.addiL h o) s fun u s =>
    .ok (s.setXAfter u 1 o.d (wForm o.w (fun _ a b => a + b) (s.x u o.a) (o.i.signExtend 64)) (s.xPoison u o.a))

/-- Sets the high half of a register and keeps its poison (R163, R159). -/
def execLih (h : Long) (o : Lih) (s : State) : Out :=
  issue (.lih h o) s fun u s =>
    .ok (s.setXAfter u 1 o.d (o.i ++ (s.x u o.d).setWidth 32) (s.xPoison u o.d))

/-- Product plus a third source (R163). -/
def execMad (h : Long) (o : Mad) (s : State) : Out :=
  issue (.mad h o) s fun u s =>
    let c := s.x u o.c
    .ok (s.setXAfter u 3 o.d (wForm o.w (fun n a b => a * b + c.setWidth n) (s.x u o.a) (s.x u o.b))
      (s.anyPoison u [o.a, o.b, o.c]))

/-- Compares with a 24-bit immediate (R164). -/
def execCmpL (h : Long) (o : CmpL) (s : State) : Out :=
  issue (.cmpL h o) s fun u s =>
    compare o.e o.c o.w (s.xPoison u o.a) (s.x u o.a) (o.i.signExtend 64) u s

end Sys2Proof.Machine
end

