-- ==== Sys2Proof/Machine/Control.lean ====
section
/-!
DEFINITION. Branches, loops, tokens, task control, traps, containment regions, the rotating base and the tests of poison and
residency (R166 to R177, R180 to R186).
-/

namespace Sys2Proof.Machine

open Sys2Proof

/-! Branches (R166, R167, R170). -/

/-- The target of a parcel offset from the unit (R147, R166). -/
def offTarget (u : Ctx) {w : Nat} (off : BitVec w) : Word := u.pc + off.signExtend 64 * 4

def LoopEntry.holds (e : LoopEntry) (a : Word) : Bool := !(a.ult e.start) && !(e.last.ult a)

/-- The loop stack after a transfer of control from one address to another (R170). -/
def leaveLoops (pc target : Word) : List LoopEntry → List LoopEntry
  | [] => []
  | e :: es => if e.holds pc && !e.holds target then leaveLoops pc target es else e :: es

/-- A taken branch that adjusts the loop stack. -/
def State.branchTo (s : State) (u : Ctx) (target : Word) : State :=
  (s.jumpTo u target).updCore fun c => c.updSeq u.q fun q => { q with loops := leaveLoops u.pc target q.loops }

/-- BR (R166). -/
def execBr (h : Short) (o : Off23) (s : State) : Out := issue (.br h o) s fun u s => .ok (s.branchTo u (offTarget u o.o))

/-- BP (R166). -/
def execBp (h : Short) (o : BrP) (s : State) : Out :=
  issue (.bp h o) s fun u s => .ok (if (s.p u o.f).getLsbD 0 then s.branchTo u (offTarget u o.o) else s)

/-- BNP (R166). -/
def execBnp (h : Short) (o : BrP) (s : State) : Out :=
  issue (.bnp h o) s fun u s => .ok (if (s.p u o.f).getLsbD 0 then s else s.branchTo u (offTarget u o.o))

/-- CALL: the link in X31, without poison, after one cycle (R157, R166). -/
def execCall (h : Short) (o : Off23) (s : State) : Out :=
  issue (.call h o) s fun u s => .ok ((s.setXAfter u 1 31 (u.pc + 4) false).jumpTo u (offTarget u o.o))

/-- The checks of a target held in a register (R159, R166). -/
def jumpTarget (a : BitVec 5) (u : Ctx) (s : State) : Except TrapRec Word :=
  let t := s.x u a
  if s.xPoison u a then .error ⟨Cause.undersizedDelay, 0⟩
  else if t.toNat % 4 ≠ 0 then .error ⟨Cause.alignment, t⟩
  else .ok t

/-- RET (R166); it leaves the loop stack alone (R170). -/
def execRet (h : Short) (o : JmpX) (s : State) : Out :=
  issue (.ret h o) s fun u s => (jumpTarget o.a u s).map fun t => s.jumpTo u t

/-- JMPX (R166). -/
def execJmpx (h : Short) (o : JmpX) (s : State) : Out :=
  issue (.jmpx h o) s fun u s => (jumpTarget o.a u s).map fun t => s.branchTo u t

/-! Loops (R168, R169). -/

/-- LOOP of R169, for a count and an offset to the ENDL. -/
def loopEnter (n : Word) (off : Int) (u : Ctx) (s : State) : Eff :=
  let last := u.pc + BitVec.ofInt 64 (4 * off)
  if off ≤ 0 then trapWith Cause.illegalField
  else if n = 0 then .ok (s.jumpTo u (last + 4))
  else if (s.regs u).loops.length ≥ 4 then trapWith Cause.illegalField
  else .ok (s.updCore fun c => c.updSeq u.q fun q => { q with loops := ⟨u.next, last, n⟩ :: q.loops })

/-- LOOP (R169). A poisoned count traps before an offset of 0 or less does.
Log entry 64 (DESIGN CHOICE). -/
def execLoop (h : Short) (o : LoopX) (s : State) : Out :=
  issue (.loop h o) s fun u s =>
    if s.xPoison u o.a then trapWith Cause.undersizedDelay else loopEnter (s.x u o.a) o.o.toInt u s

/-- LOOP.L (R169). -/
def execLoopL (h : Long) (o : LoopL) (s : State) : Out :=
  issue (.loopL h o) s fun u s => (loopEnter (o.n.setWidth 64) o.o.toInt u s).map fun s => s.completeAfter u 1 []

/-- ENDL (R169). -/
def execEndl (h : Short) (s : State) : Out :=
  issue (.endl h) s fun u s =>
    match (s.regs u).loops with
    | [] => trapWith Cause.illegalField
    | e :: es =>
      if e.last ≠ u.pc then trapWith Cause.illegalField
      else if e.remain = 1 then .ok (s.updCore fun c => c.updSeq u.q fun q => { q with loops := es })
      else .ok ((s.jumpTo u e.start).updCore fun c =>
        c.updSeq u.q fun q => { q with loops := { e with remain := e.remain - 1 } :: es })

/-! Tokens (R171) and NOPs (R172). -/

/-- TKPOST: posts in its issue cycle. -/
def execTkpost (h : Short) (o : Tk) (s : State) : Out :=
  issue (.tkpost h o) s fun u s =>
    .ok (s.updCore fun c => { c with posts := c.posts ++ [⟨c.nextId, u.q, u.pc, o.q.toNat, o.n.toNat + 1⟩] })

/-- TKWAIT: the wait itself is part of issuing (R15). -/
def execTkwait (h : Short) (o : Tk) (s : State) : Out := issue (.tkwait h o) s fun _ s => .ok s

/-- TKCNT: the count before any post or wait of this cycle. -/
def execTkcnt (h : Short) (o : TkCnt) (s : State) : Out :=
  issue (.tkcnt h o) s fun u s =>
    let t := s.core.getTok o.q.toNat
    .ok (s.setXAfter u 1 o.d (BitVec.ofNat 64 (t.count + t.taken)) false)

/-- NOP. -/
def execNop (h : Short) (s : State) : Out := issue (.nop h) s fun _ s => .ok s

/-- NOP.L: completes one cycle after issue. -/
def execNopL (h : Long) (s : State) : Out := issue (.nopL h) s fun u s => .ok (s.completeAfter u 1 [])

/-! Task control (R173 to R177). -/

/-- TASKEND. -/
def execTaskend (h : Short) (s : State) : Out :=
  issue (.taskend h) s fun u s =>
    if u.q = .ct ∧ (s.core.tl ≠ 0 ∨ s.core.regions ≠ []) then trapWith Cause.illegalField
    else .ok (s.updCore fun c => c.updSeq u.q fun q => { q with ended := true, endPc := u.pc, loops := [] })

/-- YIELD: one issue cycle. A pending pre-emption stops the sequencer before its next instruction (R301).
Log entry 48 (DEDUCED). -/
def execYield (h : Short) (s : State) : Out := issue (.yield h) s fun _ s => .ok s

/-- The conditions of R331 on a sequencer other than CT: it has ended, or stands waiting on a token at its address.
Log entry 22 (DEDUCED). -/
def Seq.atSafe (q : Seq) (a : Nat) : Bool := q.ended || (q.waiting && q.pc.toNat == a)

/-- The entry of the safe-point table whose CT address is given (R324). -/
def safeEntry (c : Core) (a : Word) : Option Nat :=
  match c.task with
  | none => none
  | some t => t.image.safe.findIdx? fun e => e.getD 0 0 = a.toNat

/-- The conditions of R331 at an entry.
Log entry 22 (DEDUCED). -/
def Core.safeHolds (c : Core) (i : Nat) : Bool :=
  match c.task with
  | none => false
  | some t =>
    let e := t.image.safe.getD i []
    c.ld.atSafe (e.getD 1 0) && c.mx.atSafe (e.getD 2 0) && c.st.atSafe (e.getD 3 0) && !(c.portable && c.formsPending)

/-- SAFEPT (R175, R331, R335): a stale task traps; for a portable one a waiting native image is looked for, as the next thing the core
does. -/
def execSafept (h : Short) (s : State) : Out :=
  issue (.safept h) s fun u s =>
    match safeEntry s.core u.pc, s.core.task with
    | some i, some t =>
      if !s.core.safeHolds i then .ok s
      else if t.stale then trapWith Cause.mapStale
      else if t.image.portable then .ok { s with agenda := .continuationStart :: s.agenda }
      else .ok s
    | _, _ => .ok s

/-- BRK. -/
def execBrk (h : Short) (o : Code) (s : State) : Out :=
  issue (.brk h o) s fun _ _ => trapWith Cause.breakpoint (o.k.setWidth 64)

/-- TRAP. -/
def execTrap (h : Short) (o : Code) (s : State) : Out :=
  issue (.trap h o) s fun _ _ => trapWith Cause.swtrap (o.k.setWidth 64)

/-- The effect of TRET (R177). The CAUSE field of ECAUSE decides whether to resume after the unit. A unit that trapped at issue
issues as soon as it may; one that the handler moved EPC to takes its delta (R285), and a
wait of MX that it leaves holds the domain no longer (R22). A wait of CT's goes on where CT comes back to
its address (R19).
Log entry 27 (DEDUCED). -/
def trapReturn (s : State) : State :=
  let c := s.core
  let l1 := c.tl = 1
  let q := seqOf ((if l1 then c.eseq1 else c.eseq2).toNat % 4)
  let epc := if l1 then c.epc1 else c.epc2
  let cause := (if l1 then c.ecause1 else c.ecause2).toNat % 256
  let a := if cause = 0x32 ∨ cause = 0x12 then s.afterUnit q epc else epc
  s.updCore fun c =>
    let c := c.updSeq q fun v => if v.ended && !(q = .ct && c.tl = 2) then v
      else { v with pc := a, brkPass := some a, waiting := v.waiting && v.pc = a, redo := v.redo && v.pc = a }
    let c := if q = .ct then c else { c with ct := { c.ct with pc := if l1 then c.ret1 else c.ret2 } }
    let c := match c.ctWd with
      | some (pc, n) => if l1 && c.ct.pc = pc then { c with ct := { c.ct with waiting := true, wd := n } } else c
      | none => c
    { c with tl := c.tl - 1, mxWait := c.mxWait && c.mx.waiting, ctWd := if l1 then none else c.ctWd }

/-! Containment regions (R180 to R183). -/

/-- CRGN.OPEN: the token counts and the staged command of the record are those at the end of the cycle, which the close of
the pulse fills in; CT issues first, so the other sequencers' PCs are those of R61. -/
def execCrgnOpen (h : Long) (o : CrgnOpen) (s : State) : Out :=
  issue (.crgnOpen h o) s fun u s =>
    let c := s.core
    if c.tl ≠ 0 ∨ c.regions.length ≥ 4 then trapWith Cause.illegalField
    else
      let r : Region :=
        { id := o.id, no := c.nextId, handler := offTarget u o.o, counts := [], pcs := [c.ld.pc, c.mx.pc, c.st.pc],
          ended := [c.ld.ended, c.mx.ended, c.st.ended],
          loops := [c.ct.loops, c.ld.loops, c.mx.loops, c.st.loops], staged := none }
      .ok ((s.updCore fun c => { c with regions := r :: c.regions }).completeAfter u 1 [])

/-- CRGN.CLOSE. -/
def execCrgnClose (h : Long) (s : State) : Out :=
  issue (.crgnClose h) s fun u s =>
    if s.core.tl ≠ 0 ∨ s.core.regions = [] then trapWith Cause.illegalField
    else .ok ((s.updCore fun c => { c with regions := c.regions.tail }).completeAfter u 1 [])

/-- CRGN.ABORT: the unwind takes place as the pulse closes (R183, R297). Without an open region it is taken as CRGN.CLOSE
is (log entry 10, DEDUCED). -/
def execCrgnAbort (h : Long) (s : State) : Out :=
  issue (.crgnAbort h) s fun _ s =>
    if s.core.tl ≠ 0 ∨ s.core.regions = [] then trapWith Cause.illegalField
    else .ok (s.updCore fun c => { c with abort := true })

/-! The rotating base (R184). -/

/-- ROTB: from the next cycle. -/
def execRotb (h : Long) (o : Rot) (s : State) : Out :=
  issue (.rotb h o) s fun u s => .ok (s.completeAfter u 1 [.rbase (s.core.rbase + o.k)])

/-- SETRB. -/
def execSetrb (h : Long) (o : Rot) (s : State) : Out :=
  issue (.setrb h o) s fun u s => .ok (s.completeAfter u 1 [.rbase o.k])

/-! Poison and residency (R185, R186). -/

/-- Whether an issued instruction or a promised load has still to write a cell of a physical operand, a row that a TTOPK has
still to rank among them (R26, R237); a promised load has once its due cycle has poisoned the cells (R24). -/
def Core.mrfOwed (c : Core) (m : BitVec 12) : Bool :=
  let keys := (List.range 32).map (mrfKey m)
  let hit (m' : BitVec 12) (mask : BitVec 32) : Bool :=
    (List.range 32).any fun e => mask.getLsbD e && keys.contains (mrfKey m' e)
  c.mwr.any (fun w => hit w.m w.mask) || c.topk.any (fun r => hit r.m (BitVec.allOnes 32)) ||
  c.flight.any fun f =>
    match f.op with
    | .load (.vec m') _ _ (some _) _ _ => !f.late && hit m' (BitVec.allOnes 32)
    | .load (.dec m' _ _ _) _ _ (some _) _ _ => !f.late && hit m' (BitVec.allOnes 32)
    | .load (.fields m' _) _ _ (some _) _ _ => !f.late && hit m' (BitVec.allOnes 32)
    | _ => false

/-- CHKP on an MRF vector: a read that starts late counts as poisoned, or traps under UDCHK. -/
def execChkpMrf (h : Long) (o : ChkpM) (s : State) : Out :=
  issue (.chkpMrf h o) s fun u s =>
    let m := physOp s.core.rbase o.m
    let r := s.core.reserve .read m s.core.cycle
    let late := decide (r.1 ≠ s.core.cycle)
    if s.core.udchk && (late || s.core.mrfOwed m) then trapWith Cause.undersizedDelay
    else
      let taken := late || decide ((readVec s.core.mrf m).poison ≠ 0)
      let s := (s.updCore fun _ => r.2).completeAfter u 1 []
      .ok (if taken then s.branchTo u (offTarget u o.o) else s)

/-- CHKP on an X register. -/
def execChkpX (h : Long) (o : ChkpX) (s : State) : Out :=
  issue (.chkpX h o) s fun u s =>
    let s := s.completeAfter u 1 []
    .ok (if s.xPoison u o.a then s.branchTo u (offTarget u o.o) else s)

/-- CHKR: a predicate of another sequencer that is written in this cycle, by a result or a flag that lands in it too, reads old (R186); one of
CT itself reads as it stands.
Log entry 65 (DEDUCED). -/
def execChkr (h : Long) (o : Chkr) (s : State) : Out :=
  issue (.chkr h o) s fun u s =>
    let s := s.completeAfter u 1 []
    let q := seqOf o.sq.toNat
    .ok (if (if q = u.q then (s.core.seq q).getP o.pr else s.core.pBefore q o.pr) ≠ 0 then s.branchTo u (offTarget u o.o) else s)

end Sys2Proof.Machine
end

