-- ==== Sys2Proof/Machine/Flow.lean ====
section
/-!
DEFINITION. The flow row: injection, slots and tap in native code (R187 to R208, R34 to R38, R446).
-/

namespace Sys2Proof.Machine

open Sys2Proof

/-! Assumed latencies (R325). -/

/-- Whether the image uses an operation class, so that it is padded and interlocked (R325). -/
def Core.uses (c : Core) (cls : Nat) : Bool :=
  let bit := if cls ≤ 13 then cls else if cls = 14 then 14 else 19
  c.task.any fun t => !t.image.portable && t.image.use.getLsbD bit

/-- The latency the image assumed for a class. -/
def Core.alat (c : Core) (cls : Nat) : Nat :=
  match c.task with
  | none => 0
  | some t => t.image.alat.getD cls 0

/-- The latency of an operation class in a map (R325). -/
def CoreMap.latencyOf (m : CoreMap) (cls : Nat) : Nat := if cls ≤ 13 then m.lat.getD cls 1 else if cls = 14 then m.delta else m.prom

/-- The value of a class in the map in force on the core. -/
def Core.mapLat (c : Core) (cls : Nat) : Nat := c.map.latencyOf cls

/-- The latency of a class in schedule cycles: the assumed one where the image uses it (R27, R325). -/
def Core.classLat (c : Core) (cls : Nat) : Nat := if c.uses cls then c.alat cls else c.mapLat cls

/-- The delivered cycles for which a result of a class freezes the domain (R325). -/
def Core.classExcess (c : Core) (cls : Nat) : Nat := if c.uses cls then c.mapLat cls - c.alat cls else 0

/-! Taps (R36, R446). -/

/-- Under UDCHK, whether the tap of an EMPTY position comes before a value that an issued instruction drives (R446). -/
def Core.earlyTap (c : Core) (f pos : Nat) : Bool :=
  (c.flowAt f pos).isNone &&
  (c.drives.any (fun d => d.flow = f && (decide (d.pos < pos) || (d.pos = pos && decide (c.cycle < d.cyc)))) ||
   c.lateReads.any (fun r => r.flow = f) ||
   c.slotRes.any (fun r => r.flow = f && decide (r.pos ≤ pos)))

/-- Fails with UNDERSIZED_DELAY when UDCHK finds one of the taps early. -/
def Core.tapsOk (c : Core) (fs : List Nat) (pos : Nat) : Bool := !(c.udchk && fs.any fun f => c.earlyTap f pos)

/-- Drives a value on a flow now or later (R35, R37). -/
def Core.drive (c : Core) (cyc flow pos : Nat) (v : Vec) : Core := { c with drives := addDrive c.drives ⟨cyc, flow, pos, v⟩ }

/-! Injection and tap. -/

/-- VRD (R193, R31, R32): a read that starts late is made, and driven, later. -/
def execVrd (h : Long) (o : Vrd) (s : State) : Out :=
  issue (.vrd h o) s fun u s =>
    let c := s.core
    let m := physOp c.rbase o.m
    let occ := occupancy c.map m
    let r := c.reserve .read m c.cycle
    let late := decide (r.1 ≠ c.cycle)
    if c.udchk && (late || c.mrfOwed m) then trapWith Cause.undersizedDelay
    else
      let c := r.2
      let c := if late then
          { c with lateReads := c.lateReads ++ [⟨c.nextId, r.1, occ, m, o.f.toNat⟩], nextId := c.nextId + 1 }
        else c.drive (c.cycle + occ) o.f.toNat 0 (readVec c.mrf m)
      .ok { s with core := c.complete u.q u.pc occ [] u.sig }

/-- VWR (R194): the write begins a cycle after the tap and becomes visible after it finishes (R31). -/
def execVwr (h : Long) (o : Vwr) (s : State) : Out :=
  issue (.vwr h o) s fun u s =>
    let c := s.core
    if !c.tapsOk [o.f.toNat] 15 then trapWith Cause.undersizedDelay
    else
      let m := physOp c.rbase o.m
      let occ := occupancy c.map m
      let v := c.tap o.f.toNat 15
      let mask := if o.masked then s.p u o.pr else BitVec.allOnes 32
      let r := c.reserve .write m (c.cycle + 1)
      let c := r.2
      let w : MrfWrite := ⟨c.nextId, r.1, r.1 + occ - 1, m, v, mask, false⟩
      let c := { c with mwr := c.mwr ++ [w], nextId := c.nextId + 1 }
      .ok { s with core := c.complete u.q u.pc occ [] u.sig }

/-- The vector of VBCAST (R195): the immediate converted to the lane format, or the low bits of an X register. -/
def bcastVec (o : Slot) (f : Fmt) (x : Word) (poison : Bool) : Vec :=
  if minorLow o.minor then
    let v := Vec.splat f (x.toNat % 2 ^ f.width)
    if poison then { v with poison := BitVec.allOnes 32 } else v
  else Vec.splat f (immLane f o.imm)

/-- VBCAST (R195). -/
def execVbcast (h : Long) (o : Slot) (s : State) : Out :=
  issue (.vbcast h o) s fun u s =>
    let f := (laneFmt o.lt (minorU o.minor)).getD .i32
    let r := BitVec.ofNat 5 (o.imm.toNat % 32)
    let c := s.core.drive (s.core.cycle + 1) o.fd.toNat 0 (bcastVec o f (s.x u r) (s.xPoison u r))
    .ok { s with core := c.complete u.q u.pc 1 [] u.sig }

/-- VIOTA (R196). -/
def execViota (h : Long) (o : Slot) (s : State) : Out :=
  issue (.viota h o) s fun u s =>
    let f := (laneFmt o.lt (minorU o.minor)).getD .i32
    let c := s.core.drive (s.core.cycle + 1) o.fd.toNat 0 (viota f (immInt o.imm))
    .ok { s with core := c.complete u.q u.pc 1 [] u.sig }

/-! Slots (R190 to R192, R38). -/

/-- The second operand of a slot instruction: a tap, or the immediate in every lane (R190, R203). -/
def slotB (k : SlotKind) (o : Slot) (f : Fmt) (c : Core) (pos : Nat) : Vec :=
  let d := (targetFmt (minorCode o.minor)).getD f
  if tapsB k o.minor f d then c.tap o.fb.toNat pos
  else if k = .vscale then ⟨List.replicate 32 (BitVec.ofNat 32 (o.imm.toNat % 256)), 0⟩
  else match k with
    | .vadd | .vsub | .vmul | .vfma | .vmin | .vmax | .vand | .vor | .vxor | .vshl | .vshr | .vsha | .vcmp =>
      if minorBi o.minor then Vec.splat f (immLane f o.imm) else Vec.zero
    | _ => Vec.zero

/-- The flows an instruction taps. -/
def slotTaps (k : SlotKind) (o : Slot) (f : Fmt) : List Nat :=
  let d := (targetFmt (minorCode o.minor)).getD f
  [o.fa.toNat] ++ (if tapsB k o.minor f d then [o.fb.toNat] else []) ++ (if tapsC k then [o.fc.toNat] else [])

/-- Whether a slot issued now comes within the initiation interval of the one before (R38). -/
def Core.withinInterval (c : Core) (pos : Nat) : Bool :=
  match c.slotLast.find? (·.1 = pos) with
  | none => false
  | some (_, last) => decide (c.cycle < last + c.map.ii.getD (pos - 1) 1)

/-- SlotOp (R190): taps now, result at t + L; the LFSR advances at issue (R76); a dead slot executes nothing (R38). The
initiation interval counts from the last instruction issued to the slot, one that itself came too early included.
Log entry 63 (DESIGN CHOICE). -/
def slotOp (k : SlotKind) (o : Slot) (u : Ctx) (s : State) : Eff :=
  let c := s.core
  let pos := o.pos.toNat
  let f := (laneFmt o.lt (minorU o.minor)).getD .i32
  let lat := c.classLat (pos - 1)
  if !c.tapsOk (slotTaps k o f) pos then trapWith Cause.undersizedDelay
  else if !slotWorks c.map pos then .ok (s.completeAfter u lat [])
  else
    let q := s.regs u
    let r := slotCompute k f o.minor o.imm u.arith (predMask q u.pfx) (c.tap o.fa.toNat pos) (slotB k o f c pos)
      (if tapsC k then c.tap o.fc.toNat pos else Vec.zero) q.srseed
    let early := c.withinInterval pos
    let res : SlotRes :=
      { id := c.nextId, due := c.cycle + lat, pos := pos, flow := o.fd.toNat, v := if early then Vec.poisoned else r.1,
        fpInv := !early && r.2.inv && q.tmask.getLsbD 2, pc := u.pc }
    let c := (c.updSeq u.q fun q => { q with srseed := r.2.r })
    let c := { c with
      slotRes := c.slotRes ++ [res], nextId := c.nextId + 1,
      slotLast := (pos, c.cycle) :: c.slotLast.filter (·.1 != pos) }
    .ok { s with core := c.complete u.q u.pc lat [] u.sig }

/-- Sum (R197). -/
def execVadd (h : Long) (o : Slot) (s : State) : Out := issue (.vadd h o) s (slotOp .vadd o)

/-- Difference (R197). -/
def execVsub (h : Long) (o : Slot) (s : State) : Out := issue (.vsub h o) s (slotOp .vsub o)

/-- Product, or its high half (R197). -/
def execVmul (h : Long) (o : Slot) (s : State) : Out := issue (.vmul h o) s (slotOp .vmul o)

/-- Product plus a third operand, rounded once (R197). -/
def execVfma (h : Long) (o : Slot) (s : State) : Out := issue (.vfma h o) s (slotOp .vfma o)

/-- Smaller (R197). -/
def execVmin (h : Long) (o : Slot) (s : State) : Out := issue (.vmin h o) s (slotOp .vmin o)

/-- Larger (R197). -/
def execVmax (h : Long) (o : Slot) (s : State) : Out := issue (.vmax h o) s (slotOp .vmax o)

/-- Absolute value (R197). -/
def execVabs (h : Long) (o : Slot) (s : State) : Out := issue (.vabs h o) s (slotOp .vabs o)

/-- Negation (R197). -/
def execVneg (h : Long) (o : Slot) (s : State) : Out := issue (.vneg h o) s (slotOp .vneg o)

/-- Bitwise AND (R199). -/
def execVand (h : Long) (o : Slot) (s : State) : Out := issue (.vand h o) s (slotOp .vand o)

/-- Bitwise OR (R199). -/
def execVor (h : Long) (o : Slot) (s : State) : Out := issue (.vor h o) s (slotOp .vor o)

/-- Bitwise XOR (R199). -/
def execVxor (h : Long) (o : Slot) (s : State) : Out := issue (.vxor h o) s (slotOp .vxor o)

/-- Complement (R199). -/
def execVnot (h : Long) (o : Slot) (s : State) : Out := issue (.vnot h o) s (slotOp .vnot o)

/-- Left shift (R199). -/
def execVshl (h : Long) (o : Slot) (s : State) : Out := issue (.vshl h o) s (slotOp .vshl o)

/-- Logical right shift (R199). -/
def execVshr (h : Long) (o : Slot) (s : State) : Out := issue (.vshr h o) s (slotOp .vshr o)

/-- Arithmetic right shift (R199). -/
def execVsha (h : Long) (o : Slot) (s : State) : Out := issue (.vsha h o) s (slotOp .vsha o)

/-- Lane compare (R200). -/
def execVcmp (h : Long) (o : Slot) (s : State) : Out := issue (.vcmp h o) s (slotOp .vcmp o)

/-- Lane select (R201). -/
def execVsel (h : Long) (o : Slot) (s : State) : Out := issue (.vsel h o) s (slotOp .vsel o)

/-- Lane conversion (R202). -/
def execVcvt (h : Long) (o : Slot) (s : State) : Out := issue (.vcvt h o) s (slotOp .vcvt o)

/-- Clamp (R198). -/
def execVclmp (h : Long) (o : Slot) (s : State) : Out := issue (.vclmp h o) s (slotOp .vclmp o)

/-- Block scale (R203). -/
def execVscale (h : Long) (o : Slot) (s : State) : Out := issue (.vscale h o) s (slotOp .vscale o)

/-- Quantisation of a block (R204). -/
def execVqnt (h : Long) (o : Slot) (s : State) : Out := issue (.vqnt h o) s (slotOp .vqnt o)

/-- 2^a (R205). -/
def execVexp2 (h : Long) (o : Slot) (s : State) : Out := issue (.vexp2 h o) s (slotOp .vexp2 o)

/-- log2 a (R205). -/
def execVlog2 (h : Long) (o : Slot) (s : State) : Out := issue (.vlog2 h o) s (slotOp .vlog2 o)

/-- 1/a (R205). -/
def execVrcp (h : Long) (o : Slot) (s : State) : Out := issue (.vrcp h o) s (slotOp .vrcp o)

/-- 1/√a (R205). -/
def execVrsq (h : Long) (o : Slot) (s : State) : Out := issue (.vrsq h o) s (slotOp .vrsq o)

/-- tanh a (R205). -/
def execVtanh (h : Long) (o : Slot) (s : State) : Out := issue (.vtanh h o) s (slotOp .vtanh o)

/-- Sum or maximum of groups of cells (R207). -/
def execVsumr (h : Long) (o : Slot) (s : State) : Out := issue (.vsumr h o) s (slotOp .vsumr o)

/-- Permutation of cells (R208). -/
def execVperm (h : Long) (o : Slot) (s : State) : Out := issue (.vperm h o) s (slotOp .vperm o)

end Sys2Proof.Machine
end

