-- ==== Sys2Proof/Machine/Portable.lean ====
section
/-!
DEFINITION. The portable register forms (R209 to R214). The values are those of the slot operation on the same inputs; the
flows and ports of an expansion are invisible, so a form is its reads, its result and the write of D at R213's cycle.
-/

namespace Sys2Proof.Machine

open Sys2Proof

/-- The sum of the hops of the whole row: H of R213. -/
def rowHops (map : CoreMap) : Nat := hopSum map 15

/-- The write of a form's D at its completion cycle, and the form as the last one issued (R211, R213). -/
def Core.formWrite (c : Core) (fin : Nat) (m : BitVec 12) (v : Vec) (mask : BitVec 32) : Core :=
  { c with mwr := c.mwr ++ [⟨c.nextId, fin, fin, m, v, mask, false⟩], nextId := c.nextId + 1 }

def Core.formIssued (c : Core) (u : Ctx) (fin : Nat) : Core :=
  let c := { c with slotLast := (0, c.cycle) :: c.slotLast.filter (·.1 != 0) }
  c.complete u.q u.pc (fin - c.cycle) [] u.sig

/-- The slot operation of a form that reads D. -/
def Triple.kind : Triple → SlotKind
  | .vfma => .vfma
  | .vsel => .vsel
  | .vclmp => .vclmp

def tripleOf : SlotKind → Option Triple
  | .vfma => some .vfma
  | .vsel => some .vsel
  | .vclmp => some .vclmp
  | _ => none

/-- The result of a form on rows A, B and D (R209): VCLMP.P clamps D between A and B; the others take D third. -/
def formCompute (k : SlotKind) (lt : BitVec 3) (minor : BitVec 5) (ar : Arith) (mask : BitVec 32) (a b d : Vec)
    (seed : BitVec 32) : Vec × Run :=
  let f := (laneFmt lt (minorU minor)).getD .i32
  if k = .vclmp then slotCompute k f minor (portImm k) ar mask d a b seed
  else slotCompute k f minor (portImm k) ar mask a b d seed

/-- A form with a slot (R212): A and B are read at issue; D, where the form reads it, a cycle later. -/
def portOp (k : SlotKind) (o : Port) (u : Ctx) (s : State) : Eff :=
  let c := s.core
  match formSlot c k with
  | none => .ok s
  | some p =>
    let q := s.regs u
    let minor := portMinor k o.minor
    let f := (laneFmt o.lt (minorU minor)).getD .i32
    let d := (targetFmt (minorCode minor)).getD f
    let mask := predMask q u.pfx
    let row (r : BitVec 10) : Vec := readVec c.mrf (formRow c.rbase r)
    let va := row o.a
    let vb := if portUsesB k minor f d then row o.b else Vec.zero
    let e := if tapsC k then 1 else 0
    let tapAt := c.cycle + 1 + e + hopSum c.map p
    let lat := c.map.lat.getD (p - 1) 1
    let fin := c.cycle + 2 + e + rowHops c.map + lat
    let r := formCompute k o.lt minor u.arith mask va vb (if (tripleOf k).isSome then row o.d else Vec.zero) q.srseed
    let c := c.updSeq u.q fun q => { q with srseed := r.2.r }
    let c := { c with slotLast := (p, tapAt) :: c.slotLast.filter (·.1 != p) }
    let c := match tripleOf k with
      | some t =>
        { c with
          lateForms := c.lateForms ++
            [(⟨c.cycle + 1, t, o.lt, minor, u.arith, mask, va, vb, formRow c.rbase o.d, q.srseed, fin, tapAt + lat, u.pc,
              q.tmask.getLsbD 2⟩ : LateForm)] }
      | none =>
        let c := c.formWrite fin (formRow c.rbase o.d) r.1 mask
        if r.2.inv && q.tmask.getLsbD 2 then
          { c with slotRes := c.slotRes ++ [(⟨c.nextId, tapAt + lat, p, 16, r.1, true, u.pc⟩ : SlotRes)], nextId := c.nextId + 1 }
        else c
    .ok { s with core := c.formIssued u fin }

/-- The read of D of a form issued in the cycle before, and with it the form's result (R212). -/
def Core.lateForm (c : Core) (l : LateForm) : Core :=
  let r := formCompute l.kind.kind l.lt l.minor l.arith l.mask l.a l.b (readVec c.mrf l.d) l.seed
  let c := c.formWrite l.fin l.d r.1 l.mask
  if r.2.inv && l.iv then
    { c with slotRes := c.slotRes ++ [⟨c.nextId, l.resAt, 0, 16, r.1, true, l.pc⟩], nextId := c.nextId + 1 }
  else c

/-- VMOVD.P (R210, R213): every cell is read before any is written. -/
def execVmovdP (h : Long) (o : Port) (s : State) : Out :=
  issue (.vmovdP h o) s fun u s =>
    let c := s.core
    let md := physOp c.rbase (BitVec.ofNat 12 (o.minor.toNat / 4 * 2 ^ 10 + o.d.toNat))
    let ma := physOp c.rbase (BitVec.ofNat 12 (o.minor.toNat % 4 * 2 ^ 10 + o.a.toNat))
    let fin := c.cycle + occupancy c.map ma + rowHops c.map + occupancy c.map md
    .ok { s with core := (c.formWrite fin md (readVec c.mrf ma) (predMask (s.regs u) u.pfx)).formIssued u fin }

/-- VBCAST.P (R209): cell 0 of row A, with its poison, in every cell. -/
def execVbcastP (h : Long) (o : Port) (s : State) : Out :=
  issue (.vbcastP h o) s fun u s =>
    let c := s.core
    let a := readVec c.mrf (formRow c.rbase o.a)
    let v : Vec := ⟨List.replicate 32 (a.cell 0), if a.pois 0 then BitVec.allOnes 32 else 0⟩
    let fin := c.cycle + 2 + rowHops c.map
    .ok { s with core := (c.formWrite fin (formRow c.rbase o.d) v (predMask (s.regs u) u.pfx)).formIssued u fin }

/-- VIOTA.P (R209): the lane indices. -/
def execViotaP (h : Long) (o : Port) (s : State) : Out :=
  issue (.viotaP h o) s fun u s =>
    let c := s.core
    let f := (laneFmt o.lt (o.minor.getLsbD 3)).getD .i32
    let fin := c.cycle + 2 + rowHops c.map
    .ok { s with core := (c.formWrite fin (formRow c.rbase o.d) (viota f 0) (predMask (s.regs u) u.pfx)).formIssued u fin }

/-- Sum, portable form (R209). -/
def execVaddP (h : Long) (o : Port) (s : State) : Out := issue (.vaddP h o) s (portOp .vadd o)

/-- Difference, portable form (R209). -/
def execVsubP (h : Long) (o : Port) (s : State) : Out := issue (.vsubP h o) s (portOp .vsub o)

/-- Product, or its high half, portable form (R209). -/
def execVmulP (h : Long) (o : Port) (s : State) : Out := issue (.vmulP h o) s (portOp .vmul o)

/-- Product plus a third operand, rounded once, portable form (R209). -/
def execVfmaP (h : Long) (o : Port) (s : State) : Out := issue (.vfmaP h o) s (portOp .vfma o)

/-- Smaller, portable form (R209). -/
def execVminP (h : Long) (o : Port) (s : State) : Out := issue (.vminP h o) s (portOp .vmin o)

/-- Larger, portable form (R209). -/
def execVmaxP (h : Long) (o : Port) (s : State) : Out := issue (.vmaxP h o) s (portOp .vmax o)

/-- Absolute value, portable form (R209). -/
def execVabsP (h : Long) (o : Port) (s : State) : Out := issue (.vabsP h o) s (portOp .vabs o)

/-- Negation, portable form (R209). -/
def execVnegP (h : Long) (o : Port) (s : State) : Out := issue (.vnegP h o) s (portOp .vneg o)

/-- Bitwise AND, portable form (R209). -/
def execVandP (h : Long) (o : Port) (s : State) : Out := issue (.vandP h o) s (portOp .vand o)

/-- Bitwise OR, portable form (R209). -/
def execVorP (h : Long) (o : Port) (s : State) : Out := issue (.vorP h o) s (portOp .vor o)

/-- Bitwise XOR, portable form (R209). -/
def execVxorP (h : Long) (o : Port) (s : State) : Out := issue (.vxorP h o) s (portOp .vxor o)

/-- Complement, portable form (R209). -/
def execVnotP (h : Long) (o : Port) (s : State) : Out := issue (.vnotP h o) s (portOp .vnot o)

/-- Left shift, portable form (R209). -/
def execVshlP (h : Long) (o : Port) (s : State) : Out := issue (.vshlP h o) s (portOp .vshl o)

/-- Logical right shift, portable form (R209). -/
def execVshrP (h : Long) (o : Port) (s : State) : Out := issue (.vshrP h o) s (portOp .vshr o)

/-- Arithmetic right shift, portable form (R209). -/
def execVshaP (h : Long) (o : Port) (s : State) : Out := issue (.vshaP h o) s (portOp .vsha o)

/-- Lane compare, portable form (R209). -/
def execVcmpP (h : Long) (o : Port) (s : State) : Out := issue (.vcmpP h o) s (portOp .vcmp o)

/-- Lane select, portable form (R209). -/
def execVselP (h : Long) (o : Port) (s : State) : Out := issue (.vselP h o) s (portOp .vsel o)

/-- Lane conversion, portable form (R209). -/
def execVcvtP (h : Long) (o : Port) (s : State) : Out := issue (.vcvtP h o) s (portOp .vcvt o)

/-- Clamp, portable form (R209). -/
def execVclmpP (h : Long) (o : Port) (s : State) : Out := issue (.vclmpP h o) s (portOp .vclmp o)

/-- Block scale, portable form (R209). -/
def execVscaleP (h : Long) (o : Port) (s : State) : Out := issue (.vscaleP h o) s (portOp .vscale o)

/-- Quantisation of a block, portable form (R209). -/
def execVqntP (h : Long) (o : Port) (s : State) : Out := issue (.vqntP h o) s (portOp .vqnt o)

/-- 2^a, portable form (R209). -/
def execVexp2P (h : Long) (o : Port) (s : State) : Out := issue (.vexp2P h o) s (portOp .vexp2 o)

/-- log2 a, portable form (R209). -/
def execVlog2P (h : Long) (o : Port) (s : State) : Out := issue (.vlog2P h o) s (portOp .vlog2 o)

/-- 1/a, portable form (R209). -/
def execVrcpP (h : Long) (o : Port) (s : State) : Out := issue (.vrcpP h o) s (portOp .vrcp o)

/-- 1/√a, portable form (R209). -/
def execVrsqP (h : Long) (o : Port) (s : State) : Out := issue (.vrsqP h o) s (portOp .vrsq o)

/-- tanh a, portable form (R209). -/
def execVtanhP (h : Long) (o : Port) (s : State) : Out := issue (.vtanhP h o) s (portOp .vtanh o)

/-- Sum or maximum of groups of cells, portable form (R209). -/
def execVsumrP (h : Long) (o : Port) (s : State) : Out := issue (.vsumrP h o) s (portOp .vsumr o)

/-- Permutation of cells, portable form (R209). -/
def execVpermP (h : Long) (o : Port) (s : State) : Out := issue (.vpermP h o) s (portOp .vperm o)

end Sys2Proof.Machine
end

