-- ==== Sys2Proof/Machine/Matrix.lean ====
section
/-!
DEFINITION. The matrix array, the moves between the ACC and the MRF, and top-k selection (R215 to R237, R88 to R92).
-/

namespace Sys2Proof.Machine

open Sys2Proof

/-! Shapes and modes (R146, R217). -/

def shM (w : Word) : Nat := w.toNat % 2 ^ 11 + 1
def shN (w : Word) : Nat := w.toNat / 2 ^ 11 % 2 ^ 7 + 1
def shK (w : Word) : Nat := w.toNat / 2 ^ 18 % 2 ^ 10 + 1
def shAstr (w : Word) : Nat := w.toNat / 2 ^ 28 % 2 ^ 16
def shBstr (w : Word) : Nat := w.toNat / 2 ^ 44 % 2 ^ 16
def shTA (w : Word) : Bool := w.getLsbD 61
def shTB (w : Word) : Bool := w.getLsbD 62

def modeOvw (m : BitVec 4) : Bool := m.getLsbD 0
def modeFacc (m : BitVec 4) : Bool := m.getLsbD 1
def modeMskn (m : BitVec 4) : Bool := m.getLsbD 2

/-! Operands in memory (R218, R219, R224 check 5). -/

/-- Bytes of an element of a bank's format; 1 where the format has no elements. -/
def elemBytes (b : BitVec 32) : Nat := (((fmtOfCode (bfFmt b)).map Fmt.width).getD 8) / 8

/-- Scaled and BPI banks hold groups of 264 bytes (R66). -/
def grouped (b : BitVec 32) : Bool := bfScale b || bfFmt b = 12

def ceilDiv (a b : Nat) : Nat := (a + b - 1) / b

/-- Bytes of a packed row of `l` elements (R218). -/
def packedBytes (b : BitVec 32) (l : Nat) : Nat :=
  if grouped b then ceilDiv l 256 * 264
  else if bfSparse b ≠ 0 then l / 12 * sparseBytes (bfSparse b) (elemBytes b * 8)
  else l * elemBytes b

/-- The stride of an operand (R218): the shape's, else a scratchpad bank's PITCH, else the packed row. -/
def strideOf (b : BitVec 32) (loc : Word) (l given : Nat) : Nat :=
  if given ≠ 0 then given
  else if locKind loc ≠ 2 ∧ bfPitch b ≠ 0 then bfPitch b * 8
  else packedBytes b l

/-- Spans with each that ends where the next begins joined to it. -/
def mergeSpans (l : List (Nat × Nat)) : List (Nat × Nat) :=
  l.foldr (fun x acc => match acc with
    | y :: ys => if x.1 + x.2 = y.1 then (x.1, x.2 + y.2) :: ys else x :: y :: ys
    | [] => [x]) []

/-- The end of a list of spans. -/
def spansEnd (l : List (Nat × Nat)) : Nat := l.foldl (fun acc x => max acc (x.1 + x.2)) 0

/-- The bytes of a row, as offset and length, that hold the elements `es` of it (R218, R67, R69). -/
def rowSpans (b : BitVec 32) (es : List Nat) : List (Nat × Nat) :=
  mergeSpans <|
    if bfFmt b = 12 then (es.map (· / 256)).eraseDups.map fun g => (264 * g, 8 + 32 * bfPlanes b)
    else if bfScale b then
      (es.map fun e => 264 * (e / 256) + e % 256 / 32).eraseDups.map (fun a => (a, 1)) ++
        es.map fun e => (264 * (e / 256) + 8 + e % 256, 1)
    else if bfSparse b ≠ 0 then
      let n := sparseBytes (bfSparse b) (elemBytes b * 8)
      (es.map (· / 12)).eraseDups.map fun g => (n * g, n)
    else es.map fun e => (e * elemBytes b, elemBytes b)

/-- An operand: locator, place, format, stride, the rows it fetches and the elements of each (R218, R90). -/
structure Operand where
  loc : Word
  fmt : BitVec 32
  stride : Nat
  rows : List Nat
  elems : List Nat
  deriving DecidableEq, Repr

/-- The columns of N that are not masked (R217). -/
def openCols (n : Nat) (mask : PWord) : List Nat := (List.range n).filter fun c => mask.getLsbD (c / 4)

/-- Operand A of a shape. -/
def operandA (loc shape : Word) (fmt : BitVec 32) : Operand :=
  let l := if shTA shape then shM shape else shK shape
  { loc := loc, fmt := fmt, stride := strideOf fmt loc l (shAstr shape),
    rows := List.range (if shTA shape then shK shape else shM shape), elems := List.range l }

/-- Operand B of a shape, without its masked columns. -/
def operandB (loc shape : Word) (fmt : BitVec 32) (mask : PWord) : Operand :=
  let cols := openCols (shN shape) mask
  let l := if shTB shape then shK shape else shN shape
  { loc := loc, fmt := fmt, stride := strideOf fmt loc l (shBstr shape),
    rows := if shTB shape then cols else List.range (shK shape),
    elems := if shTB shape then List.range l else cols }

/-- The bytes of a row that an operand fetches, as offset and length (R221, R224). -/
def Operand.spans (o : Operand) : List (Nat × Nat) := rowSpans o.fmt o.elems

/-- The end of an operand's extent, counted from its first byte (R224). -/
def Operand.extent (o : Operand) : Nat :=
  let row := spansEnd o.spans
  if row = 0 then 0 else o.rows.foldl (fun acc r => max acc (r * o.stride + row)) 0

/-- The format of an operand (R219): its bank's, or BF22 for A and BF23 for B through a handle. -/
def operandFmt (c : Core) (loc : Word) (isB : Bool) : BitVec 32 :=
  if locKind loc = 2 then c.getBf (if isB then 23 else 22) else c.getBf (bankOf (locAddr loc))

/-- Whether a format is one of 16 bits (R220). -/
def wide16 (b : BitVec 32) : Bool := bfFmt b = 3 || bfFmt b = 4 || bfFmt b = 8 || bfFmt b = 9

/-- Whether a format is integer (R219). -/
def intFormat (b : BitVec 32) : Bool := (1 ≤ bfFmt b && bfFmt b ≤ 4) || bfFmt b = 12

/-- RAW, INT32, UINT32 and FP32 are not operand formats (R219). -/
def operandFormat (b : BitVec 32) : Bool := bfFmt b != 0 && !(5 ≤ bfFmt b && bfFmt b ≤ 7)

/-- R222 for the two formats; `b` is none with KEEPB. -/
def formatsOk (k : ArrKind) (a : BitVec 32) (b : Option (BitVec 32)) : Bool × Bool :=
  match k with
  | .tmms => (operandFormat a && bfSparse a = 0 && bfFmt a != 12, b.all fun b => operandFormat b && bfSparse b ≠ 0)
  | _ => (operandFormat a && bfSparse a = 0, b.all fun b => operandFormat b && bfSparse b = 0)

/-- Kc, twice c times 2 as a quarter count (`c` is the answer over 4), and the limit of Kc or K (R220, R222). -/
def rates (k : ArrKind) (a b : BitVec 32) (kk : Nat) : Nat × Nat × Bool :=
  let wide := wide16 a || wide16 b
  match k with
  | .tmms =>
    let kc := kk / 12 * (if bfSparse b = 0 then 3 else sparseN (bfSparse b)) * (if wide then 2 else 1)
    (kc, 4, kc ≤ 192)
  | _ =>
    if wide then (2 * kk, 4, kk ≤ 96)
    else
      let p := min (if bfFmt a = 12 then bfPlanes a else 9) (if bfFmt b = 12 then bfPlanes b else 9)
      (kk, if k = .tmma && p = 2 then 1 else if k = .tmma && p ≤ 4 then 2 else 4, kk ≤ 192)

/-- ceil(n × c), with c in quarters (R220). -/
def rowCycles (n c : Nat) : Nat := ceilDiv (n * c) 4

/-! Checks at issue (R224). -/

/-- Fails with a cause. -/
def need (b : Bool) (c : Cause) (ea : Word) : Except TrapRec Unit := if b then .ok () else .error ⟨c, ea⟩

/-- Check 4, of every operand's handle: first that none is being written. -/
def operandHandles (c : Core) (staged : Bool) (locs : List Word) : Except TrapRec Unit :=
  let hs := locs.filter fun l => locKind l = 2
  let h (l : Word) : Hnd := c.getH (locHandle l)
  do
    needAll hs (fun l => !(c.hWriting (locHandle l) || (h l).miss)) Cause.undersizedDelay id
    needAll hs (fun l => (h l).valid) Cause.handleInvalid id
    needAll hs (fun l => (h l).perm 11 && !(h l).sync && !(staged && (h l).remote)) Cause.permission id

/-- Check 5 for one operand. -/
def operandExtent (c : Core) (o : Operand) : Except TrapRec Unit :=
  let top := if locKind o.loc = 2 then (c.getH (locHandle o.loc)).size else spadSize
  let base := if locKind o.loc = 2 then locOffset o.loc else locAddr o.loc
  need (o.extent = 0 || base + o.extent ≤ top) Cause.translationFault o.loc

/-- The place of an operand. -/
def operandPlace (c : Core) (loc : Word) : Loc :=
  match locKind loc with
  | 0 => .spad (locAddr loc)
  | 1 => .clus (locRank loc) 0 (locAddr loc)
  | _ => handlePlace (c.getH (locHandle loc)) (locOffset loc)

/-- Whether the held B serves an instruction with KEEPB (R223). -/
def heldMatches (c : Core) (k : ArrKind) (shape : Word) : Bool :=
  c.bvalid && c.heldB.any fun b => decide (b.kind = k) && b.n = shN shape && b.k = shK shape

/-- Checks 1 to 6 of R224, in order; what the instruction latches. EADDR is 0 in checks 1 to 3 and the operand's locator in 4; where both
operands fail a check, A is named; MXSTAGE refuses a REMOTE handle in check 4.
Log entry 84 (DESIGN CHOICE). -/
def arrayChecks (s : State) (u : Ctx) (k : ArrKind) (xa xb xs : BitVec 5) (row : Nat) (mode : BitVec 4) (staged : Bool) :
    Except TrapRec ArrCmd := do
  let c := s.core
  let shape := s.x u xs
  let keep := shKeep shape
  let la := s.x u xa
  let lb := s.x u xb
  let locs := if keep then [la] else [la, lb]
  need (!(s.xPoison u xa || s.xPoison u xs || (!keep && s.xPoison u xb))) Cause.undersizedDelay 0
  need (locs.all fun l => locFieldsOk l && !(locKind l = 1 && locMcast l ≠ 0)) Cause.illegalField 0
  let fa := operandFmt c la false
  let fb := if keep then (c.heldB.map (·.fmt)).getD 0 else operandFmt c lb true
  let mask := if modeMskn mode then s.p u 7 else BitVec.allOnes 32
  let a := operandA la shape fa
  let b := operandB lb shape fb mask
  need (!shape.getLsbD 63 && row + shM shape ≤ 2048 && (!keep || heldMatches c k shape) && (rates k fa fb (shK shape)).2.2 &&
    (decide (k ≠ .tmms) || (shK shape % 12 == 0 && (keep || shTB shape))) &&
    (!grouped fa || a.stride % 264 == 0) && (keep || !grouped fb || b.stride % 264 == 0)) Cause.illegalField 0
  need (locs.all fun l => locKind l ≠ 1 || clusterOk c l) Cause.permission 0
  operandHandles c staged locs
  operandExtent c a
  if keep then pure () else operandExtent c b
  need (formatsOk k fa (if keep then none else some fb)).1 Cause.bankFormat la
  need (formatsOk k fa (if keep then none else some fb)).2 Cause.bankFormat lb
  pure
    { kind := k, aLoc := la, bLoc := lb, a := operandPlace c la, b := if keep then none else some (operandPlace c lb),
      shape := shape, row := row, mode := mode, fmtA := fa, fmtB := fb, mask := mask, cls := u.cls, q := u.q, pc := u.pc,
      addr := u.pc + BitVec.ofNat 64 (4 * u.pfx.count), no := c.nextId, staged := staged, sig := u.sig, sigQ := u.q }

/-! Fetching (R219, R228, R72). -/

/-- A core as other cores see its scratchpad: what its own writes of the last 64 cycles changed stands as it was (R299).
Log entry 20 (DEDUCED). -/
def Core.seen (c : Core) : Core :=
  (c.veil.filter fun v => c.pulse < v.till).foldr (fun v c =>
    { c with spad := memSet c.spad v.addr v.old, spadUe := setMarks c.spadUe v.addr 1 (if v.ue then [v.addr] else []) }) c

/-- The core of rank `r` of the gang of the core in hand, as the core in hand sees it. -/
def State.rank (s : State) (r : Nat) : Option Core :=
  match s.core.task with
  | none => none
  | some t =>
    if t.rank = r then some s.core
    else (s.parked.find? fun c => c.task.any fun t' => t'.gang = t.gang && t'.rank = r).map Core.seen

/-- The operand of a command that is B, or A. -/
def ArrCmd.operand (k : ArrCmd) (isB : Bool) : Operand :=
  if isB then operandB k.bLoc k.shape k.fmtB k.mask else operandA k.aLoc k.shape k.fmtA

def ArrCmd.place (k : ArrCmd) (isB : Bool) : Option Loc := if isB then k.b else some k.a

/-- The rows and elements of an operand that step group `g` needs: B whole for group 0, and the A rows of the group, which are
elements of every row where A lies transposed (R218, R228, R229). -/
def ArrCmd.part (k : ArrCmd) (isB : Bool) (g : Nat) : Operand :=
  let o := k.operand isB
  let mine (l : List Nat) : List Nat := l.filter fun m => m / 32 = g
  if isB then o
  else if shTA k.shape then { o with elems := mine o.elems }
  else { o with rows := mine o.rows }

/-- The fetches in flight of an array instruction's operand for a step group. -/
def Core.operandFlights (c : Core) (id : Nat) (isB : Bool) (g : Nat) : List Flight :=
  c.flight.filter fun f => match f.op with
    | .operand a b g' .. => a = id && b = isB && g' = g
    | _ => false

/-- The row of an operand that a flight fetches. -/
def Flight.fetchRow (f : Flight) : Nat :=
  match f.op with
  | .operand _ _ _ r .. => r
  | _ => 0

/-- A byte of row `r` of an operand at an offset from the row's first, from where it stands now; a handle operand's bytes are
those its fetch for step group `g` returned (R228). -/
def State.operandByte (s : State) (o : ArrOp) (isB : Bool) (g r off : Nat) : Byte :=
  let at_ := r * (o.cmd.operand isB).stride + off
  match o.cmd.place isB with
  | none | some .absent => 0
  | some (.spad a) => memGet s.core.spad (a + at_)
  | some (.clus k _ a) => ((s.rank k).map fun c => memGet c.spad (a + at_)).getD 0
  | _ =>
    match (s.core.operandFlights o.id isB g).find? fun f => f.fetchRow = r with
    | some f => f.data.getD off 0
    | none => 0

/-- An element of a row whose bytes are read by `rd` (R72); none where it is absent in a sparse group. -/
def rowElem (b : BitVec 32) (rd : Nat → Byte) (e : Nat) : Option Elem :=
  let w := elemBytes b * 8
  let f := (fmtOfCode (bfFmt b)).getD .i8
  if grouped b then some (groupElem b ((List.range 264).map fun i => rd (264 * (e / 256) + i)) (e % 256))
  else if bfSparse b ≠ 0 then
    let n := sparseBytes (bfSparse b) w
    (sparseElem (bfSparse b) w ((List.range n).map fun i => rd (n * (e / 12) + i)) (e % 12)).map fun v => elemOf f v
  else some (elemOf f (leNat ((List.range (w / 8)).map fun i => rd (e * (w / 8) + i))))

/-- The address, as EADDR gives it, of byte `off` of an operand: its locator with the address or offset advanced (R229). -/
def advance (loc : Word) (off : Nat) : Word :=
  if locKind loc = 2 then locWithOffset (locHandle loc) (locOffset loc + off) else loc + BitVec.ofNat 64 off

/-- The first malformed sparse group of B (R70, R222), by the address of its index word. -/
def State.badGroup (s : State) (o : ArrOp) : Option Word :=
  let k := o.cmd
  let b := k.operand true
  if k.kind ≠ .tmms then none
  else
    let n := sparseBytes (bfSparse b.fmt) (elemBytes b.fmt * 8)
    let groups := b.rows.flatMap fun r => (List.range (shK k.shape / 12)).map fun g => (r, g * n)
    (groups.find? fun x => !sparseOk (bfSparse b.fmt) ((List.range n).map fun i => s.operandByte o true 0 x.1 (x.2 + i))).map
      fun x =>
        let a := x.1 * b.stride + x.2
        if locKind k.bLoc = 2 then advance k.bLoc a else BitVec.ofNat 64 (locAddr k.bLoc + a)

/-- The B that an instruction loads. A masked column is not fetched, and holds free values should a later instruction use
it (R90, R223). -/
def State.loadB (s : State) (o : ArrOp) : HeldB :=
  let k := o.cmd
  let b := k.operand true
  let at_ (n kk : Nat) : Option Elem :=
    if k.mask.getLsbD (n / 4) then
      if shTB k.shape then rowElem b.fmt (s.operandByte o true 0 n) kk else rowElem b.fmt (s.operandByte o true 0 kk) n
    else some (elemOf .i8 (Config.byte (s.free + n * 1024 + kk)).toNat)
  { kind := k.kind, n := shN k.shape, k := shK k.shape, fmt := k.fmtB,
    cols := (List.range (shN k.shape)).map fun n => (List.range (shK k.shape)).map (at_ n) }

/-- Row `m` of A. -/
def State.loadA (s : State) (o : ArrOp) (m : Nat) : List Elem :=
  let k := o.cmd
  let rd (r : Nat) : Nat → Byte := s.operandByte o false (m / 32) r
  (List.range (shK k.shape)).map fun kk =>
    (if shTA k.shape then rowElem k.fmtA (rd kk) m else rowElem k.fmtA (rd m) kk).getD Elem.zero

/-! Results (R221, R88 to R91). -/

/-- One exact term of the sum. -/
def termNum (k : ArrKind) (a : Elem) (b : Option Elem) : Num :=
  match b with
  | none => .zero
  | some b =>
    if k = .tdist then let d := subNum 0 a.val b.val; mulNum d d else mulNum a.val b.val

def termInt (k : ArrKind) (a : Elem) (b : Option Elem) : Int :=
  match b with
  | none => 0
  | some b => if k = .tdist then (a.int - b.int) * (a.int - b.int) else a.int * b.int

/-- The exact sum of a chunk, rounded once to FP32 with RNE (R88). -/
def chunkSum : List Num → Nat
  | [] => 0
  | x :: xs => roundFloat .f32 (xs.foldl (addNum 0) x) Arith.default 0

/-- The FP32 accumulation of terms onto a word, in chunks of 16 (R88); `fuel` bounds the chunks. -/
def accumulate (old : Nat) : Nat → List Num → Nat
  | 0, _ => old
  | _, [] => old
  | n + 1, x :: xs =>
    let c := chunkSum ((x :: xs).take 16)
    accumulate (roundFloat .f32 (addNum 0 (numOf .f32 old) (numOf .f32 c)) Arith.default 0) n ((x :: xs).drop 16)

/-- One element of the result. -/
def arrayElem (k : ArrCmd) (a : List Elem) (b : List (Option Elem)) (old : BitVec 32) : BitVec 32 :=
  let old := if modeOvw k.mode then 0 else old
  if intFormat k.fmtA && intFormat k.fmtB && !modeFacc k.mode then
    BitVec.ofInt 32 ((a.zip b).foldl (fun acc q => acc + termInt k.kind q.1 q.2) old.toInt)
  else
    BitVec.ofNat 32 (accumulate old.toNat (a.length + 1) ((a.zip b).map fun q => termNum k.kind q.1 q.2))

/-- Row `m` of the result: the columns it writes. -/
def arrayRow (c : Core) (o : ArrOp) (m : Nat) : List (Nat × BitVec 32) :=
  let k := o.cmd
  match o.b with
  | none => []
  | some b =>
    let a := AMap.get [] o.a m
    (openCols (shN k.shape) k.mask).map fun n => (n, arrayElem k a (b.cols.getD n []) (c.getAcc (k.row + m) n))

/-! Timing (R225 to R228, R325). -/

def ArrOp.m (o : ArrOp) : Nat := shM o.cmd.shape
def ArrOp.c (o : ArrOp) : Nat := (rates o.cmd.kind o.cmd.fmtA o.cmd.fmtB (shK o.cmd.shape)).2.1
def ArrOp.rowFinal (o : ArrOp) (m : Nat) : Nat := o.t + o.lsrc + o.kc + rowCycles (m + 1) o.c + 12 + o.delta
def ArrOp.groupDue (o : ArrOp) (g : Nat) : Nat := o.t + o.lsrc + o.kc + rowCycles (32 * g) o.c
def ArrOp.groups (o : ArrOp) : Nat := ceilDiv o.m 32
def ArrOp.finish (o : ArrOp) : Nat := o.rowFinal (o.m - 1)
def ArrOp.goes (o : ArrOp) (g : Nat) : Bool := o.stop.all fun n => g < n
/-- Whether an operand is fetched through a handle, and so is promised. -/
def ArrOp.promised (o : ArrOp) : Bool :=
  locKind o.cmd.aLoc = 2 || (!shKeep o.cmd.shape && locKind o.cmd.bLoc = 2)

/-- The source latency of a locator (R225, R320, R325). -/
def sourceLat (c : Core) (loc : Word) : Nat :=
  match locKind loc with
  | 0 => 0
  | 1 => c.map.xmax
  | _ => c.classLat 15

/-- What falls due for an array instruction in a schedule cycle: its B, a step group of A, or a final row. -/
def ArrOp.dueAt (o : ArrOp) (cyc : Nat) : List Instr :=
  (if !shKeep o.cmd.shape && o.t + o.lsrc = cyc && o.stop.isNone && !o.full then [.arrayOperandDue o.id 0] else []) ++
  ((List.range o.groups).filter fun g => o.groupDue g = cyc && o.goes g && !o.full).map (fun g => .arrayOperandDue o.id (g + 1)) ++
  ((List.range o.m).filter fun m => o.rowFinal m = cyc && o.goes (m / 32)).map fun m => .arrayRowFinal o.id m

/-- The fetch of one row of a handle operand, whose return takes a free time; one from another package passes the commit
buffer. -/
def State.fetchRow (s : State) (o : ArrOp) (isB : Bool) (g r : Nat) (l : Loc) (spans : List (Nat × Nat)) : State :=
  let k := o.cmd
  let t := s.freeTime
  let st : Stage := if l.isRemote then .commit else .going
  let r' := locHandle (if isB then k.bLoc else k.aLoc)
  t.2.updCore fun c =>
    { c with
      flight := c.flight ++
        [{ id := c.nextId, q := k.q, pc := k.pc, path := 3, cls := k.cls, op := .operand o.id isB g r l spans, stage := st,
           due := c.pulse + 1 + (if st = .commit then 64 else t.1), sig := 0, level := c.level, quiet := false, data := [],
           marks := [], hnd := some (r', c.getH r'), late := false }]
      nextId := c.nextId + 1 }

/-- The fetch of what a step group needs of a handle operand starts (R228), row by row. -/
def State.startFetch (s : State) (o : ArrOp) (isB : Bool) (g : Nat) : State :=
  let part := o.cmd.part isB g
  match o.cmd.place isB with
  | some (.hbm a) => if part.spans = [] then s else part.rows.foldl (fun s r => s.fetchRow o isB g r (.hbm (a + r * part.stride)) part.spans) s
  | some (.remote h a) =>
    if part.spans = [] then s else part.rows.foldl (fun s r => s.fetchRow o isB g r (.remote h (a + r * part.stride)) part.spans) s
  | _ => s

/-- The fetches of an array instruction's handle operands from a step group on; with B unless it is kept. -/
def State.startFetches (s : State) (o : ArrOp) (from_ : Nat) : State :=
  let s := if shKeep o.cmd.shape then s else s.startFetch o true 0
  ((List.range o.groups).filter (from_ ≤ ·)).foldl (fun s g => s.startFetch o false g) s

/-- Issues an array instruction at the present schedule cycle (R225, R227). What is due at once comes next. -/
def State.startArray (s : State) (k : ArrCmd) : State :=
  let c := s.core
  let keep := shKeep k.shape
  let k := { k with fmtB := if keep then (c.heldB.map (·.fmt)).getD k.fmtB else k.fmtB }
  let r := rates k.kind k.fmtA k.fmtB (shK k.shape)
  let kc := if keep then 0 else r.1
  let lsrc := max (sourceLat c k.aLoc) (if keep then 0 else sourceLat c k.bLoc)
  let o : ArrOp :=
    { id := c.nextId, t := c.cycle, lsrc := lsrc, kc := kc, delta := c.classLat 14, cmd := k,
      b := if keep then c.heldB else none, a := [], stop := none, bad := none, full := false }
  let s := s.updCore fun c =>
    { c with arr := c.arr ++ [o], arrBusy := c.cycle + lsrc + kc + rowCycles (shM k.shape) r.2.1, nextId := c.nextId + 1 }
  let s := s.startFetches o 0
  { s with agenda := o.dueAt s.core.cycle ++ s.agenda }

/-- An array instruction on MX (R224). -/
def arrayOp (k : ArrKind) (o : Mat) (u : Ctx) (s : State) : Eff := do
  let cmd ← arrayChecks s u k o.a o.b o.s o.row.toNat o.mode false
  need (s.core.arrBusy ≤ s.core.cycle) Cause.undersizedDelay 0
  pure (s.startArray cmd)

/-- TMMA (R221). -/
def execTmma (h : Long) (o : Mat) (s : State) : Out := issue (.tmma h o) s (arrayOp .tmma o)
/-- TMMS (R222). -/
def execTmms (h : Long) (o : Mat) (s : State) : Out := issue (.tmms h o) s (arrayOp .tmms o)
/-- TDIST (R91). -/
def execTdist (h : Long) (o : Mat) (s : State) : Out := issue (.tdist h o) s (arrayOp .tdist o)

/-- MXSTAGE (R233, R58): checks and stages a command; its post comes at the command's completion. That none is
staged already is checked last.
Log entry 84 (DESIGN CHOICE). -/
def execMxstage (h : Long) (o : MxStage) (s : State) : Out :=
  issue (.mxstage h o) s fun u s => do
    let k : ArrKind := match o.op.toNat with
      | 0 => .tmma
      | 1 => .tmms
      | _ => .tdist
    let cmd ← arrayChecks s u k o.a o.b o.s o.row.toNat o.mode true
    need s.core.staged.isNone Cause.illegalField 0
    pure (s.updCore fun c => { c with staged := some ⟨cmd⟩, nextId := c.nextId + 1 })

/-! Suspension and resumption (R229 to R232). -/

/-- A cause that is raised at the next boundary with EPC at the next unit (R229, R240, R286). -/
def Core.pendNext (c : Core) (q : SeqId) (cause : Cause) (ea : Word) : Core :=
  { c with pend := c.pend ++ [{ q := q, cause := cause, epc := none, eaddr := ea, late := false, level := c.level, waited := false }] }

/-- Stops an array instruction at a step group (R229); the held B becomes invalid (R223). -/
def Core.suspend (c : Core) (o : ArrOp) (g : Nat) : Core :=
  let o := { o with stop := some g }
  { c with
    arr := c.arr.map fun x => if x.id = o.id then o else x
    suspended := some ⟨g, false, o⟩, bvalid := false, heldB := none }

/-- An abandoned instruction (R231): PEND and BVALID clear; its rows from the group on keep their values. -/
def Core.abandonArray (c : Core) : Core := { c with suspended := none, bvalid := false }

/-- What TL's return to 0 does to a suspended instruction (R231): with ARM its operands are fetched again, and it resumes
when they are there; without, it is abandoned. -/
def State.resumeArray (s : State) : State :=
  match s.core.suspended with
  | none => s.updCore fun c => { c with resuming := false }
  | some p =>
    if !p.armed then s.updCore fun c => { c.abandonArray with resuming := false }
    else
      let s := s.updCore fun c =>
        { c with
          resuming := true
          flight := c.flight.filter fun f => match f.op with
            | .operand a .. => a != p.op.id
            | _ => true }
      s.startFetches p.op p.group

/-- MXRES (R231). -/
def execMxres (h : Long) (s : State) : Out :=
  issue (.mxres h) s fun u s =>
    if s.core.tl = 0 ∨ s.core.suspended = none then trapWith Cause.illegalField
    else .ok ((s.updCore fun c => { c with suspended := c.suspended.map fun p => { p with armed := true } }).completeAfter u 1 [])

/-- TRET (R177), and what it does to a suspended array instruction when TL returns to 0 (R231). -/
def execTret (h : Short) (s : State) : Out :=
  issue (.tret h) s fun _ s =>
    if s.core.tl = 0 then trapWith Cause.illegalField
    else
      let s := trapReturn s
      .ok (if s.core.tl = 0 then s.resumeArray else s)

/-! The ACC instructions (R234 to R237). -/

/-- The effective row of an ACC instruction, which must lie below `2048 - n + 1` (R234). -/
def accRow (s : State) (u : Ctx) (row xr : Nat) (n : Nat) : Except TrapRec Nat :=
  let r := BitVec.ofNat 5 xr
  let e := (row + (s.x u r).toNat) % 2 ^ 64
  if s.xPoison u r then .error ⟨Cause.undersizedDelay, 0⟩
  else if e + n > 2048 then .error ⟨Cause.illegalField, 0⟩
  else .ok e

/-- Whether an issued instruction has still to write a word of columns `lo` to `hi` of an ACC row in a cycle not before
`cyc` (R226, R26). -/
def Core.accOwed (c : Core) (row lo hi cyc : Nat) : Bool :=
  c.arr.any (fun o =>
    let m := row - o.cmd.row
    decide (o.cmd.row ≤ row) && decide (m < o.m) && o.goes (m / 32) && decide (cyc ≤ o.rowFinal m) &&
      (openCols (shN o.cmd.shape) o.cmd.mask).any fun n => lo ≤ n && n ≤ hi) ||
  c.accWr.any fun w => decide (cyc ≤ w.cyc) && (match w.eff with
    | .cols r vs => r = row && vs.any fun q => lo ≤ q.1 && q.1 ≤ hi
    | .zero r n => r ≤ row && row < r + n)

/-- Adds a pending ACC write in issue order (R236). -/
def insertAcc (w : AccWrite) : List AccWrite → List AccWrite
  | [] => [w]
  | x :: xs => if w.id < x.id then w :: x :: xs else x :: insertAcc w xs

/-- ACCRD (R235). -/
def execAccrd (h : Long) (o : AccMov) (s : State) : Out :=
  issue (.accrd h o) s fun u s => do
    let c := s.core
    let row ← accRow s u o.row.toNat o.xr.toNat 1
    let lo := 32 * o.cg.toNat
    need (!(c.udchk && c.accOwed row lo (lo + 31) c.cycle)) Cause.undersizedDelay 0
    let m := physOp c.rbase o.m
    let occ := occupancy c.map m
    let v := Vec.ofFn (fun e => c.getAcc row (lo + e)) (fun _ => false)
    let r := c.reserve .write m (c.cycle + 1)
    let c := r.2
    let w : MrfWrite := ⟨c.nextId, r.1, r.1 + occ - 1, m, v, BitVec.allOnes 32, false⟩
    let c := { c with mwr := c.mwr ++ [w], nextId := c.nextId + 1 }
    pure { s with core := c.complete u.q u.pc occ [] u.sig }

/-- ACCWR (R235): a poisoned vector, or a late read, traps. -/
def execAccwr (h : Long) (o : AccMov) (s : State) : Out :=
  issue (.accwr h o) s fun u s => do
    let c := s.core
    let row ← accRow s u o.row.toNat o.xr.toNat 1
    let m := physOp c.rbase o.m
    let occ := occupancy c.map m
    let v := readVec c.mrf m
    let r := c.reserve .read m c.cycle
    need (r.1 = c.cycle && v.poison = 0 && !(c.udchk && c.mrfOwed m)) Cause.undersizedDelay 0
    let c := r.2
    let w : AccWrite :=
      ⟨c.nextId, c.cycle + occ, .cols row ((List.range 32).map fun e => (32 * o.cg.toNat + e, v.cell e))⟩
    let c := { c with accWr := insertAcc w c.accWr, nextId := c.nextId + 1 }
    pure { s with core := c.complete u.q u.pc occ [] u.sig }

/-- ACCZ (R235): 32 rows a cycle. -/
def execAccz (h : Long) (o : Accz) (s : State) : Out :=
  issue (.accz h o) s fun u s => do
    let c := s.core
    let n := o.n.toNat + 1
    let row ← accRow s u o.row.toNat o.xr.toNat n
    let ws := (List.range (ceilDiv n 32)).map fun i =>
      (⟨c.nextId, c.cycle + 1 + i, .zero (row + 32 * i) (min 32 (n - 32 * i))⟩ : AccWrite)
    let c := { c with accWr := ws.foldl (fun acc w => insertAcc w acc) c.accWr, nextId := c.nextId + 1 }
    pure { s with core := c.complete u.q u.pc (ceilDiv n 32) [] u.sig }

/-- Whether value `a` ranks before value `b` (R92); a NaN ranks after every number. -/
def ranksBefore (mx f32 : Bool) (a b : BitVec 32) : Bool :=
  if f32 then
    let x := numOf .f32 a.toNat
    let y := numOf .f32 b.toNat
    if x.isNan then false
    else if y.isNan then true
    else cmpNum (if mx then y else x) (if mx then x else y) = some .lt
  else if mx then b.slt a else a.slt b

/-- The first of a list in rank order: the lower column wins among equals, since columns rise (R92). -/
def bestOf (mx f32 : Bool) : List (Nat × BitVec 32) → Option (Nat × BitVec 32)
  | [] => none
  | x :: xs => some (xs.foldl (fun b y => if ranksBefore mx f32 y.2 b.2 then y else b) x)

/-- The first `k` in rank order. -/
def topK (mx f32 : Bool) : Nat → List (Nat × BitVec 32) → List (Nat × BitVec 32)
  | 0, _ => []
  | k + 1, xs =>
    match bestOf mx f32 xs with
    | none => []
    | some b => b :: topK mx f32 k (xs.filter fun x => x.1 != b.1)

/-- The MRF write of a TTOPK row, read and ranked now (R237). -/
def TopkRow.write (r : TopkRow) (c : Core) : MrfWrite :=
  let best := topK r.mx r.f32 r.k ((List.range r.nc).map fun n => (n, c.getAcc r.row n))
  let cell (e : Nat) : BitVec 32 :=
    if e < r.k then BitVec.ofNat 32 ((best.getD e (0, 0)).1)
    else if 16 ≤ e ∧ e < 16 + r.k then (best.getD (e - 16) (0, 0)).2 else 0
  ⟨r.id, r.start, r.fin, r.m, Vec.ofFn cell (fun _ => false), BitVec.allOnes 32, false⟩

/-- Reserves the row writes of a TTOPK in order (R237, R31). -/
def topkRows (c : Core) (o : Ttopk) (reg : Nat) : List Nat → Core × List TopkRow
  | [] => (c, [])
  | i :: is =>
    let m : BitVec 12 := BitVec.ofNat 12 (reg * 32 + i)
    let r := c.reserve .write m (c.cycle + 2 * i + 19)
    let rest := topkRows r.2 o reg is
    let row : TopkRow :=
      ⟨c.nextId, c.cycle + 2 * i, o.row.toNat + i, r.1, r.1 + occupancy c.map m - 1, m, o.k.toNat + 1, o.max, o.f32,
        o.nc.toNat + 1⟩
    (rest.1, row :: rest.2)

/-- TTOPK (R237). -/
def execTtopk (h : Long) (o : Ttopk) (s : State) : Out :=
  issue (.ttopk h o) s fun u s => do
    let c := s.core
    let n := o.nr.toNat + 1
    need (c.topkUntil ≤ c.cycle &&
      !(c.udchk && (List.range n).any fun i => c.accOwed (o.row.toNat + i) 0 o.nc.toNat (c.cycle + 2 * i)))
      Cause.undersizedDelay 0
    let r := topkRows c o (phys c.rbase o.m.toNat) (List.range n)
    let c := r.1
    let now : List TopkRow := r.2.filter (fun (x : TopkRow) => x.readAt = c.cycle)
    let c := { c with
      mwr := c.mwr ++ now.map (fun x => TopkRow.write x c), topk := c.topk ++ r.2.filter (fun (x : TopkRow) => x.readAt != c.cycle),
      topkUntil := c.cycle + 2 * n + 17, nextId := c.nextId + 1 }
    pure { s with core := c.complete u.q u.pc (2 * n + 17) [] u.sig }

end Sys2Proof.Machine
end

