-- ==== Sys2Proof/Machine/Untimed.lean ====
section
/-!
DEFINITION. What untimed operations share: memory by place, the operations in flight and how they hold their sequencer,
complete or fail (R98 to R104, R238 to R241, R295, R296), packets and requests to other packages (R399, R406, R411, R418),
and the pulses of a core.
-/

namespace Sys2Proof.Machine

open Sys2Proof

/-! Cores of the package. -/

/-- The number of a core: CORE_ID bits [8:0] (R321).
Log entry 24 (DEDUCED). -/
def coreId (die cluster core : Nat) : Nat := die * 256 + cluster * 8 + core
def Core.id (c : Core) : Nat := coreId c.die c.cluster c.core

/-- Changes the core of a number, wherever it stands. -/
def State.updCoreId (s : State) (n : Nat) (f : Core → Core) : State :=
  if s.core.id = n then s.updCore f else { s with parked := s.parked.map fun c => if c.id = n then f c else c }

/-- The core of a number. -/
def State.coreAt (s : State) (n : Nat) : Option Core :=
  if s.core.id = n then some s.core else s.parked.find? fun c => c.id = n

def State.updHub (s : State) (f : Hub → Hub) : State := { s with hub := f s.hub }

/-- Every core of the package. -/
def State.cores (s : State) : List Core := s.core :: s.parked

/-- The owner of a request of a core's task. -/
def Core.owner (c : Core) (n : Nat) : Owner := ⟨(c.task.map (·.gang)).getD 0, (c.task.map (·.rank)).getD 0, n⟩

/-- Whether a core holds an owner's task. -/
def Owner.on (o : Owner) (c : Core) : Bool := c.task.any fun t => t.gang = o.gang && t.rank = o.rank

/-- Changes the core that holds an owner's task, or the task's saved record; no other task is reached (R419). -/
def State.updOwner (s : State) (o : Owner) (f : Core → Core) : State :=
  let go (c : Core) : Core := if o.on c then f c else c
  { s with
    core := go s.core, parked := s.parked.map go
    hub := { s.hub with saved := s.hub.saved.map fun r => { r with core := go r.core } } }

/-- The core of a rank of the gang of the core in hand, changed. -/
def State.updRank (s : State) (r : Nat) (f : Core → Core) : State :=
  match s.core.task with
  | none => s
  | some t =>
    if t.rank = r then s.updCore f
    else
      { s with parked := s.parked.map fun c => if c.task.any fun u => u.gang = t.gang && u.rank = r then f c else c }

/-! HBM stacks (R425, R427). -/

/-- The base die of a page. -/
def baseDieOf (p : Nat) : Nat := Config.baseDie p % 8

/-- Whether an HBM stack has had its step of the kindling order. -/
def Hub.stackOpen (h : Hub) (d : Nat) : Bool := (h.power.unitLevel.getD (42 + d) none).isSome

/-- Whether every stack has. -/
def Hub.stacksOpen (h : Hub) : Bool := (List.range 8).all h.stackOpen

/-- The pages that an extent of HBM touches. -/
def pagesOf (pa n : Nat) : List Nat :=
  if n = 0 then [] else (List.range ((pa + n - 1) / 65536 - pa / 65536 + 1)).map fun i => pa / 65536 + i

/-- Whether the stacks of an extent have started: before its step a stack takes no work. -/
def Hub.hbmOpen (h : Hub) (pa n : Nat) : Bool := h.stacksOpen || (pagesOf pa n).all fun p => h.stackOpen (baseDieOf p)

/-- Eighths of its bandwidth that a stack gives the copy engines at its level; none before its first start. -/
def Hub.copyShare (h : Hub) (d : Nat) : Nat :=
  match h.power.unitLevel.getD (42 + d) none with
  | none => 0
  | some l => (h.power.table.getD l []).getD 2 8

/-- Whether the copy engines may use a stack in a tick: in the first so many of every eight.
Log entry 100 (DESIGN CHOICE). -/
def Hub.stackServes (h : Hub) (tick d : Nat) : Bool := decide (tick % 8 < h.copyShare d)

/-- Whether a copy engine may reach an extent of HBM in a tick. -/
def Hub.copyServes (h : Hub) (tick pa n : Nat) : Bool :=
  (List.range 8).all (h.stackServes tick) || (pagesOf pa n).all fun p => h.stackServes tick (baseDieOf p)

/-! Dirty pages (R436). -/

/-- Adds a page to the dirty set of the checkpoint copier. -/
def Hub.touch (h : Hub) (pa n : Nat) : Hub :=
  if h.ckpt.ctl.getLsbD 0 && 0 < n then { h with ckpt := { h.ckpt with dirty := (h.ckpt.dirty ++ pagesOf pa n).eraseDups } }
  else h

/-- The pages of the mark being copied that a write reaches and whose old content is not staged yet (R437). -/
def Hub.unstaged (h : Hub) (pa n : Nat) : List Nat :=
  h.ckpt.pages.filter fun p => p * 65536 < pa + n && pa < p * 65536 + 65536 && !h.ckpt.staged.any (·.1 = p)

/-- Stages the old content of those pages. -/
def Hub.stagePages (h : Hub) (pa n : Nat) : Hub :=
  { h with ckpt := { h.ckpt with
      staged := h.ckpt.staged ++
        (h.unstaged pa n).map fun p => (p, memRead h.hbm (p * 65536) 65536, marksIn h.hbmUe (p * 65536) 65536) } }

/-- Staged pages that a base die can hold (R437). -/
def stagingRoom : Nat := 4096

/-- Whether a base die has no room for those of some pages that are its own. -/
def Hub.stagingFull (h : Hub) (new : List Nat) : Bool :=
  new.any fun p =>
    let mine (l : List Nat) : Nat := (l.filter fun q => baseDieOf q = baseDieOf p).length
    decide (stagingRoom < mine (h.ckpt.staged.map (·.1)) + mine new)

/-- Whether a write must wait for staging room, or behind one that does. -/
def Hub.mustHold (h : Hub) (pa n : Nat) : Bool :=
  (h.heldWrites.any fun w => w.pa < pa + n && pa < w.pa + w.bytes.length) || h.stagingFull (h.unstaged pa n)

/-- A write performed at a base die. -/
def Hub.takeIn (h : Hub) (pa : Nat) (bs : List Byte) (marks : List Nat) : Hub :=
  let h := (h.stagePages pa bs.length).touch pa bs.length
  { h with hbm := memWrite h.hbm pa bs, hbmUe := setMarks h.hbmUe pa bs.length (marks.map (pa + ·)) }

/-- A write that reaches a base die: it is performed, or held there (R437). An address beyond the package's 768 GiB is memory
like any other.
Log entry 67 (DESIGN CHOICE). -/
def Hub.writeHbm (h : Hub) (pa : Nat) (bs : List Byte) (marks : List Nat) : Hub :=
  if h.mustHold pa bs.length then
    { h with heldWrites := h.heldWrites ++ [⟨h.nextId, pa, bs, marks⟩], nextId := h.nextId + 1 }
  else h.takeIn pa bs marks

/-- Bytes of HBM as an access reads them: a held write counts as made. -/
def Hub.readHbm (h : Hub) (pa n : Nat) : List Byte :=
  h.heldWrites.foldl (fun bs w => bs.mapIdx fun i b =>
    if w.pa ≤ pa + i ∧ pa + i < w.pa + w.bytes.length then w.bytes.getD (pa + i - w.pa) b else b) (memRead h.hbm pa n)

/-- The marks among those bytes, by place in the extent. -/
def Hub.readMarks (h : Hub) (pa n : Nat) : List Nat :=
  (marksIn (h.heldWrites.foldl (fun ue w => setMarks ue w.pa w.bytes.length (w.marks.map (w.pa + ·))) h.hbmUe) pa n).map (· - pa)

/-! Memory by place. -/

/-- Cycles of the commit buffer (R6, R299). -/
def commitDelay : Nat := 64

/-- Writes bytes into a scratchpad, for every core to see. -/
def Core.writeSpad (c : Core) (a : Nat) (bs : List Byte) (marks : List Nat) : Core :=
  { c with
    spad := memWrite c.spad a bs, spadUe := setMarks c.spadUe a bs.length (marks.map (a + ·)),
    veil := c.veil.filter fun v => !(a ≤ v.addr && v.addr < a + bs.length) }

/-- What other cores are not to see of an own write, with what is hidden already (R299). -/
def Core.veilOver (c : Core) (a n : Nat) : List Veil :=
  c.veil.filter (fun v => c.pulse < v.till) ++
    (List.range n).map fun i => ⟨c.pulse + commitDelay, a + i, memGet c.spad (a + i), c.spadUe.contains (a + i)⟩

/-- Writes bytes into the core's own scratchpad, which other cores see after the commit delay (R299).
Log entry 20 (DEDUCED). -/
def Core.writeSpadOwn (c : Core) (a : Nat) (bs : List Byte) (marks : List Nat) : Core :=
  { c.writeSpad a bs marks with veil := c.veilOver a bs.length }

/-- The ranks a cluster place names (R47). -/
def clusterRanks (rank : Nat) (mcast : BitVec 8) : List Nat :=
  if mcast = 0 then [rank] else (List.range 8).filter fun r => mcast.getLsbD r

/-- Bytes at a place as they stand, with the places of the marked ones. A page that is not resident reads as zero. -/
def State.readLoc (s : State) (l : Loc) (off n : Nat) : List Byte × List Nat :=
  match l with
  | .spad a => (memRead s.core.spad (a + off) n, (marksIn s.core.spadUe (a + off) n).map (· - (a + off)))
  | .clus r _ a =>
    match s.rank r with
    | some c => (memRead c.spad (a + off) n, (marksIn c.spadUe (a + off) n).map (· - (a + off)))
    | none => (List.replicate n 0, [])
  | .hbm a => (s.hub.readHbm (a + off) n, s.hub.readMarks (a + off) n)
  | _ => (List.replicate n 0, [])

/-- Bytes laid over a list from a place on. -/
def putBytes (bs : List Byte) (off : Nat) (new : List Byte) : List Byte := bs.take off ++ new ++ bs.drop (off + new.length)

/-- The bytes of some spans from a place on, zeros between them, with the places of the marked ones. -/
def State.readSpans (s : State) (l : Loc) (spans : List (Nat × Nat)) : List Byte × List Nat :=
  spans.foldl (fun acc x =>
    let r := s.readLoc l x.1 x.2
    (putBytes acc.1 x.1 r.1, acc.2 ++ r.2.map (x.1 + ·))) (List.replicate (spansEnd spans) 0, [])

/-- Bytes written at a place of this package, for every core to see. -/
def State.writeLoc (s : State) (l : Loc) (bs : List Byte) (marks : List Nat) : State :=
  match l with
  | .spad a => s.updCore fun c => c.writeSpad a bs marks
  | .clus r m a => (clusterRanks r m).foldl (fun s r => s.updRank r fun c => c.writeSpad a bs marks) s
  | .hbm a => s.updHub fun h => h.writeHbm a bs marks
  | _ => s

/-- Bytes written at a place of this package by an access that took effect inside the core at once; what left the core has passed
the commit buffer. -/
def State.writeOwn (s : State) (l : Loc) (bs : List Byte) (marks : List Nat) : State :=
  match l with
  | .spad a => s.updCore fun c => c.writeSpadOwn a bs marks
  | _ => s.writeLoc l bs marks

/-- A place moved on by an offset. -/
def Loc.advance (l : Loc) (off : Int) : Loc :=
  match l with
  | .spad a => .spad (a + off).toNat
  | .clus r m a => .clus r m (a + off).toNat
  | .hbm a => .hbm (a + off).toNat
  | .remote h a => .remote h (a + off).toNat
  | .absent => .absent

/-- The physical address of a place, for the error record (R298); a scratchpad's is its local address. -/
def Loc.addr : Loc → Nat
  | .spad a => a
  | .clus _ _ a => a
  | .hbm a => a
  | .remote _ a => a
  | .absent => 0

/-- The memory a place lies in and its address there; a page that is not resident lies in none. A virtual address names the same bytes
whichever package its page moves to (R122). -/
def Loc.space : Loc → Nat × Nat
  | .spad a => (0, a)
  | .clus r m a => (if m = 0 then 1 + r else 9, a)
  | .hbm a => (10, a)
  | .remote _ a => (11, a)
  | .absent => (10000, 0)

/-- Whether `n` bytes at one place and `m` at another share a byte. -/
def overlap (a : Loc) (n : Nat) (b : Loc) (m : Nat) : Bool :=
  a.space.1 = b.space.1 && a.space.1 != 10000 && decide (a.space.2 < b.space.2 + m) && decide (b.space.2 < a.space.2 + n)

/-- Whether an access of the core in hand, of an identity, lies in a page that began to move away before it (R402). -/
def State.inTransit (s : State) (l : Loc) (n id : Nat) : Bool :=
  match l with
  | .hbm a => s.hub.migrations.any fun m =>
      decide (m.pa < a + n) && decide (a < m.pa + 65536) && decide (AMap.get 0 m.marks s.core.id ≤ id)
  | _ => false

/-- Whether an access of the core in hand has to wait at HBM: its page moves away, or its stack has not started (R402, R425). -/
def State.hbmHeld (s : State) (l : Loc) (n id : Nat) : Bool :=
  s.inTransit l n id || match l with
    | .hbm a => !s.hub.hbmOpen a n
    | _ => false

/-! The timed domain (R22). -/

/-- Whether the timed domain is held by where the core stands: a trap holds it, but not at a safe point where a continuation waits for
the pipeline to become empty (R22, R332). -/
def Core.stands (c : Core) : Bool :=
  match c.status with
  | .running => c.tl != 0
  | .swapping _ => false
  | _ => true

/-- Whether the timed domain is held apart from an interlock (R22); issued portable forms complete first (R214). -/
def Core.domainHeld (c : Core) : Bool := if c.drainForms then false else c.stands || c.mxWait || c.resuming

/-- The untimed vector writes that finished in the pulse before reach the MRF (R31, R249). -/
def Core.landSide (c : Core) : Core :=
  { c with mrf := c.sideWr.foldl (fun m w => writeVec m w.1 w.2 (BitVec.allOnes 32)) c.mrf, sideWr := [] }

/-! Operations in flight. -/

def Core.flightOf (c : Core) (n : Nat) : Option Flight := c.flight.find? fun f => f.id = n
def Core.dropFlight (c : Core) (n : Nat) : Core := { c with flight := c.flight.filter fun f => f.id != n }
def Core.updFlight (c : Core) (n : Nat) (g : Flight → Flight) : Core :=
  { c with flight := c.flight.map fun f => if f.id = n then g f else f }

/-- Puts an operation in flight through a translation it has latched; it holds its sequencer where `hold` says so (R239, R242). -/
def Core.launchVia (c : Core) (u : Ctx) (path : Nat) (op : Op) (stage : Stage) (due : Nat) (hnd : Option (Option (BitVec 5) × Hnd))
    (hold : Bool) : Core :=
  let f : Flight :=
    { id := c.nextId, q := u.q, pc := u.pc, path := path, cls := u.cls, op := op, stage := stage, due := c.pulse + due,
      sig := u.sig, level := c.level, quiet := false, data := [], marks := [], hnd := hnd, late := false }
  let c := { c with flight := c.flight ++ [f], nextId := c.nextId + 1 }
  if hold then c.updSeq u.q fun q => { q with hold := some f.id } else c

/-- Puts an operation in flight, through a handle's register or none. -/
def Core.launch (c : Core) (u : Ctx) (path : Nat) (op : Op) (stage : Stage) (due : Nat) (hnd : Option (BitVec 5)) (hold : Bool) : Core :=
  c.launchVia u path op stage due (hnd.map fun r => (some r, c.getH r)) hold

/-- Puts an operation in flight whose first event comes after a free time. -/
def State.launch (s : State) (u : Ctx) (path : Nat) (op : Op) (hnd : Option (BitVec 5)) (hold : Bool) : State :=
  let t := s.freeTime
  t.2.updCore fun c => c.launch u path op .going (1 + t.1) hnd hold

/-- Puts an outward effect in the commit buffer (R299). -/
def Core.launchOut (c : Core) (u : Ctx) (path : Nat) (op : Op) (hnd : Option (BitVec 5)) (hold : Bool) : Core :=
  c.launch u path op .commit commitDelay hnd hold

/-- Lets a sequencer go on that an operation held: its next unit issues no earlier than the next cycle (R239). -/
def Core.release (c : Core) (f : Flight) : Core :=
  c.updSeq f.q fun q => if q.hold = some f.id then { q with hold := none, last := c.now f.q, minGap := 1, redo := false } else q

/-- Ends an operation: its hold ends and, unless it was silenced, its post is made (R16, R297). -/
def Core.finish (c : Core) (f : Flight) : Core :=
  let c := (c.dropFlight f.id).release f
  if f.quiet then c else c.post f.id f.q f.pc f.sig

/-- A late fault (R240): no post, EPC at the next unit. -/
def Core.lateFault (c : Core) (q : SeqId) (cause : Cause) (ea : Word) (level : Nat) : Core :=
  { c with pend := c.pend ++ [{ q := q, cause := cause, epc := none, eaddr := ea, late := true, level := level, waited := false }] }

/-- Ends an operation with a late fault. -/
def Core.failLate (c : Core) (f : Flight) (cause : Cause) (ea : Word) : Core :=
  ((c.dropFlight f.id).release f).lateFault f.q cause ea f.level

/-- Ends an operation that held its sequencer with a precise trap at its unit, which issues again (R239, R247, R273). -/
def Core.failHeld (c : Core) (f : Flight) (cause : Cause) (ea : Word) : Core :=
  let c := (c.dropFlight f.id).release f
  { c with
    pend := c.pend ++
      [{ q := f.q, cause := cause, epc := some f.pc, eaddr := ea, late := false, level := f.level, waited := false }] }

/-- A cause raised at the next boundary that is no late fault and leaves the instruction in place (R102, R229).
Log entry 46 (DEDUCED). -/
def Core.earlyRead (c : Core) (f : Flight) (ea : Word) : Core :=
  let c := (c.dropFlight f.id).release f
  { c with
    pend := c.pend ++
      [{ q := f.q, cause := Cause.earlyRead, epc := none, eaddr := ea, late := false, level := f.level, waited := false }] }

/-- Notes the consumption of marked bytes (R295, R296). -/
def Core.consume (c : Core) (q : SeqId) (pc : Word) (addr : Nat) : Core :=
  { c with consumed := c.consumed ++ [⟨q, pc, addr, c.level⟩] }

/-- What of an access lies where: the place and extent that a flight reads or writes, and whether it writes. -/
def Flight.extent (f : Flight) : Option (Loc × Nat × Bool) :=
  match f.op with
  | .load _ l n _ _ _ => some (l, n, false)
  | .store l bs => some (l, bs.length, true)
  | .ordLoad _ l n _ => some (l, n, false)
  | .ordStore l bs => some (l, bs.length, true)
  | _ => none

/-- Every place and extent that a flight reads or writes: an operand's fetch reads the spans of its row. -/
def Flight.extents (f : Flight) : List (Loc × Nat) :=
  match f.op with
  | .operand _ _ _ _ l spans => spans.map fun x => (l.advance x.1, x.2)
  | _ => (f.extent.map fun x => (x.1, x.2.1)).toList

/-- The array instruction whose operand a flight fetches. -/
def Flight.forArray (f : Flight) : Option Nat :=
  match f.op with
  | .operand a .. => some a
  | _ => none

/-- Whether an operation has been performed, or has ended without. -/
def Flight.over (f : Flight) : Bool := f.stage = .done || f.stage = .refused || f.stage = .timedOut

/-- Whether an access must wait for another of its sequencer, path and class (R99, R122): an earlier one in program order that
overlaps it and has not been performed. The fetches of one array instruction have no order among themselves. -/
def Core.blocked (c : Core) (f : Flight) : Bool :=
  c.flight.any fun g =>
    g.id < f.id && g.q = f.q && g.path = f.path && g.cls = f.cls && !g.over && !(g.forArray.isSome && g.forArray = f.forArray) &&
      f.extents.any fun x => g.extents.any fun y => overlap x.1 x.2 y.1 y.2

/-- Whether a timed copy or CPACC has a byte of an extent of a rank's scratchpad as its destination (R102); `own` says that the rank is
that of the command's core. -/
def EngineCmd.reaches (m : EngineCmd) (own : Bool) (rank a n : Nat) : Bool :=
  m.timed && m.dests.any fun d =>
    match d.1 with
    | .spad b => own && decide (a < b + d.2) && decide (b < a + n)
    | .clus r mc b => (clusterRanks r mc).contains rank && decide (a < b + d.2) && decide (b < a + n)
    | _ => false

/-- Whether core `k` has a byte of an extent in flight, from a command's acceptance up to its completion cycle (R102). -/
def Core.writing (k : Core) (own : Bool) (rank a n : Nat) : Bool := k.cmds.any fun m => m.reaches own rank a n

/-- Whether an extent of the scratchpad of a rank of the gang is in flight (R102). -/
def State.inFlight (s : State) (rank a n : Nat) : Bool :=
  match s.core.task with
  | none => false
  | some t =>
    s.cores.any fun k => k.task.any fun u => u.gang = t.gang && k.writing (decide (u.rank = rank)) rank a n

/-- EARLY_READ's check of a read of a scratchpad (R26, R102). -/
def State.readsEarly (s : State) (l : Loc) (n : Nat) : Bool :=
  match l with
  | .spad a => s.core.erchk && s.inFlight ((s.core.task.map (·.rank)).getD 0) a n
  | .clus r _ a => s.core.erchk && s.inFlight r a n
  | _ => false

/-- Notes a read of a scratchpad for the commands that are accepted later in the same cycle (R102). -/
def State.noteRead (s : State) (q : SeqId) (l : Loc) (n : Nat) (ea : Word) : State :=
  let note (rank a : Nat) : State := s.updCore fun c =>
    if c.erchk then { c with reads := c.reads ++ [⟨s.tick, q, c.level, rank, a, n, ea⟩] } else c
  match l with
  | .spad a => note ((s.core.task.map (·.rank)).getD 0) a
  | .clus r _ a => note r a
  | _ => s

/-- Raises EARLY_READ on a core for a read of this tick that a command accepted now has made early; the read has taken effect.
Log entry 93 (DESIGN CHOICE). -/
def Core.earlyBy (c : Core) (tick : Nat) (t : Task) (k : EngineCmd) : Core :=
  if c.task.any fun u => u.gang = t.gang then
    { c with pend := c.pend ++
        (c.reads.filter fun x => x.tick = tick && k.reaches (decide (t.rank = x.rank)) x.rank x.a x.n).map fun x =>
          { q := x.q, cause := Cause.earlyRead, epc := none, eaddr := x.ea, late := false, level := x.level, waited := false } }
  else c

/-- The reads that the gang made of a command's destination in the cycle of its acceptance are early (R102). -/
def State.earlyReads (s : State) (k : EngineCmd) : State :=
  match s.core.task with
  | some t =>
    if k.timed then { s with core := s.core.earlyBy s.tick t k, parked := s.parked.map fun c => c.earlyBy s.tick t k } else s
  | none => s

/-! Packets (R406, R407, R411, R414). -/

def Hub.func (h : Hub) (f : Nat) : Func := AMap.get Func.reset h.funcs f
def Hub.setFunc (h : Hub) (f : Nat) (v : Func) : Hub := { h with funcs := AMap.set Func.reset h.funcs f v }
def Hub.updFunc (h : Hub) (f : Nat) (g : Func → Func) : Hub := h.setFunc f (g (h.func f))

/-- The valid routes to a package, in index order (R410, R411). -/
def Hub.routes (h : Hub) (pkg : Nat) : List (BitVec 128) :=
  ((List.range 4).map fun i => AMap.get 0 h.paths (pkg * 4 + i)).filter fun r => r.getLsbD 84

/-- The ports and hop count of a route. -/
def routePorts (r : BitVec 128) : List Nat := (List.range 16).map fun i => r.toNat / 2 ^ (5 * i) % 32
def routeHops (r : BitVec 128) : Nat := r.toNat / 2 ^ 80 % 16

/-- The route a packet for address `v` takes: a request takes route (v >> 16) mod n, the others the first (R411). -/
def Hub.routeFor (h : Hub) (pkg v : Nat) (spread : Bool) : Option (BitVec 128) :=
  let rs := h.routes pkg
  if rs = [] then none else rs[if spread then v / 65536 % rs.length else 0]?

/-- The records of a unit of a hub map: kind 10 at a port, or kind 11, the crossbar (R412). -/
def HubMap.unit (m : HubMap) (kind port : Nat) : List (List Byte) :=
  m.units.filter fun u => (u.getD 0 0).toNat = kind && (kind = 11 || (u.getD 4 0).toNat = port)

/-- Whether a unit of the hub map in force is not as it was in the map with a digest (R413). -/
def Hub.unitChanged (h : Hub) (digest : BitVec 384) (kind port : Nat) : Bool :=
  digest != h.hubMap.digest &&
    match h.oldHubs.find? fun m => m.digest = digest with
    | none => true
    | some m => m.unit kind port != h.hubMap.unit kind port

/-- Whether a slot entry, from an input to an output, is void. -/
def Hub.entryVoid (h : Hub) (t : SlotTable) (e : Nat × Nat) : Bool :=
  h.unitChanged t.digest 11 0 || h.unitChanged t.digest 10 e.1 || (decide (e.2 < 24) && h.unitChanged t.digest 10 e.2)

/-- The entries of the slot table in force that hold in a tick (R412). -/
def Hub.slotEntries (h : Hub) (tick : Nat) : List (Nat × Nat) :=
  match h.slotNow with
  | none => []
  | some t => (t.slots.getD (tick / 4 % 256) []).filter fun e => !h.entryVoid t e

/-- The destination and route of a circuit to a package, where its packets are slotted: its entries hold, and its first link has
slotting (R413, R416). -/
def Hub.circuitRoute (h : Hub) (circuit dst : Nat) : Option (Nat × Nat) :=
  match h.slotNow with
  | none => none
  | some t =>
    match t.circs.find? fun q => q.1 = circuit && q.2.1 = dst with
    | none => none
    | some c =>
      let first := (routePorts (AMap.get 0 h.paths (c.2.1 * 4 + c.2.2))).take 1
      let slotting (o : Nat) : Bool := (h.links.getD o Link.reset).state != 2 || (h.links.getD o Link.reset).feat % 2 == 1
      if first.all fun o => !h.entryVoid t (o, 24) && slotting o then some c.2 else none

/-- Eighths of best-effort injection by a port at its quad's level (R425, R427); none before the quad has started. -/
def Hub.injection (h : Hub) (port : Nat) : Nat :=
  match h.power.unitLevel.getD (50 + port / 4) none with
  | none => 0
  | some l => (h.power.table.getD l []).getD 1 8

/-- The kinds whose packets spread over the routes by their address (R411). -/
def spreads (kind : BitVec 5) : Bool := kind = 1 || kind = 2 || kind = 3 || kind = 4 || kind = 5 || kind = 7

/-- The route of a packet of this package: its circuit's, or one by its address (R411, R413). -/
def Hub.routeTo (h : Hub) (kind : BitVec 5) (dst va circuit : Nat) : Option (BitVec 128) :=
  match h.circuitRoute circuit dst with
  | some q =>
    let r := AMap.get 0 h.paths (dst * 4 + q.2)
    if r.getLsbD 84 then some r else none
  | none => h.routeFor dst va (spreads kind)

/-- A packet this package makes. -/
def Hub.packet (h : Hub) (kind : BitVec 5) (path : Nat) (dst : Nat) (tenant : BitVec 20) (va len circuit : Nat) (body : Body) : Packet :=
  let r := (h.routeTo kind dst va circuit).getD 0
  { ver := 1, kind := kind, path := BitVec.ofNat 3 path, src := h.pkg, dst := dst, ports := routePorts r, hptr := 0,
    nhop := routeHops r, tenant := tenant, va := va, len := len, circuit := circuit, tag := 0, status := 0,
    settled := false, group := 0, reserved := false, body := body }

/-- Sends a packet: it waits for its injection. -/
def Hub.send (h : Hub) (p : Packet) : Hub := { h with out := h.out ++ [p] }

/-- Tags of a packet header (R406). -/
def tagCount : Nat := 65536

/-- Whether a tag may be used at a tick: no request holds it, and none that ended held it a short time ago (R418).
Log entry 40 (DEDUCED). -/
def Hub.tagFree (h : Hub) (tick t : Nat) : Bool :=
  (h.requests.all fun r => r.tag != t) && h.spent.all fun x => x.1 != t || decide (x.2 ≤ tick)

/-- The first free tag from one on. -/
def Hub.findTag (h : Hub) (tick : Nat) : Nat → Nat → Nat
  | 0, t => t
  | n + 1, t => if h.tagFree tick t then t else h.findTag tick n ((t + 1) % tagCount)

/-- The tag that the next request takes. -/
def State.requestTag (s : State) : Nat := s.hub.findTag s.tick tagCount s.hub.nextTag

/-- Makes a request (R399, R418), which waits for its injection. -/
def State.request (s : State) (owner : Option Owner) (p : Packet) : State :=
  let t := s.requestTag
  let p := { p with tag := t }
  s.updHub fun h =>
    { h.send p with
      requests := h.requests ++ [{ tag := t, owner := owner, packet := p, sent := none, held := false }]
      nextTag := (t + 1) % tagCount }

/-- A request has ended: its tag rests for 2 × FTO (R418). -/
def State.endRequest (s : State) (r : Request) : State :=
  s.updHub fun h =>
    { h with
      requests := h.requests.filter fun q => q.tag != r.tag
      out := h.out.filter fun p => !(p.tag = r.tag && p.kind != 3 && p.src = h.pkg)
      spent := (h.spent.filter fun x => s.tick < x.2) ++ [(r.tag, s.tick + 2 * h.fto * 1250)] }

/-- Withdraws the requests of an operation of a core: what has left cannot be called back, and its answer will find no request.
Log entry 73 (DESIGN CHOICE). -/
def State.withdrawRequests (s : State) (o : Owner) : State :=
  (s.hub.requests.filter fun r => r.owner = some o).foldl State.endRequest s

/-! Remote accesses page by page (R398, R401, R406): a request names at most 4,096 bytes, of one 64 KiB page. -/

/-- Payload bytes of a packet (R406). -/
def packetBytes : Nat := 4096

/-- An extent cut at page boundaries and to what a packet carries. -/
def cutSpan : Nat → Nat → Nat → List (Nat × Nat)
  | 0, _, _ => []
  | k + 1, va, n =>
    if n = 0 then []
    else
      let m := min (min n packetBytes) (65536 - va % 65536)
      (va, m) :: cutSpan k (va + m) (n - m)

/-- The pieces of an extent.
Log entry 34 (DESIGN CHOICE). -/
def pieces (va n : Nat) : List (Nat × Nat) := cutSpan (n / packetBytes + n / 65536 + 3) va n

/-- The pieces of bytes to be written. -/
def cutWrite (w : Span) : List Span :=
  (pieces w.off w.bytes.length).map fun x =>
    ⟨x.1, (w.bytes.drop (x.1 - w.off)).take x.2, (w.marks.filter fun m => x.1 ≤ w.off + m && w.off + m < x.1 + x.2).map (w.off + · - x.1)⟩

/-- Pieces in order, joined where they lie on one page and a packet carries them together. -/
def groupPieces {α : Type} (addr size : α → Nat) : List α → List (List α)
  | [] => []
  | x :: xs =>
    match groupPieces addr size xs with
    | (y :: ys) :: rest =>
      if addr x / 65536 = addr y / 65536 ∧ size x + ((y :: ys).map size).sum ≤ packetBytes then (x :: y :: ys) :: rest
      else [x] :: (y :: ys) :: rest
    | rest => [x] :: rest

/-- What a remote access carries, packet by packet, with the address of each. -/
def bodiesOf (va : Nat) (b : Body) : List (Nat × Body) :=
  match b with
  | .reads l => (groupPieces (·.1) (·.2) (l.flatMap fun x => pieces x.1 x.2)).map fun g => ((g.head?.map (·.1)).getD va, .reads g)
  | .writes l =>
    (groupPieces (fun (w : Span) => w.off) (·.bytes.length) (l.flatMap cutWrite)).map fun g => ((g.head?.map (·.off)).getD va, .writes g)
  | b => [(va, b)]

/-- LEN of a packet with a body (R406): its payload bytes, and for a read the bytes it asks for, as the worked header of R408 has it. The
spec gives no payload for the other bodies, and none for MOVED but the place of its home.
Log entry 91 (DESIGN CHOICE). -/
def bodyLen : Body → Nat
  | .reads l => (l.map (·.2)).sum
  | .writes l => (l.map (·.bytes.length)).sum
  | .ordLoad n => n
  | .ordStore bs => bs.length
  | .payload _ _ _ ws _ => (ws.map (·.bytes.length)).sum
  | .page _ _ bs _ => bs.length
  | .data bs _ => bs.length
  | .retry .. => 8
  | .moved _ => 8
  | _ => 0

/-- The tenant and function of the core in hand's task. -/
def Core.tenant (c : Core) : BitVec 20 := (c.task.map (·.tenant)).getD 0
def Core.func (c : Core) : Nat := (c.task.map (·.fn)).getD 0

/-! The fabric status register (R419). -/

/-- Sets a bit of FSTAT. -/
def Core.noteFstat (c : Core) (bit : Nat) : Core := { c with fstat := setBit c.fstat bit true }

/-- Notes a time-out: TO, TOPKG and TOCNT. -/
def Core.noteTimeout (c : Core) (dst : Nat) : Core :=
  let n := min 15 (c.fstat.toNat / 2 ^ 18 % 16 + 1)
  { c with fstat := BitVec.ofNat 64 (c.fstat.toNat % 2 ^ 8 / 2 * 2 + 1 + dst % 1024 * 2 ^ 8 + n * 2 ^ 18) }

/-! Handles (R399). -/

/-- Changes the remote handles of a core whose page holds an address. -/
def Core.updRemote (c : Core) (va : Nat) (g : Hnd → Hnd) : Core :=
  { c with hnd := c.hnd.map fun q =>
      if q.2.remote && q.2.vaddr ≤ va && va < q.2.vaddr + q.2.size then (q.1, g q.2) else q }

/-- What a DENIED does to the task (R399, R419): FSTAT, and the handles of the page; so does the refusal of a multicast range (R414). -/
def Core.noteDenied (c : Core) (va : Nat) : Core := (c.updRemote va fun v => { v with denied := true }).noteFstat 3

/-- A home refuses an operation (R121, R399): a promised load returns zeros with its flag. -/
def Flight.refusedBy (f : Flight) (pulse : Nat) : Flight :=
  match f.op with
  | .load d l n t (some r) _ => { f with op := .load d l n t (some r) true, stage := .done, data := List.replicate n 0, marks := [], due := pulse }
  | _ => { f with stage := .refused, data := [], due := pulse }

def EngineCmd.refusedBy (k : EngineCmd) (va : Nat) : EngineCmd := { k with stage := .refused, writes := [⟨.remote 0 va, [], []⟩] }

/-! Posts of values. -/

/-- Bytes of a word, least significant first (R3). -/
def wordBytes (v n : Nat) : List Byte := (List.range n).map fun i => BitVec.ofNat 8 (v / 256 ^ i)

/-- A scalar of `size` bytes extended to 64 bits (R246). -/
def extendScalar (bs : List Byte) (sx : Bool) : Word :=
  let n := 8 * bs.length
  let v := leNat bs
  BitVec.ofNat 64 (if sx && n < 64 && v / 2 ^ (n - 1) % 2 = 1 then v + 2 ^ 64 - 2 ^ n else v)

end Sys2Proof.Machine
end

