-- ==== Sys2Proof/Machine/ArrayEvents.lean ====
section
/-!
DEFINITION. The events of the matrix array: its operands falling due, its rows becoming final, the resumption of a suspended
instruction and the issue of a staged one (R58, R225 to R233).
-/

namespace Sys2Proof.Machine

open Sys2Proof

def Core.arrOf (c : Core) (n : Nat) : Option ArrOp := c.arr.find? fun o => o.id = n
def Core.setArr (c : Core) (o : ArrOp) : Core := { c with arr := c.arr.map fun x => if x.id = o.id then o else x }

/-- The A rows of step group `g` (R229). -/
def ArrOp.groupRows (o : ArrOp) (g : Nat) : List Nat := (List.range o.m).filter fun m => m / 32 = g

/-- The locator of an operand of a command. -/
def ArrCmd.loc (k : ArrCmd) (isB : Bool) : Word := if isB then k.bLoc else k.aLoc

/-- The address that EADDR reports for a late or faulted row of an operand: its locator advanced to the row (R229).
Log entry 12 (DEDUCED). -/
def ArrOp.failAddr (o : ArrOp) (isB : Bool) (row : Nat) : Word := advance (o.cmd.loc isB) (row * (o.cmd.operand isB).stride)

/-- How what a step group needs of an operand stands at its due cycle; a late or refused one names the first such row. -/
inductive OperandState where
  | ready | absent
  | late (row : Nat)
  | refused (row : Nat)
  deriving DecidableEq, Repr

def Core.operandState (c : Core) (o : ArrOp) (isB : Bool) (g : Nat) : OperandState :=
  match o.cmd.place isB with
  | some .absent => .absent
  | _ =>
    let fs := c.operandFlights o.id isB g
    match fs.find? fun f => f.stage = .refused, fs.find? fun f => f.stage ≠ .done with
    | some f, _ => .refused f.fetchRow
    | none, some f => .late f.fetchRow
    | none, none => .ready

/-- Sets P6 of the issuing sequencer (R228). -/
def Core.setP6 (c : Core) (q : SeqId) : Core := c.writeP q 6 (BitVec.allOnes 32)

/-- The spans of an operand that a step group reads, by offset from the operand's first byte and length. -/
def ArrOp.readSpans (o : ArrOp) (isB : Bool) (g : Nat) : List (Nat × Nat) :=
  let part := o.cmd.part isB g
  part.rows.flatMap fun r => part.spans.map fun x => (r * part.stride + x.1, x.2)

/-- The marked bytes among those that a step group reads of an operand, by address (R295). -/
def State.operandMarks (s : State) (o : ArrOp) (isB : Bool) (g : Nat) (p : Loc) : List Nat :=
  match p with
  | .spad _ | .clus .. => (o.readSpans isB g).flatMap fun x => (s.readLoc p x.1 x.2).2.map (p.addr + x.1 + ·)
  | _ => (s.core.operandFlights o.id isB g).flatMap fun f => match f.op with
    | .operand _ _ _ _ l _ => f.marks.map (l.addr + ·)
    | _ => []

/-- What the array reads of an operand for a step group: the EARLY_READ check (R102) and the consumption of marked bytes
(R295). -/
def State.arrayReads (s : State) (o : ArrOp) (isB : Bool) (g : Nat) : State :=
  let k := o.cmd
  match k.place isB with
  | none => s
  | some p =>
    let s := match (o.readSpans isB g).find? fun x => s.readsEarly (p.advance x.1) x.2 with
      | some x => s.updCore fun c => c.pendNext k.q Cause.earlyRead (advance (k.loc isB) x.1)
      | none => (o.readSpans isB g).foldl (fun s x => s.noteRead k.q (p.advance x.1) x.2 (advance (k.loc isB) x.1)) s
    match s.operandMarks o isB g p with
    | [] => s
    | m :: _ => s.updCore fun c => c.consume k.q k.pc m

/-- Suspends an instruction at a group with its cause, raised with EPC at the next unit (R229). -/
def State.suspendFor (s : State) (o : ArrOp) (g : Nat) (cause : Cause) (ea : Word) : State :=
  s.updCore fun c => (c.suspend o g).pendNext o.cmd.q cause ea

/-- Loads B (R222, R223): a malformed group is remembered and suspends the instruction as its group 0 falls due. The held B becomes valid
in the cycle in which B falls due.
Log entry 85 (DESIGN CHOICE). -/
def State.takeB (s : State) (o : ArrOp) : State :=
  let s := s.arrayReads o true 0
  match s.badGroup o with
  | some a => s.updCore fun c => { c.setArr { o with bad := some a } with bvalid := false, heldB := none }
  | none =>
    let b := s.loadB o
    { s.updCore fun c => { c.setArr { o with b := some b } with bvalid := true, heldB := some b } with
      free := s.free + b.n * 1024 }

/-- Loads the A rows of a step group. -/
def State.takeA (s : State) (o : ArrOp) (g : Nat) : State :=
  let s := s.arrayReads o false g
  let rows := (o.groupRows g).map fun m => (m, s.loadA o m)
  s.updCore fun c => match c.arrOf o.id with
    | some o => c.setArr { o with a := rows.foldl (fun m r => AMap.set [] m r.1 r.2) o.a }
    | none => c

/-- What an operand that falls due does: late bytes suspend, a refusal by the home suspends with REMOTE_FAULT, a local page
that is not resident reads as zero and sets P6 (R228). -/
def State.operandDue (s : State) (o : ArrOp) (isB : Bool) (g : Nat) : State :=
  let take (s : State) : State := if isB then s.takeB o else s.takeA o g
  match s.core.operandState o isB g with
  | .ready => take s
  | .absent => take (s.updCore fun c => c.setP6 o.cmd.q)
  | .late r => s.suspendFor o g Cause.undersizedDelay (o.failAddr isB r)
  | .refused r => s.suspendFor o g Cause.remoteFault (o.failAddr isB r)

/-- ARRAY_OPERAND_DUE: `g` is 0 for B and k + 1 for step group k of A. -/
def execArrayOperandDue (n g : Nat) (s : State) : Out :=
  .next (match s.core.arrOf n with
    | none => s
    | some o =>
      if o.full then s
      else if g = 0 then s.operandDue o true 0
      else if !o.goes (g - 1) then s
      else match o.bad with
        | some a => if g = 1 then s.suspendFor o 0 Cause.bankFormat a else s
        | none => s.operandDue o false (g - 1))

/-- ARRAY_ROW_FINAL: the row reaches the ACC at the end of this cycle (R225, R226); the last one completes the instruction. -/
def execArrayRowFinal (n m : Nat) (s : State) : Out :=
  .next (match s.core.arrOf n with
    | none => s
    | some o =>
      if !o.goes (m / 32) then s
      else s.updCore fun c =>
        let w : AccWrite := ⟨o.id, c.cycle, .cols (o.cmd.row + m) (arrayRow c o m)⟩
        let c := { c with accWr := insertAcc w c.accWr }
        if m + 1 = o.m then
          ({ c with
            arr := c.arr.filter (·.id != n)
            flight := c.flight.filter fun f => match f.op with
              | .operand a .. => a != n
              | _ => true }).post o.cmd.no o.cmd.sigQ o.cmd.pc o.cmd.sig
        else c)

/-- Whether an array instruction has rows that are still to become final (R229). -/
def ArrOp.live (o : ArrOp) (cyc : Nat) : Bool :=
  match o.stop with
  | none => true
  | some g => (List.range (min o.m (32 * g))).any fun m => decide (cyc ≤ o.rowFinal m)

/-- Whether an operation in flight still serves somebody: the operand of an instruction that has been given up does not, once it is
there. -/
def Core.served (c : Core) (f : Flight) : Bool :=
  match f.op with
  | .operand a .. => !f.over || (c.arr.any fun o => o.id = a) || c.suspended.any fun p => p.op.id = a
  | _ => true

/-- What is left of instructions that a suspension has stopped goes, once nothing comes of it. -/
def Core.sweep (c : Core) : Core :=
  let c := { c with arr := c.arr.filter fun o => o.live c.cycle }
  { c with flight := c.flight.filter c.served }

/-! Resumption (R231). -/

/-- What a resumption fetches again: B, unless it is kept, and the groups of A from the one it resumes at. -/
def Suspended.parts (p : Suspended) : List (Bool × Nat) :=
  (if shKeep p.op.cmd.shape then [] else [(true, 0)]) ++ ((List.range p.op.groups).filter (p.group ≤ ·)).map fun g => (false, g)

/-- A fetch of a resumed instruction that its home has refused, by operand and row. -/
def Core.resumeRefused (c : Core) (p : Suspended) : Option (Bool × Nat) :=
  p.parts.findSome? fun x => match c.operandState p.op x.1 x.2 with
    | .refused r => some (x.1, r)
    | _ => none

/-- Whether a fetch of a resumed instruction is still on its way. -/
def Core.resumeLate (c : Core) (p : Suspended) : Bool :=
  p.parts.any fun x => match c.operandState p.op x.1 x.2 with
    | .late _ => true
    | _ => false

/-- Whether a fetch of a resumed instruction has timed out. -/
def Core.resumeTimedOut (c : Core) (p : Suspended) : Bool :=
  c.flight.any fun f => f.stage = .timedOut && match f.op with
    | .operand a .. => a = p.op.id
    | _ => false

/-- Takes one part of a resumed instruction's operands; a page that is not resident reads as zero and sets P6. -/
def State.takePart (s : State) (n : Nat) (x : Bool × Nat) : State :=
  match s.core.arrOf n with
  | none => s
  | some o => if o.bad.isSome then s else s.operandDue o x.1 x.2

/-- Waits for the operands of a resumed instruction, while the domain stands: then B is loaded again and every remaining group
of A fetched; a refusal raises REMOTE_FAULT again; a time-out raises FABRIC_TIMEOUT, and the instruction is abandoned. The
domain stands until the trap is taken. -/
def State.tryResume (s : State) : State :=
  if !s.core.resuming || s.core.tl != 0 then s
  else match s.core.suspended with
    | none => s
    | some p =>
      let o := p.op
      if !p.armed then s
      else if s.core.resumeTimedOut p then s.updCore fun c => c.abandonArray.pendNext o.cmd.q Cause.fabricTimeout 0
      else match s.core.resumeRefused p with
        | some x =>
          s.updCore fun c =>
            ({ c with suspended := some { p with armed := false } }).pendNext o.cmd.q Cause.remoteFault (o.failAddr x.1 x.2)
        | none =>
          if s.core.resumeLate p then s
          else
            let o := { o with stop := none, bad := none }
            let s := s.updCore fun c =>
              { c with
                resuming := false, suspended := none
                arr := if (c.arrOf o.id).isSome then (c.setArr o).arr else c.arr ++ [o] }
            let s := p.parts.foldl (fun s x => s.takePart o.id x) s
            match s.core.arrOf o.id with
            | none => s
            | some o =>
              match o.bad with
              | some a => s.suspendFor o 0 Cause.bankFormat a
              | none => s.updCore fun c => c.setArr { o with full := true }

/-! Staged commands (R58, R233). -/

/-- Issues a staged command at the present schedule cycle: a busy array raises UNDERSIZED_DELAY, a handle that has become
invalid HANDLE_INVALID, and a KEEPB that no held B serves ILLEGAL_FIELD, all on the sequencer of the CPGO.MX. -/
def State.issueStaged (s : State) (g : Staged) : State :=
  let k := g.cmd
  let c := s.core
  let bad (loc : Word) : Bool := locKind loc = 2 && !(c.getH (locHandle loc)).valid
  let fail (cause : Cause) (ea : Word) : State := s.updCore fun c => c.pendNext k.q cause ea
  if !(c.arrBusy ≤ c.cycle) then fail Cause.undersizedDelay 0
  else if bad k.aLoc then fail Cause.handleInvalid k.aLoc
  else if !shKeep k.shape && bad k.bLoc then fail Cause.handleInvalid k.bLoc
  else if shKeep k.shape && !heldMatches c k.kind k.shape then fail Cause.illegalField 0
  else s.startArray k

/-- STAGED_COMMAND_ISSUE: the first of those due. -/
def execStagedCommandIssue (s : State) : Out :=
  .next (match s.core.stagedDue with
    | (t, g) :: rest =>
      if t ≤ s.core.cycle then (s.updCore fun c => { c with stagedDue := rest }).issueStaged g else s
    | [] => s)

end Sys2Proof.Machine
end

