-- ==== Sys2Proof/Machine/Digest.lean ====
section
/-!
DEFINITION. The two algorithms that the spec names without stating them: the SHA-384 digest and ECDSA signatures on curve P-384
(R318, R377, R439, R441). Their constants and steps are those of their published standards (log entry 77, PRESUMED). Keys are free.
-/

namespace Sys2Proof.Machine

open Sys2Proof

/-! SHA-384. -/

/-- A number as `n` bytes, most significant first. -/
def beBytes (v n : Nat) : List Byte := (List.range n).map fun i => BitVec.ofNat 8 (v / 256 ^ (n - 1 - i))

/-- The number that bytes are, most significant first. -/
def beNat (bs : List Byte) : Nat := bs.foldl (fun a b => a * 256 + b.toNat) 0

/-- Round constants 0 to 15. -/
def shaK0 : List Word :=
  [0x428A2F98D728AE22, 0x7137449123EF65CD, 0xB5C0FBCFEC4D3B2F, 0xE9B5DBA58189DBBC,
   0x3956C25BF348B538, 0x59F111F1B605D019, 0x923F82A4AF194F9B, 0xAB1C5ED5DA6D8118,
   0xD807AA98A3030242, 0x12835B0145706FBE, 0x243185BE4EE4B28C, 0x550C7DC3D5FFB4E2,
   0x72BE5D74F27B896F, 0x80DEB1FE3B1696B1, 0x9BDC06A725C71235, 0xC19BF174CF692694]

/-- Round constants 16 to 31. -/
def shaK1 : List Word :=
  [0xE49B69C19EF14AD2, 0xEFBE4786384F25E3, 0x0FC19DC68B8CD5B5, 0x240CA1CC77AC9C65,
   0x2DE92C6F592B0275, 0x4A7484AA6EA6E483, 0x5CB0A9DCBD41FBD4, 0x76F988DA831153B5,
   0x983E5152EE66DFAB, 0xA831C66D2DB43210, 0xB00327C898FB213F, 0xBF597FC7BEEF0EE4,
   0xC6E00BF33DA88FC2, 0xD5A79147930AA725, 0x06CA6351E003826F, 0x142929670A0E6E70]

/-- Round constants 32 to 47. -/
def shaK2 : List Word :=
  [0x27B70A8546D22FFC, 0x2E1B21385C26C926, 0x4D2C6DFC5AC42AED, 0x53380D139D95B3DF,
   0x650A73548BAF63DE, 0x766A0ABB3C77B2A8, 0x81C2C92E47EDAEE6, 0x92722C851482353B,
   0xA2BFE8A14CF10364, 0xA81A664BBC423001, 0xC24B8B70D0F89791, 0xC76C51A30654BE30,
   0xD192E819D6EF5218, 0xD69906245565A910, 0xF40E35855771202A, 0x106AA07032BBD1B8]

/-- Round constants 48 to 63. -/
def shaK3 : List Word :=
  [0x19A4C116B8D2D0C8, 0x1E376C085141AB53, 0x2748774CDF8EEB99, 0x34B0BCB5E19B48A8,
   0x391C0CB3C5C95A63, 0x4ED8AA4AE3418ACB, 0x5B9CCA4F7763E373, 0x682E6FF3D6B2B8A3,
   0x748F82EE5DEFB2FC, 0x78A5636F43172F60, 0x84C87814A1F0AB72, 0x8CC702081A6439EC,
   0x90BEFFFA23631E28, 0xA4506CEBDE82BDE9, 0xBEF9A3F7B2C67915, 0xC67178F2E372532B]

/-- Round constants 64 to 79. -/
def shaK4 : List Word :=
  [0xCA273ECEEA26619C, 0xD186B8C721C0C207, 0xEADA7DD6CDE0EB1E, 0xF57D4F7FEE6ED178,
   0x06F067AA72176FBA, 0x0A637DC5A2C898A6, 0x113F9804BEF90DAE, 0x1B710B35131C471B,
   0x28DB77F523047D84, 0x32CAAB7B40C72493, 0x3C9EBE0A15C9BEBC, 0x431D67C49C100D4C,
   0x4CC5D4BECB3E42B6, 0x597F299CFC657E2A, 0x5FCB6FAB3AD6FAEC, 0x6C44198C4A475817]

/-- The round constants. -/
def shaK : List Word := shaK0 ++ shaK1 ++ shaK2 ++ shaK3 ++ shaK4

/-- The initial chaining value. -/
def shaInit : List Word :=
  [0xCBBB9D5DC1059ED8, 0x629A292A367CD507, 0x9159015A3070DD17, 0x152FECD8F70E5939,
   0x67332667FFC00B31, 0x8EB44A8768581511, 0xDB0C2E0D64F98FA7, 0x47B5481DBEFA4FA4]

def shaSmall0 (x : Word) : Word := x.rotateRight 1 ^^^ x.rotateRight 8 ^^^ (x >>> 7)
def shaSmall1 (x : Word) : Word := x.rotateRight 19 ^^^ x.rotateRight 61 ^^^ (x >>> 6)
def shaBig0 (x : Word) : Word := x.rotateRight 28 ^^^ x.rotateRight 34 ^^^ x.rotateRight 39
def shaBig1 (x : Word) : Word := x.rotateRight 14 ^^^ x.rotateRight 18 ^^^ x.rotateRight 41

/-- The message schedule, `n` words on from those given. -/
def shaSchedule : Nat → List Word → List Word
  | 0, w => w
  | n + 1, w =>
    let t := w.length
    shaSchedule n (w ++ [shaSmall1 (w.getD (t - 2) 0) + w.getD (t - 7) 0 + shaSmall0 (w.getD (t - 15) 0) + w.getD (t - 16) 0])

/-- One round, on the eight working variables. -/
def shaRound (v : List Word) (kw : Word × Word) : List Word :=
  match v with
  | [a, b, c, d, e, f, g, h] =>
    let t := h + shaBig1 e + ((e &&& f) ^^^ (~~~e &&& g)) + kw.1 + kw.2
    [t + shaBig0 a + ((a &&& b) ^^^ (a &&& c) ^^^ (b &&& c)), a, b, c, d + t, e, f, g]
  | _ => v

/-- One block of 128 bytes. -/
def shaBlock (h : List Word) (block : List Byte) : List Word :=
  let w := (List.range 16).map fun i => BitVec.ofNat 64 (beNat ((block.drop (8 * i)).take 8))
  let v := (shaK.zip (shaSchedule 64 w)).foldl shaRound h
  (h.zip v).map fun x => x.1 + x.2

/-- The padded message. -/
def shaPadded (bs : List Byte) : List Byte :=
  bs ++ [0x80] ++ List.replicate ((239 - bs.length % 128) % 128) 0 ++ beBytes (8 * bs.length) 16

/-- The digest's 48 bytes. -/
def sha384Bytes (bs : List Byte) : List Byte :=
  let m := shaPadded bs
  let h := (List.range (m.length / 128)).foldl (fun h i => shaBlock h ((m.drop (128 * i)).take 128)) shaInit
  (h.take 6).flatMap fun w => beBytes w.toNat 8

/-- The SHA-384 digest of a byte string (R318, R322): the number of its 48 bytes as a record holds them, little-endian (R3). -/
def sha384 (bs : List Byte) : BitVec 384 := BitVec.ofNat 384 (leNat (sha384Bytes bs))

/-! The curve P-384: y² = x³ - 3x + b over the integers modulo p. -/

def p384P : Nat := 2 ^ 384 - 2 ^ 128 - 2 ^ 96 + 2 ^ 32 - 1
def p384N : Nat := 0xFFFFFFFFFFFFFFFFFFFFFFFFFFFFFFFFFFFFFFFFFFFFFFFFC7634D81F4372DDF581A0DB248B0A77AECEC196ACCC52973
def p384Gx : Nat := 0xAA87CA22BE8B05378EB1C71EF320AD746E1D3B628BA79B9859F741E082542A385502F25DBF55296C3A545E3872760AB7
def p384Gy : Nat := 0x3617DE4A96262C6F5D9E98BF9292DC29F8F41DBD289A147CE9DA3113B5F0B8C00A60B1CE1D7E819D7A431D7C90EA0E5F

/-- A point; none is the point at infinity. -/
abbrev Point := Option (Nat × Nat)

/-- A power modulo `m`, of an exponent of so many bits. -/
def powMod (m : Nat) : Nat → Nat → Nat → Nat
  | 0, _, _ => 1
  | n + 1, b, e =>
    let r := powMod m n (b * b % m) (e / 2)
    if e % 2 = 1 then b * r % m else r

/-- The inverse modulo a prime of 384 bits. -/
def invMod (m a : Nat) : Nat := powMod m 384 (a % m) (m - 2)

/-- The third point of a line of slope `l` through two points, reflected. -/
def curveLine (l x1 y1 x2 : Nat) : Point :=
  let p := p384P
  let x := (l * l + 2 * p - x1 - x2) % p
  some (x, (l * (x1 + p - x) + p - y1) % p)

/-- The sum of two points. -/
def curveAdd (a b : Point) : Point :=
  let p := p384P
  match a, b with
  | none, b => b
  | a, none => a
  | some (x1, y1), some (x2, y2) =>
    if x1 ≠ x2 then curveLine ((y2 + p - y1) * invMod p (x2 + p - x1) % p) x1 y1 x2
    else if (y1 + y2) % p = 0 then none
    else curveLine ((3 * x1 * x1 + p - 3) * invMod p (2 * y1) % p) x1 y1 x2

/-- A multiple of a point, by a number of so many bits. -/
def curveMul : Nat → Nat → Point → Point
  | 0, _, _ => none
  | n + 1, k, a =>
    let r := curveMul n (k / 2) (curveAdd a a)
    if k % 2 = 1 then curveAdd a r else r

def p384G : Point := some (p384Gx, p384Gy)

/-! ECDSA. -/

/-- A number that a key or a signature may use: one from 1 to the group's order less 1. -/
def keyNumber (n : Nat) : Nat := 1 + n % (p384N - 1)

/-- The public keys: 0 the device identity key, whose private number the wellhead holds; 1 Galaro's provisioning key (R318, R439). -/
def publicKey (key : Nat) : Point :=
  if key = 0 then curveMul 384 (keyNumber Config.deviceKey) p384G else some Config.provisioningKey

/-- The integer that a digest stands for. -/
def digestNat (d : BitVec 384) : Nat := beNat (leBytes 48 d.toNat)

/-- Whether 96 bytes, r and then s, each a little-endian integer, are a signature of a digest by a key (R318). -/
def verifies (key : Nat) (d : BitVec 384) (sig : List Byte) : Bool :=
  let r := leNat (sig.take 48)
  let s := leNat ((sig.drop 48).take 48)
  decide (1 ≤ r) && decide (r < p384N) && decide (1 ≤ s) && decide (s < p384N) &&
    let w := invMod p384N s
    match curveAdd (curveMul 384 (digestNat d * w % p384N) p384G) (curveMul 384 (r * w % p384N) (publicKey key)) with
    | some (x, _) => x % p384N == r
    | none => false

/-- The signature the wellhead makes of a digest with the device identity key (R318, R441); the number it draws for it is free. -/
def sign (d : BitVec 384) : List Byte :=
  let k := keyNumber (Config.signNonce d)
  let r := ((curveMul 384 k p384G).map (·.1)).getD 0 % p384N
  let s := invMod p384N k * (digestNat d + r * keyNumber Config.deviceKey) % p384N
  leBytes 48 r ++ leBytes 48 s

end Sys2Proof.Machine
end

