-- ==== Sys2Proof/Machine/Translate.lean ====
section
/-!
DEFINITION. Page tables, the translation caches, the home directory, the fault ring, and the handle instructions with their
events (R242 to R245, R389 to R400, R404).
-/

namespace Sys2Proof.Machine

open Sys2Proof

/-! Page tables (R389 to R392). -/

/-- How a walk of one stage ends: a leaf, by its entry, level and the entry's address; a leaf that is not present, by its level;
no leaf; or an entry that breaks R389 to R391. -/
inductive WalkEnd where
  | leaf (e level addr : Nat)
  | absent (level : Nat)
  | missing
  | error
  deriving DecidableEq, Repr

def levelShift (n : Nat) : Nat := match n with
  | 0 => 16
  | 1 => 21
  | 2 => 30
  | 3 => 39
  | _ => 48

/-- Bytes that a leaf of a level maps (R389). -/
def levelBytes (n : Nat) : Nat := 2 ^ levelShift n

/-- Whether a table entry obeys R390, its NEXT aligned for the level below. -/
def tableOk (e below : Nat) : Bool :=
  e / 2 ^ 2 % 2 ^ 6 == 0 && e / 2 ^ 52 == 0 && (if below = 0 then true else e / 2 ^ 8 % 2 ^ 4 == 0)

/-- Whether a leaf entry obeys R391 at its level. -/
def leafOk (e level : Nat) : Bool :=
  level ≤ 2 && e / 2 ^ 13 % 8 == 0 && e / 2 ^ 56 == 0 && e / 2 ^ 16 % 2 ^ (levelShift level - 16) == 0 &&
    e / 2 ^ 52 % 8 != 7

/-- Walks the tables of one stage from a table down. `rd` reads an entry at a table address, or says how its own translation
ended. -/
def walkTables (rd : Nat → Except WalkEnd Nat) (v : Nat) (index : Nat → Nat) : Nat → Nat → WalkEnd
  | n, table =>
    let addr := table + 8 * index n
    match rd addr with
    | .error w => w
    | .ok e =>
      let present := e % 2 = 1
      let leaf := e / 2 % 2 = 1
      match n with
      | 0 => if !present then .absent 0 else if leaf && leafOk e 0 then .leaf e 0 addr else .error
      | k + 1 =>
        if !present then (if leaf && k + 1 ≤ 2 then .absent (k + 1) else .missing)
        else if leaf then (if leafOk e (k + 1) then .leaf e (k + 1) addr else .error)
        else if tableOk e k then walkTables rd v index k (e / 2 ^ 8 % 2 ^ 44 * 2 ^ 8) else .error

/-- Index of a level: 512 entries, 32 at level 0, and 8,192 at the stage-2 root (R389). -/
def walkIndex (v : Nat) (s2 : Bool) (n : Nat) : Nat :=
  v / levelBytes n % (if n = 0 then 32 else if n = 3 && s2 then 8192 else 512)

/-- Eight bytes of HBM. -/
def Hub.entryAt (h : Hub) (a : Nat) : Nat := leNat (h.readHbm a 8)

def leafPerm (e : Nat) : BitVec 10 := BitVec.ofNat 10 (e / 4)
def leafFrame (e : Nat) : Nat := e / 2 ^ 16 % 2 ^ 36 * 2 ^ 16

/-- Stage 2 of a function's context: with EN = 0, IPA is PA (R392).
Log entry 11 (DEDUCED). -/
def Hub.stage2 (h : Hub) (f ipa : Nat) : WalkEnd :=
  let r := (h.func f).s2root
  if !r.getLsbD 0 then .leaf (ipa / 2 ^ 30 * 2 ^ 30 % 2 ^ 52 + 0xFFF) 2 0
  else walkTables (fun a => .ok (h.entryAt a)) ipa (walkIndex ipa true) 3 (r.toNat / 2 ^ 16 % 2 ^ 36 * 2 ^ 16)

/-- The physical address of an intermediate one. -/
def Hub.paOf (h : Hub) (f ipa : Nat) : Except WalkEnd Nat :=
  match h.stage2 f ipa with
  | .leaf e l _ => .ok (leafFrame e + ipa % levelBytes l)
  | .error => .error .error
  | _ => .error .missing

/-- Stage 1 of a function's context (R392). -/
def Hub.stage1 (h : Hub) (f va : Nat) : WalkEnd :=
  let r := (h.func f).s1root
  if !r.getLsbD 0 then (if va < 2 ^ 52 then .leaf (va / 2 ^ 30 * 2 ^ 30 + 0xFFF) 2 0 else .missing)
  else
    walkTables (fun a => (h.paOf f a).map h.entryAt) va (walkIndex va false) 4 (r.toNat / 2 ^ 12 % 2 ^ 40 * 2 ^ 12)

/-- The intermediate addresses that a stage-1 walk reads tables at, for stage-2 invalidations (R396): a superset follows the
present entries. -/
def Hub.tableIpas (h : Hub) (f va : Nat) : Nat → Nat → List Nat
  | n, table =>
    table :: match n with
      | 0 => []
      | k + 1 =>
        match h.paOf f (table + 8 * walkIndex va false (k + 1)) with
        | .ok pa =>
          let e := h.entryAt pa
          if e % 4 = 1 then h.tableIpas f va k (e / 2 ^ 8 % 2 ^ 44 * 2 ^ 8) else []
        | .error _ => []

def Xl.missing (size : Nat) (err : Bool) : Xl := ⟨false, false, size, 0, false, false, 0, 0, [], 0, err⟩

/-- The translation of the page of a virtual address (R392). Its size is the smaller of the two leaves' where both are present, and that of
a leaf that is not present by its own level (R242). -/
def Hub.walk (h : Hub) (f va : Nat) : Xl :=
  let root := (h.func f).s1root
  let ipas := if root.getLsbD 0 then (h.tableIpas f va 4 (root.toNat / 2 ^ 12 % 2 ^ 40 * 2 ^ 12)).map fun a => (a, 1) else []
  let page (ipa l : Nat) : List (Nat × Nat) := (ipa / levelBytes l * levelBytes l, levelBytes l) :: ipas
  match h.stage1 f va with
  | .error => { Xl.missing 0 true with ipas := ipas }
  | .missing => { Xl.missing 0 false with ipas := ipas }
  | .absent l => { Xl.missing l false with leaf := true, ipas := ipas }
  | .leaf e l addr =>
    let ipa := leafFrame e + va % levelBytes l
    match h.stage2 f ipa with
    | .error => { Xl.missing 0 true with ipas := page ipa 0 }
    | .missing => { Xl.missing 0 false with ipas := page ipa 0 }
    | .absent l2 => { Xl.missing l2 false with leaf := true, ipas := page ipa l2 }
    | .leaf e2 l2 _ =>
      let size := min l l2
      let pa := leafFrame e2 + ipa % levelBytes l2
      { leaf := true, present := true, psize := size, perm := leafPerm e &&& leafPerm e2, sync := e / 2 ^ 12 % 2 = 1 && root.getLsbD 0,
        settled := e / 2 ^ 55 % 2 = 1 && root.getLsbD 0, mig := if root.getLsbD 0 then e / 2 ^ 52 % 8 else 0,
        pa := pa / levelBytes size * levelBytes size, ipas := page ipa size, entry := addr, error := false }

/-! The home directory (R400). -/

/-- Where a virtual address is homed: a package, a multicast group, or nowhere, its record being broken. -/
inductive Home where
  | own | pkg (n : Nat) | group (n : Nat) | broken
  deriving DecidableEq, Repr

/-- A record of the directory. -/
def Hub.dirRecord (h : Hub) (f i : Nat) : Nat := leNat (h.readHbm ((h.func f).dirbase.toNat + 16 * i) 16)

def dirPage (r : Nat) : Nat := r % 2 ^ 41
def dirPages (r : Nat) : Nat := r / 2 ^ 64 % 2 ^ 32
def dirOk (r : Nat) : Bool :=
  r / 2 ^ 41 % 2 ^ 23 == 0 && r / 2 ^ 109 == 0 && dirPages r != 0 && (r / 2 ^ 108 % 2 == 1 || decide (r / 2 ^ 96 % 2 ^ 12 < 1024))

/-- Whether a record of the directory covers a page. -/
def dirCovers (r page : Nat) : Bool := decide (dirPage r ≤ page) && decide (page < dirPage r + dirPages r)

/-- The records of a directory. -/
def Hub.dirList (h : Hub) (f : Nat) : List Nat := (List.range (h.func f).dircnt).map (h.dirRecord f)

/-- Whether two records share a page. -/
def dirShares (r q : Nat) : Bool := decide (dirPage r < dirPage q + dirPages q) && decide (dirPage q < dirPage r + dirPages r)

/-- Whether a record breaks R400, among those before and after it: it is not well formed, overlaps another, or is not above all before it.
Log entry 88 (DEDUCED). -/
def dirBroken (before after : List Nat) (r : Nat) : Bool :=
  !dirOk r || ((before ++ after).any fun q => dirShares r q) || before.any fun q => dirPage r ≤ dirPage q

/-- Where an address is homed: a record that breaks R400 denies every lookup in its range. -/
def Hub.homeOf (h : Hub) (f va : Nat) : Home :=
  let rs := h.dirList f
  let hits := rs.zipIdx.filter fun x => dirCovers x.1 (va / 65536)
  match hits with
  | [] => .own
  | (r, _) :: _ =>
    if hits.any fun x => dirBroken (rs.take x.2) (rs.drop (x.2 + 1)) x.1 then .broken
    else if r / 2 ^ 108 % 2 = 1 then .group (r / 2 ^ 96 % 2 ^ 12)
    else if r / 2 ^ 96 % 2 ^ 12 = h.pkg then .own else .pkg (r / 2 ^ 96 % 2 ^ 12)

/-! Translation caches (R395). -/

def cacheHit (l : List CacheEntry) (f va : Nat) : Option Xl :=
  (l.find? fun e => e.func = f && e.page ≤ va && va < e.page + pageBytes e.xl.psize).map (·.xl)

/-- Puts a translation into a cache, which drops its oldest entry when full (log entry 13, DESIGN CHOICE). -/
def cachePut (size : Nat) (l : List CacheEntry) (e : CacheEntry) : List CacheEntry :=
  let l := l ++ [e]
  l.drop (l.length - size)

def Hub.dieTlb (h : Hub) (die : Nat) : List CacheEntry := if die = 0 then h.dieTlb0 else h.dieTlb1
def Hub.putDie (h : Hub) (die : Nat) (e : CacheEntry) : Hub :=
  if die = 0 then { h with dieTlb0 := cachePut 8192 h.dieTlb0 e } else { h with dieTlb1 := cachePut 8192 h.dieTlb1 e }

/-- Whether the core in hand's caches hold a translation. -/
def State.cached (s : State) (va : Nat) : Bool :=
  (cacheHit s.core.tlb s.core.func va).isSome || (cacheHit (s.hub.dieTlb s.core.die) s.core.func va).isSome

/-- The translation the core in hand uses for a virtual address, with the caches filled. -/
def State.translate (s : State) (va : Nat) : Xl × State :=
  let f := s.core.func
  match cacheHit s.core.tlb f va with
  | some x => (x, s)
  | none =>
    let put (s : State) (x : Xl) : State :=
      s.updCore fun c => { c with tlb := cachePut 128 c.tlb ⟨f, va / pageBytes x.psize * pageBytes x.psize, x⟩ }
    match cacheHit (s.hub.dieTlb s.core.die) f va with
    | some x => (x, put s x)
    | none =>
      let x := s.hub.walk f va
      if x.present then
        (x, (put s x).updHub fun h => h.putDie s.core.die ⟨f, va / pageBytes x.psize * pageBytes x.psize, x⟩)
      else (x, s)

/-! What invalidations cover (R396). -/

/-- What an invalidation covers: every translation of its context, those of virtual addresses, or those that used intermediate
ones. -/
inductive Cover where
  | all
  | va (a n : Nat)
  | ipa (a n : Nat)
  deriving DecidableEq, Repr

/-- Whether a translation of `n` bytes at `v`, which used extents of intermediate addresses, is covered.
Log entry 39 (DEDUCED). -/
def Cover.covers (r : Cover) (v n : Nat) (ipas : List (Nat × Nat)) : Bool :=
  match r with
  | .all => true
  | .va a m => decide (a < v + n) && decide (v < a + m)
  | .ipa a m => ipas.any fun x => decide (a < x.1 + x.2) && decide (x.1 < a + m)

def Cover.entry (r : Cover) (f : Nat) (e : CacheEntry) : Bool := e.func = f && r.covers e.page (pageBytes e.xl.psize) e.xl.ipas

/-- Whether a translation that a handle holds or an access has latched is covered. -/
def Cover.via (r : Cover) (v : Hnd) : Bool := r.covers (v.va / v.size * v.size) v.size v.ipas

/-- Whether a handle is to lose its VALID bit (R50). -/
def Cover.hnd (r : Cover) (v : Hnd) : Bool := v.valid && r.via v

/-- Drops the covered translations of a context from every cache. -/
def State.dropCached (s : State) (f : Nat) (r : Cover) : State :=
  let keep (l : List CacheEntry) : List CacheEntry := l.filter fun e => !r.entry f e
  let go (c : Core) : Core := { c with tlb := keep c.tlb }
  { s with
    core := go s.core, parked := s.parked.map go
    hub := { s.hub with dieTlb0 := keep s.hub.dieTlb0, dieTlb1 := keep s.hub.dieTlb1, ingress := keep s.hub.ingress } }

/-! The fault ring (R404, R405). -/

/-- Writes a record into a function's fault ring. -/
def Hub.ringWrite (h : Hub) (f : Nat) (bs : List Byte) : Hub :=
  let v := h.func f
  let size := 2 ^ (v.frctl.toNat % 16 + 4)
  let a := v.frbase.toNat + 32 * (v.frtail % size)
  let h := if v.frctl.getLsbD 4 then h.writeHbm a bs [] else { h with host := memWrite h.host a bs }
  h.updFunc f fun v => { v with frtail := (v.frtail + 1) % 2 ^ 32 }

/-- Hands a fault on a page to its driver (R404): the token of the record that now holds it, joined where one of the page is open; none
where the ring is off or full, and every fault is refused at once. -/
def State.fault (s : State) (f va : Nat) (kind path : Nat) (write : Bool) (pkg : Nat) (holder : Option Holder) : Option Nat × State :=
  let page := va / 65536
  let v := s.hub.func f
  let full := (v.frtail + 2 ^ 32 - v.frhead) % 2 ^ 32 ≥ 2 ^ (v.frctl.toNat % 16 + 4)
  if !v.frctl.getLsbD 5 || full then (none, s)
  else match s.hub.faults.find? fun r => r.func = f && r.page = page with
    | some r =>
      (some r.token, s.updHub fun h => { h with faults := h.faults.map fun q =>
        if q.token = r.token then { q with holders := q.holders ++ holder.toList } else q })
    | none =>
      let tok := s.hub.nextToken
      let bs := wordBytes va 8 ++ wordBytes v.tenant.toNat 3 ++ [BitVec.ofNat 8 kind] ++ wordBytes pkg 2 ++
        [BitVec.ofNat 8 (path + if write then 8 else 0), 0] ++ wordBytes tok 4 ++ List.replicate 12 0
      (some tok, s.updHub fun h =>
        { h.ringWrite f bs with
          nextToken := (tok + 1) % 2 ^ 32
          faults := h.faults ++ [⟨f, page, v.tenant, kind, tok, holder.toList⟩] })

/-! Handles. -/

/-- The kind of a fault on a page that is not there (R404): a walk error, or a page that is not present, as a local or a remote access
found it. -/
def faultKind (err remote : Bool) : Nat := if err then 2 else if remote then 1 else 0

/-- The handle of a virtual address (R242). Of a multicast range it holds the group's number, cut to a home's width, as its home; of a page
whose directory record breaks R400 it is a remote one that this package denies.
Log entry 86 (DESIGN CHOICE); log entry 87 (DESIGN CHOICE). -/
def makeHnd (h : Hub) (f va : Nat) (x : Xl) : Hnd :=
  let tenant := (h.func f).tenant
  let size := BitVec.ofNat 128 x.psize <<< 3
  let remote (home : Nat) : Hnd :=
    ⟨5 ||| size ||| (0x3FF <<< 5 : BitVec 128) ||| (BitVec.ofNat 128 (va / pageBytes x.psize * pageBytes x.psize) <<< 64),
      BitVec.ofNat 10 home, tenant, true, va, none, false, x.ipas⟩
  match h.homeOf f va with
  | .pkg n => remote n
  | .group n => remote n
  | .broken => remote h.pkg
  | .own =>
    let perm : BitVec 128 := if x.present then x.perm.setWidth 128 else 0x3FF
    ⟨1 ||| size ||| (perm <<< 5) ||| (if x.present && x.sync then 0x8000 else 0) |||
        (if x.present && x.settled then 0x10000 else 0) ||| (if x.present then BitVec.ofNat 128 x.pa <<< 64 else 0),
      BitVec.ofNat 10 h.pkg, tenant, x.present, va, none, false, x.ipas⟩

/-- The handle of a virtual address whose walk is still running (R242): REMOTE and the home are known; VADDR is the base of its
64 KiB page until PSIZE is.
Log entry 68 (DEDUCED). -/
def walkingHnd (h : Hub) (f va : Nat) : Hnd :=
  let v := makeHnd h f va (Xl.missing 0 false)
  { v with bits := if v.remote then 7 ||| (BitVec.ofNat 128 (va / 65536 * 65536) <<< 64) else 3 }

/-- XLATE's result lands (R242): the handle as now translated, or one whose walk is still running. A walk error is reported
(R392). -/
def State.landHandle (s : State) (r : BitVec 5) (va : Nat) (walk : Bool) : State :=
  if walk then s.updCore fun c => c.setH r (walkingHnd s.hub c.func va)
  else
    let t := s.translate va
    let s := if t.1.error then (t.2.fault s.core.func va 2 0 false s.hub.pkg none).2 else t.2
    s.updCore fun c => c.setH r (makeHnd s.hub s.core.func va t.1)

/-- Fills a handle whose page has become resident, its VALID bit as it was (R242, R245). -/
def refill (h : Hub) (f : Nat) (v : Hnd) : Hnd :=
  if v.valid && !v.remote && !v.resident && !v.miss then
    let x := h.walk f v.va
    if x.present then makeHnd h f v.va x else v
  else v

/-- Fills the handles of a core's task whose pages have become resident. -/
def Core.refilled (c : Core) (h : Hub) : Core := { c with hnd := c.hnd.map fun q => (q.1, refill h c.func q.2) }

/-- Fills the handles that a newly resident page serves, in saved records too. -/
def State.refillHandles (s : State) : State :=
  { s with
    core := s.core.refilled s.hub, parked := s.parked.map fun c => c.refilled s.hub,
    hub := { s.hub with saved := s.hub.saved.map fun r => { r with core := r.core.refilled s.hub } } }

/-! XLATE, HINV, HQRY, PGREQ (R242 to R245). -/

/-- XLATE: 24 cycles; a walk that outlasts them goes on, and so does one whose tables lie in a stack that has not started (R425). -/
def execXlate (h : Long) (o : Xlate) (s : State) : Out :=
  issue (.xlate h o) s fun u s =>
    let v := s.x u o.a
    if s.xPoison u o.a then trapWith Cause.undersizedDelay v
    else if v.toNat / 2 ^ 57 ≠ 0 then trapWith Cause.illegalField v
    else
      let t := s.freeTime
      if s.cached v.toNat || (t.1 ≤ 24 && s.hub.stacksOpen) then .ok (t.2.completeAfter u 24 [.h o.h v.toNat false])
      else
        let s := t.2.completeAfter u 24 [.h o.h v.toNat true]
        .ok (s.updCore fun c => c.launch { u with sig := 0 } 8 (.xlate o.h v.toNat) .going (24 + t.1) none false)

/-- TABLE_WALK_END. -/
def execTableWalkEnd (n : Nat) (s : State) : Out :=
  .next (match s.core.flightOf n with
    | some f =>
      match f.op with
      | .xlate r va =>
        if s.core.pulse < f.due || !s.hub.stacksOpen then s
        else
          let s := s.updCore fun c => c.dropFlight n
          if (s.core.getH r).miss && (s.core.getH r).va = va then
            let valid := (s.core.getH r).valid
            let s := s.landHandle r va false
            if valid then s else s.updCore fun c => c.setH r (c.getH r).clearValid
          else s
      | _ => s
    | none => s)

/-- Accesses in flight that were issued through a handle, or through any (R243). -/
def Core.handleUsers (c : Core) (all : Bool) (r : BitVec 5) : List Nat :=
  let mine (x : BitVec 5) : Bool := all || x = r
  (c.flight.filter fun f => !f.over && (f.hnd.any fun x => x.1.any mine) && match f.op with
    | .pgreq .. => false
    | _ => true).map (·.id) ++
  (c.cmds.filter fun k => k.hs.any fun x => mine x.1).map (·.id) ++ (c.sae.filter fun t => t.hnd.any fun x => mine x.1).map (·.id)

/-- HINV. -/
def execHinv (h : Long) (o : Hinv) (s : State) : Out :=
  issue (.hinv h o) s fun u s =>
    if o.all && o.h != 0 then trapWith Cause.illegalField 0
    else
      let s := s.updCore fun c =>
        { c with hnd := c.hnd.map fun q => if o.all || q.1 = o.h.toNat then (q.1, q.2.clearValid) else q }
      .ok (s.updCore fun c => c.launch u 8 (.hinv o.all o.h (c.handleUsers o.all o.h)) .going 1 none false)

/-- HINV_COMPLETE: every access it waits for has drained. -/
def execHinvComplete (n : Nat) (s : State) : Out :=
  .next (match s.core.flightOf n with
    | some f =>
      match f.op with
      | .hinv all r after =>
        if f.due ≤ s.core.pulse && after.all (fun i => !(s.core.handleUsers all r).contains i) then
          s.updCore fun c => c.finish f
        else s
      | _ => s
    | none => s)

/-- HQRY. -/
def execHqry (h : Long) (o : Hqry) (s : State) : Out :=
  issue (.hqry h o) s fun u s =>
    let v := s.core.getH o.h
    let part : Word := match o.part.toNat with
      | 0 => v.bits.setWidth 64
      | 1 => (v.bits >>> 64).setWidth 64
      | _ => BitVec.ofNat 64 (v.home.toNat + v.tenant.toNat * 1024)
    if o.part = 3 then trapWith Cause.illegalField 0 else .ok (s.setXAfter u 1 o.d part false)

/-- The virtual address of an offset of a handle's page. -/
def Hnd.vaAt (v : Hnd) (off : Nat) : Nat := v.va / v.size * v.size + off

/-- Asks that a page be made resident (R245): a local one of the driver, a remote one of its home.
Log entry 28 (DEDUCED). -/
def State.pageRequest (s : State) (u : Ctx) (r : BitVec 5) (off : Nat) : State :=
  let v := s.core.getH r
  let id := s.core.nextId
  let va := if v.remote then v.vaddr + off else v.vaAt off
  let put (st : Stage) (due : Nat) : State := s.updCore fun c => c.launch u 8 (.pgreq r off va) st due (some r) false
  if v.remote then (if v.denied then put .refused 1 else put .commit commitDelay)
  else if v.resident then put .done 1
  else
    let c := s.core
    let t := (put .away 0).fault c.func va (faultKind (s.hub.walk c.func va).error false) 0 false s.hub.pkg
      (some (.core c.die c.cluster c.core id))
    match t.1 with
    | some _ => t.2
    | none => t.2.updCore fun c => c.updFlight id fun f => { f with stage := .refused, due := c.pulse + 1 }

/-- PGREQ: a page that is resident completes at once. -/
def execPgreq (h : Long) (o : HX) (s : State) : Out :=
  issue (.pgreq h o) s fun u s =>
    let s := s.updCore fun c => c.setH o.h (refill s.hub c.func (c.getH o.h))
    let v := s.core.getH o.h
    let off := (s.x u o.o).toNat
    if s.xPoison u o.o then trapWith Cause.undersizedDelay (locWithOffset o.h off)
    else if !v.valid then trapWith Cause.handleInvalid (locWithOffset o.h off)
    else if v.size ≤ off then trapWith Cause.translationFault (locWithOffset o.h off)
    else if !v.remote && v.resident then .ok (s.updCore fun c => c.post c.nextId u.q u.pc u.sig)
    else .ok (s.pageRequest u o.h off)

/-- PGREQ_COMPLETE: the page is resident; the handle's fields are filled, and the post is made. -/
def execPgreqComplete (n : Nat) (s : State) : Out :=
  .next (match s.core.flightOf n with
    | some f =>
      match f.op with
      | .pgreq .. =>
        if f.stage = .done && f.due ≤ s.core.pulse then s.refillHandles.updCore fun c => c.finish f else s
      | _ => s
    | none => s)

end Sys2Proof.Machine
end

