-- ==== Sys2Proof/Machine/Memory.lean ====
section
/-!
DEFINITION. Scalar and vector accesses, ordered operations, WAITA, and their events (R246 to R255, R265, R270, R118 to R120).
-/

namespace Sys2Proof.Machine

open Sys2Proof

/-! Addresses and checks. -/

/-- A trap where a register of an access is poisoned (check 1 of R241). -/
def needClean (s : State) (u : Ctx) (rs : List (BitVec 5)) (ea : Word) : Except TrapRec Unit :=
  need (!s.anyPoison u rs) Cause.undersizedDelay ea

/-- The local address of an access (R246, R250): checks 1, 2, 6 and 7 of R241; `vs` are value registers. -/
def localAddr (s : State) (u : Ctx) (a : BitVec 5) (vs : List (BitVec 5)) (disp : Int) (n align : Nat) : Except TrapRec Nat := do
  needClean s u (a :: vs) (s.x u a + BitVec.ofInt 64 disp)
  let base ← localOperand s u a
  checkLocal (base + disp) n align
  pure (base + disp).toNat

/-- The offset of an access through a handle (R247, R252), modulo 2^64 (log entry 14, DEDUCED). -/
def handleOffset {w : Nat} (s : State) (u : Ctx) (o : BitVec 5) (disp : BitVec w) : Nat := (s.x u o + disp.signExtend 64).toNat

/-- The place of an access through a handle: checks 1 and 4 to 7 of R241. -/
def handleAddr (s : State) (u : Ctx) (h o : BitVec 5) (vs : List (BitVec 5)) (off n : Nat) (k : HandleUse) : Except TrapRec Loc := do
  needClean s u (o :: vs) (locWithOffset h off)
  checkHandle s.core h off n k
  pure (handlePlace (s.core.getH h) off)

/-- When a promised load issued now is due (R248, R325); nothing is promised in a portable task.
Log entry 19 (DEDUCED). -/
def State.promise (s : State) : Option Nat := if s.core.portable then none else some (s.baseCycle + s.core.classLat 15)

/-- Puts an access in flight: a local one at once, a remote one through the commit buffer. -/
def State.access (s : State) (u : Ctx) (path : Nat) (op : Op) (l : Loc) (hnd : Option (BitVec 5)) (hold : Bool) : State :=
  if l.isRemote then s.updCore fun c => c.launchOut u path op hnd hold else s.launch u path op hnd hold

/-! Scalar accesses (R246, R247). -/

/-- LDX. -/
def execLdx (h : Short) (o : Ldx) (s : State) : Out :=
  issue (.ldx h o) s fun u s => do
    let n : Nat := 2 ^ o.y.toNat
    let a ← localAddr s u o.a [] (o.o.toInt * n) n n
    pure (s.access u 0 (.load (.x o.d n o.x) (.spad a) n none none false) (.spad a) none false)

/-- STX: its effect is at once inside the core, and leaves the core after the commit delay (R299).
Log entry 20 (DEDUCED). -/
def execStx (h : Short) (o : Stx) (s : State) : Out :=
  issue (.stx h o) s fun u s => do
    let n : Nat := 2 ^ o.y.toNat
    let a ← localAddr s u o.a [o.s] (o.o.toInt * n) n n
    pure (s.launch u 0 (.store (.spad a) (wordBytes (s.x u o.s).toNat n)) none false)

/-- LDG: holds its sequencer until the value has returned. -/
def execLdg (h : Long) (o : Ldg) (s : State) : Out :=
  issue (.ldg h o) s fun u s => do
    let n : Nat := 2 ^ o.y.toNat
    let off := handleOffset s u o.o o.disp
    let l ← handleAddr s u o.h o.o [] off n ⟨0, false, false, true, n⟩
    pure (s.access u 0 (.load (.x o.d n o.x) l n none none false) l (some o.h) true)

/-- LDG.P (R248). -/
def execLdgP (h : Long) (o : LdgP) (s : State) : Out :=
  issue (.ldgP h o) s fun u s => do
    let n : Nat := 2 ^ o.y.toNat
    let off := handleOffset s u o.o o.disp
    let l ← handleAddr s u o.h o.o [] off n ⟨0, false, false, false, n⟩
    pure (s.access u 0 (.load (.x o.d n o.x) l n s.promise (some o.f) (l = .absent)) l (some o.h) false)

/-- STG: holds until the target has accepted the access. -/
def execStg (h : Long) (o : Stg) (s : State) : Out :=
  issue (.stg h o) s fun u s => do
    let n : Nat := 2 ^ o.y.toNat
    let off := handleOffset s u o.o o.disp
    let l ← handleAddr s u o.h o.o [o.s] off n ⟨0, true, false, true, n⟩
    pure (s.updCore fun c => c.launchOut u 0 (.store l (wordBytes (s.x u o.s).toNat n)) (some o.h) true)

/-! Vector accesses (R249 to R254). -/

/-- The bytes that a decoded load reads, by offset and length (R251). -/
def decSpans (b : BitVec 32) (blk : Nat) : List (Nat × Nat) :=
  if bfFmt b = 12 then (blk, 1) :: (List.range (bfPlanes b)).map fun i => (8 + 32 * i + 4 * blk, 4)
  else if bfScale b then [(blk, 1), (8 + 32 * blk, 32)]
  else [(0, 32 * elemBytes b)]

/-- VLD: 128 bytes unchanged, or 32 elements decoded by the bank's format. -/
def execVld (h : Long) (o : Vld) (s : State) : Out :=
  issue (.vld h o) s fun u s => do
    let m := physOp s.core.rbase o.m
    if !o.deco then
      let a ← localAddr s u o.a [] o.disp.toInt 128 4
      pure (s.access u 1 (.load (.vec m) (.spad a) 128 none none false) (.spad a) none false)
    else
      needClean s u [o.a] (s.x u o.a + BitVec.ofInt 64 o.disp.toInt)
      let base ← localOperand s u o.a
      let a : Int := base + o.disp.toInt
      let b := s.core.getBf (bankOf a.toNat)
      need (grouped b || o.blk = 0 || bfFmt b = 0 || bfSparse b ≠ 0) Cause.illegalField (BitVec.ofInt 64 a)
      checkLocal a (if bfFmt b = 0 || bfSparse b ≠ 0 then 1 else spansEnd (decSpans b o.blk.toNat))
        (if grouped b || bfFmt b = 0 then 1 else elemBytes b)
      need (!(bfFmt b = 0 || bfSparse b ≠ 0 || (o.int && 7 ≤ bfFmt b && bfFmt b ≤ 11))) Cause.bankFormat (BitVec.ofInt 64 a)
      pure (s.access u 1 (.load (.dec m b o.int o.blk.toNat) (.spad a.toNat) (spansEnd (decSpans b o.blk.toNat)) none none false)
        (.spad a.toNat) none false)

/-- The 128 bytes of a vector. -/
def vecBytes (v : Vec) : List Byte := (List.range 32).flatMap fun e => wordBytes (v.cell e).toNat 4

/-- The vector that a promised load still in flight is to write, and its due cycle. -/
def Flight.promisedVec (f : Flight) : Option (BitVec 12 × Nat) :=
  match f.op with
  | .load (.vec m) _ _ (some t) _ _ => if f.late then none else some (m, t)
  | _ => none

/-- The side ports that promised writes hold or are to hold (R249). -/
def Core.promisedPorts (c : Core) : List PortRes :=
  c.ports.filter (fun p => p.kind = .side) ++ (c.flight.filterMap Flight.promisedVec).flatMap fun x =>
    (mrfBanks x.1).map fun b => ⟨.side, b, 0, x.2, x.2 + occupancy c.map x.1 - 1⟩

/-- Pulses from now until an untimed access may have the side ports of a vector: those before it have used them, and promised writes come
first (R249). While the timed domain stands, no promised write uses its ports.
Log entry 92 (DESIGN CHOICE). -/
def Core.sideWait (c : Core) (m : BitVec 12) : Nat :=
  let w := c.sideFree - c.pulse
  if c.domainHeld || c.ilk != 0 then w
  else
    let ps := c.promisedPorts
    (Machine.reserve ps .side (mrfBanks m) (occupancy c.map m) (portHorizon ps (c.cycle + w)) (c.cycle + w)).1 - c.cycle

/-- The side port is held for a vector read made now (R249). -/
def Core.sideRead (c : Core) (m : BitVec 12) : Core := { c with sideFree := c.pulse + c.sideWait m + occupancy c.map m }

/-- VST: a vector with a poisoned cell traps and writes nothing.
Log entry 20 (DEDUCED). -/
def execVst (h : Long) (o : Vst) (s : State) : Out :=
  issue (.vst h o) s fun u s => do
    let m := physOp s.core.rbase o.m
    let v := readVec s.core.mrf m
    need (v.poison = 0) Cause.undersizedDelay (s.x u o.a + BitVec.ofInt 64 o.disp.toInt)
    let a ← localAddr s u o.a [] o.disp.toInt 128 4
    pure ((s.updCore fun c => c.sideRead m).launch u 1 (.store (.spad a) (vecBytes v)) none false)

/-- VLDG (R248, R252). -/
def execVldg (h : Long) (o : Vldg) (s : State) : Out :=
  issue (.vldg h o) s fun u s => do
    let off := handleOffset s u o.o o.disp
    let l ← handleAddr s u o.h o.o [] off 128 ⟨1, false, false, false, 4⟩
    pure (s.access u 1 (.load (.vec (physOp s.core.rbase o.m)) l 128 s.promise (some o.f) (l = .absent)) l (some o.h) false)

/-- VSTG: through a REMOTE handle it holds ST. -/
def execVstg (h : Long) (o : Vstg) (s : State) : Out :=
  issue (.vstg h o) s fun u s => do
    let m := physOp s.core.rbase o.m
    let v := readVec s.core.mrf m
    let off := handleOffset s u o.o o.disp
    need (v.poison = 0) Cause.undersizedDelay (locWithOffset o.h off)
    let l ← handleAddr s u o.h o.o [] off 128 ⟨1, true, false, true, 4⟩
    pure (s.updCore fun c => (c.sideRead m).launchOut u 1 (.store l (vecBytes v)) (some o.h) l.isRemote)

/-- The fields of a pattern record (R253): the period in bytes, the number of fields, and a field's offset, width and sign. -/
def patPeriod (p : Pattern) : Nat := (p.getD 0 0).toNat % 16 + 1
def patFields (p : Pattern) : Nat := leNat (p.take 2) / 16 % 32 + 1
def patField (p : Pattern) (f : Nat) : Nat × Nat × Bool :=
  let v := leNat ((p.drop (8 + 2 * f)).take 2)
  (v % 128, v / 128 % 16 + 1, v / 2048 % 2 = 1)

/-- Whether a record obeys R253. -/
def patOk (p : Pattern) : Bool :=
  leNat (p.take 8) / 512 == 0 &&
  (List.range 32).all fun f =>
    let v := leNat ((p.drop (8 + 2 * f)).take 2)
    if f < patFields p then v / 4096 == 0 && decide ((patField p f).1 + (patField p f).2.1 ≤ 8 * patPeriod p) else v == 0

/-- VLDB. -/
def execVldb (h : Long) (o : Vldb) (s : State) : Out :=
  issue (.vldb h o) s fun u s => do
    let p := AMap.get [] s.core.bx o.n.toNat
    let n := ceilDiv 32 (patFields p) * patPeriod p
    needClean s u [o.a] (s.x u o.a + BitVec.ofInt 64 o.disp.toInt)
    let base ← localOperand s u o.a
    need (p != []) Cause.illegalField (BitVec.ofInt 64 (base + o.disp.toInt))
    let a ← localAddr s u o.a [] o.disp.toInt n 1
    pure (s.access u 1 (.load (.fields (physOp s.core.rbase o.m) p) (.spad a) n none none false) (.spad a) none false)

/-- BXLD: holds LD until the record has been read and checked. -/
def execBxld (h : Long) (o : Bxld) (s : State) : Out :=
  issue (.bxld h o) s fun u s => do
    let a ← localAddr s u o.a [] 0 72 8
    pure (s.access u 1 (.load (.pattern o.n) (.spad a) 72 none none false) (.spad a) none true)

/-- PREF: the checks of R241 apart from residency; a page that is not resident is asked for, here or at its home, with no report.
Log entry 69 (DEDUCED). -/
def execPref (h : Long) (o : HX) (s : State) : Out :=
  issue (.pref h o) s fun u s => do
    let off := (s.x u o.o).toNat
    let l ← handleAddr s u o.h o.o [] off 1 ⟨1, false, false, false, 1⟩
    let v := s.core.getH o.h
    let s := match l with
      | .absent =>
        (s.fault s.core.func (v.vaAt off) (faultKind (s.hub.walk s.core.func (v.vaAt off)).error false) 1 false s.hub.pkg none).2
      | .remote home va =>
        match s.hub.homeOf s.core.func va with
        | .group _ => s.updCore fun c => c.noteDenied va
        | _ => s.request (some (s.core.owner s.core.nextId)) (s.hub.packet 7 1 home.toNat s.core.tenant va 0 0 (.pgreq v.token))
      | _ => s
    pure (s.updCore fun c => { c.post c.nextId u.q u.pc u.sig with nextId := c.nextId + 1 })

/-! Ordered operations (R118 to R120, R270). -/

/-- Whether the core holds a wheel position (R118). -/
def Core.holdsWheel (c : Core) : Bool := c.task.any fun t => t.wheel != []

/-- ORDLD. -/
def execOrdld (h : Long) (o : OrdLd) (s : State) : Out :=
  issue (.ordld h o) s fun u s => do
    let n : Nat := 2 ^ o.y.toNat
    let off := (s.x u o.o).toNat
    let l ← handleAddr s u o.h o.o [] off n ⟨0, false, false, true, n⟩
    need s.core.holdsWheel Cause.permission (locWithOffset o.h off)
    pure (s.updCore fun c => c.launchOut u 0 (.ordLoad o.d l n o.x) (some o.h) true)

/-- ORDST. -/
def execOrdst (h : Long) (o : OrdSt) (s : State) : Out :=
  issue (.ordst h o) s fun u s => do
    let n : Nat := 2 ^ o.y.toNat
    let off := (s.x u o.o).toNat
    let l ← handleAddr s u o.h o.o [o.s] off n ⟨0, true, false, true, n⟩
    need s.core.holdsWheel Cause.permission (locWithOffset o.h off)
    pure (s.updCore fun c => c.launchOut u 0 (.ordStore l (wordBytes (s.x u o.s).toNat n)) (some o.h) true)

/-- ORDERED_OP_PERFORM: the operation takes the wheel position of this tick, if it is one of its core's (R119).
Log entry 54 (DEDUCED). -/
def execOrderedOpPerform (n : Nat) (s : State) : Out :=
  .next (match s.core.flightOf n with
    | some f =>
      let mine := s.core.task.any fun t => t.wheel.contains (s.tick % 1024)
      if f.stage != .away || !mine then s
      else
        let t := s.freeTime
        let done (bs : List Byte) (marks : List Nat) (s : State) : State := s.updCore fun c =>
          c.updFlight n fun f => { f with stage := .done, due := c.pulse + 1 + t.1, data := bs, marks := marks }
        match f.op with
        | .ordLoad _ l k _ => if l.isRemote || s.hbmHeld l k n then s else let r := s.readLoc l 0 k; done r.1 r.2 t.2
        | .ordStore l bs => if l.isRemote || s.hbmHeld l bs.length n then s else done [] [] (t.2.writeLoc l bs [])
        | _ => s
    | none => s)

/-! Values that return. -/

/-- The cells of 128 bytes. -/
def bytesVec (bs : List Byte) : Vec := Vec.ofFn (fun e => BitVec.ofNat 32 (leNat ((bs.drop (4 * e)).take 4))) (fun _ => false)

/-- The cells of a decoded load (R251), from the bytes at its address on. -/
def decVec (b : BitVec 32) (int : Bool) (blk : Nat) (bs : List Byte) : Vec :=
  let el (e : Nat) : Elem :=
    if grouped b then groupElem b bs (32 * blk + e)
    else elemOf ((fmtOfCode (bfFmt b)).getD .i8) (leNat ((bs.drop (e * elemBytes b)).take (elemBytes b)))
  Vec.ofFn (fun e =>
    if int then BitVec.ofInt 32 (el e).int
    else if bfFmt b = 7 && !grouped b then BitVec.ofNat 32 (leNat ((bs.drop (4 * e)).take 4))
    else BitVec.ofNat 32 (roundFloat .f32 (el e).val Arith.default 0)) (fun _ => false)

/-- The cells of a bit-field load (R254). -/
def fieldVec (p : Pattern) (bs : List Byte) : Vec :=
  let v := leNat bs
  Vec.ofFn (fun c =>
    let f := patField p (c % patFields p)
    let x := v / 2 ^ (8 * patPeriod p * (c / patFields p) + f.1) % 2 ^ f.2.1
    if f.2.2 && x / 2 ^ (f.2.1 - 1) = 1 then BitVec.ofInt 32 ((x : Int) - (2 ^ f.2.1 : Nat)) else BitVec.ofNat 32 x) (fun _ => false)

/-- Of the marked bytes of a load, those it reads. -/
def loadMarks (dst : LoadDst) (marks : List Nat) : List Nat :=
  match dst with
  | .dec _ b _ blk => marks.filter fun m => (decSpans b blk).any fun x => x.1 ≤ m && m < x.1 + x.2
  | _ => marks

/-- Writes what a load brought; a vector lands at the pulse's end (R31). -/
def Core.writeLoad (c : Core) (q : SeqId) (dst : LoadDst) (bs : List Byte) (poison : Bool) : Core :=
  let vec (m : BitVec 12) (v : Vec) : Core := { c with sideWr := c.sideWr ++ [(m, if poison then Vec.poisoned else v)] }
  match dst with
  | .x r n sx => c.updSeq q fun v => v.setX r (extendScalar (bs.take n) sx) poison
  | .vec m => vec m (bytesVec bs)
  | .dec m b int blk => vec m (decVec b int blk bs)
  | .fields m p => vec m (fieldVec p bs)
  | .pattern n => { c with bx := AMap.set [] c.bx n.toNat bs }

/-- The MRF write of a promised vector load, due in this cycle: one that finds the side port held starts late and poisons its
cells (R249, R40). -/
def Core.promisedVec (c : Core) (m : BitVec 12) (v : Vec) : Core :=
  let r := c.reserve .side m c.cycle
  let v := if r.1 = c.cycle then v else Vec.poisoned
  { r.2 with
    mwr := r.2.mwr ++ [⟨c.nextId, r.1, r.1 + occupancy c.map m - 1, m, v, BitVec.allOnes 32, true⟩], nextId := c.nextId + 1 }

/-- Writes the destination of a promised load at its due cycle. -/
def Core.writePromised (c : Core) (q : SeqId) (dst : LoadDst) (bs : List Byte) (poison : Bool) : Core :=
  match dst with
  | .vec m => c.promisedVec m (if poison then Vec.poisoned else bytesVec bs)
  | _ => c.writeLoad q dst bs poison

/-- The MRF operand that an untimed vector load writes; a promised one is due at its cycle. -/
def Flight.sideVec (f : Flight) : Option (BitVec 12) :=
  match f.op with
  | .load (.vec m) _ _ none _ _ => some m
  | .load (.dec m ..) _ _ none _ _ => some m
  | .load (.fields m _) _ _ none _ _ => some m
  | _ => none

/-- Whether an untimed vector load may begin its write now: those before it have written, and the side port is free (R249). -/
def Core.sideTurn (c : Core) (f : Flight) (m : BitVec 12) : Bool :=
  c.sideWait m = 0 && c.flight.all fun g => g.sideVec.isNone || f.id ≤ g.id

/-- The side port as an untimed vector load, whose data is there, stands before it: its write begins in its turn (R249). -/
def Core.sideBegin (c : Core) (f : Flight) : Core :=
  match f.sideVec with
  | some m =>
    if c.sideNow != some f.id && c.sideTurn f m then { c with sideNow := some f.id, sideFree := c.pulse + occupancy c.map m } else c
  | none => c

/-- Whether a load whose data is there may end now: an untimed vector load in the last pulse of its write. -/
def Core.sideEnds (c : Core) (f : Flight) : Bool := f.sideVec.isNone || (c.sideNow = some f.id && decide (c.sideFree ≤ c.pulse + 1))

/-- Ends a load: its flag predicate, its hold and its post (R248). -/
def Core.endLoad (c : Core) (f : Flight) (absent : Bool) : Core :=
  let c := match f.op with
    | .load _ _ _ _ (some r) _ => c.writeP f.q r (if absent then BitVec.allOnes 32 else 0)
    | _ => c
  c.finish f

/-- A load that met marked bytes leaves its destination unwritten (R296). -/
def Core.consumeLoad (c : Core) (f : Flight) (addr : Nat) : Core :=
  ((c.dropFlight f.id).release f).consume f.q f.pc addr

/-- The data of a load is there (or zeros from a page that is not resident, or nothing after a time-out). -/
def Core.loadArrives (c : Core) (f : Flight) (bs : List Byte) (marks : List Nat) (absent timedOut : Bool) : Core :=
  match f.op with
  | .load dst src n promise pf _ =>
    match promise with
    | some _ =>
      if f.late then c.endLoad f absent
      else c.updFlight f.id fun f =>
        { f with stage := if timedOut then .timedOut else .done, data := bs, marks := marks, op := .load dst src n promise pf absent }
    | none =>
      match loadMarks dst marks with
      | m :: _ => c.consumeLoad f (src.addr + m)
      | [] =>
        match dst with
        | .pattern _ =>
          if patOk bs then (c.writeLoad f.q dst bs false).endLoad f absent else c.failHeld f Cause.illegalField 0
        | _ => (c.writeLoad f.q dst bs timedOut).endLoad f absent
  | .ordLoad d src n sx =>
    match marks with
    | m :: _ => c.consumeLoad f (src.addr + m)
    | [] => (c.writeLoad f.q (.x d n sx) bs timedOut).finish f
  | _ => c

/-- Whether an answered load still waits for its due cycle (R248). -/
def Flight.awaitsDue (f : Flight) : Bool :=
  match f.op with
  | .load _ _ _ (some _) _ _ => !f.late
  | _ => false

/-- The spans that a load reads from its place on. -/
def LoadDst.spans (dst : LoadDst) (k : Nat) : List (Nat × Nat) :=
  match dst with
  | .dec _ b _ blk => decSpans b blk
  | _ => [(0, k)]

/-- The data of a load is there: an untimed vector load waits for the side port, and ends in the last pulse of its write (R249); marked
bytes end it at once. -/
def Core.loadReady (c : Core) (f : Flight) (dst : LoadDst) (bs : List Byte) (marks : List Nat) (absent timedOut : Bool) : Core :=
  if loadMarks dst marks != [] then c.loadArrives f bs marks absent timedOut
  else
    let c := c.sideBegin f
    if c.sideEnds f then c.loadArrives f bs marks absent timedOut else c

/-- A local load is performed: its bytes are read, or it ends at bytes in flight (R102). -/
def State.performLoad (s : State) (f : Flight) (dst : LoadDst) (l : Loc) (k : Nat) (absent : Bool) : State :=
  if (dst.spans k).any fun x => s.readsEarly (l.advance x.1) x.2 then s.updCore fun c => c.earlyRead f (BitVec.ofNat 64 l.addr)
  else
    let r := s.readLoc l 0 k
    ((dst.spans k).foldl (fun s x => s.noteRead f.q (l.advance x.1) x.2 (BitVec.ofNat 64 l.addr)) s).updCore fun c =>
      (c.updFlight f.id fun f => { f with stage := .done, data := r.1, marks := r.2 }).loadReady f dst r.1 r.2 absent false

/-- LOAD_VALUE_RETURN: a local load is performed, once the accesses it must follow have been (R99); its value, that of a remote
one's answer, or an ordered load's, is written.
Log entry 47 (DESIGN CHOICE). -/
def execLoadValueReturn (n : Nat) (s : State) : Out :=
  .next (match s.core.flightOf n with
    | some f =>
      if s.core.pulse < f.due then s
      else match f.op, f.stage with
        | .load dst l k _ _ absent, .going =>
          if l.isRemote || s.core.blocked f || s.hbmHeld l k n then s else s.performLoad f dst l k absent
        | .load dst _ _ _ _ absent, .done =>
          if f.awaitsDue then s else s.updCore fun c => c.loadReady f dst f.data f.marks absent false
        | .load dst _ k _ _ _, .timedOut =>
          if f.awaitsDue then s else s.updCore fun c => c.loadReady f dst (List.replicate k 0) [] false true
        | .ordLoad .., .done => s.updCore fun c => c.loadArrives f f.data f.marks false false
        | .ordLoad _ _ k _, .timedOut => s.updCore fun c => c.loadArrives f (List.replicate k 0) [] false true
        | .operand _ _ _ _ l spans, .going =>
          if spans.any fun x => s.hbmHeld (l.advance x.1) x.2 n then s
          else
            let r := s.readSpans l spans
            s.updCore fun c => c.updFlight n fun f => { f with stage := .done, data := r.1, marks := r.2 }
        | _, _ => s
    | none => s)

/-- PROMISED_LOAD_DUE: at the due cycle the data is written, or the destination is poisoned and the data, when it comes,
discarded (R24, R248). -/
def execPromisedLoadDue (n : Nat) (s : State) : Out :=
  .next (match s.core.flightOf n with
    | some f =>
      match f.op with
      | .load dst src _ (some t) _ absent =>
        if f.late || s.core.cycle < t then s
        else match f.stage with
          | .done =>
            match f.marks with
            | m :: _ => s.updCore fun c => c.consumeLoad f (src.addr + m)
            | [] => s.updCore fun c => (c.writePromised f.q dst f.data false).endLoad f absent
          | .timedOut => s.updCore fun c => (c.writePromised f.q dst [] true).endLoad f false
          | _ => s.updCore fun c => (c.writePromised f.q dst [] true).updFlight n fun f => { f with late := true }
      | _ => s
    | none => s)

/-- STORE_ACKNOWLEDGE: the target performs a store of this package, once the earlier accesses it must follow have been
(R99), or another package has answered; the store completes. -/
def execStoreAcknowledge (n : Nat) (s : State) : Out :=
  .next (match s.core.flightOf n with
    | some f =>
      if s.core.pulse < f.due then s
      else match f.op, f.stage with
        | .store l bs, .going =>
          if s.core.blocked f || s.hbmHeld l bs.length n then s else (s.writeOwn l bs []).updCore fun c => c.finish f
        | .store .., .done => s.updCore fun c => c.finish f
        | .ordStore .., .done => s.updCore fun c => c.finish f
        | _, _ => s
    | none => s)

/-! WAITA (R57, R265). -/

/-- WAITA: holds its sequencer and reads the flag word over and over. -/
def execWaita (h : Long) (o : Waita) (s : State) : Out :=
  issue (.waita h o) s fun u s => do
    let a ← localAddr s u o.a [o.v] 0 8 8
    pure ((s.updCore fun c => c.launch u 2 (.waita o.e a (s.x u o.v) o.lim) .going 1 none true).updSeq fun q => { q with wd := 0 })

/-- WAITA_SATISFIED: a read of the flag word; a value at least the expected one ends the WAITA with P all ones. -/
def execWaitaSatisfied (n : Nat) (s : State) : Out :=
  .next (match s.core.flightOf n with
    | some f =>
      match f.op with
      | .waita e a v _ =>
        if s.core.pulse < f.due then s
        else
          match (s.readLoc (.spad a) 0 8).2 with
          | m :: _ => s.updCore fun c => c.consumeLoad f (a + m)
          | [] =>
            if s.readsEarly (.spad a) 8 then s.updCore fun c => c.earlyRead f (BitVec.ofNat 64 a)
            else if v.toNat ≤ leNat (memRead s.core.spad a 8) then
              s.updCore fun c => ((c.writeP f.q e (BitVec.allOnes 32)).updSeq f.q fun q => { q with wd := 0 }).finish f
            else s.noteRead f.q (.spad a) 8 (BitVec.ofNat 64 a)
      | _ => s
    | none => s)

/-- WAITA_TIMEOUT: 1,024 × 2^TO pulses have passed; the WAITA ends with P zero. -/
def execWaitaTimeout (n : Nat) (s : State) : Out :=
  .next (match s.core.flightOf n with
    | some f =>
      match f.op with
      | .waita e _ _ lim =>
        if lim = 15 || (s.core.seq f.q).wd < 1024 * 2 ^ lim.toNat then s
        else s.updCore fun c => ((c.writeP f.q e 0).updSeq f.q fun q => { q with wd := 0 }).finish f
      | _ => s
    | none => s)

end Sys2Proof.Machine
end

