-- ==== Sys2Proof/Machine/Copy.lean ====
section
/-!
DEFINITION. The copy engine: loop levels, copies, ACC drains, bank formats and fabric signals, with their events (R86, R87,
R109 to R111, R256 to R264, R276, R277, R445).
-/

namespace Sys2Proof.Machine

open Sys2Proof

/-! Bank formats and loop levels (R256, R264). -/

/-- CPLV: takes effect for what its sequencer issues after it. -/
def execCplv (h : Long) (o : Cplv) (s : State) : Out :=
  issue (.cplv h o) s fun u s =>
    if s.anyPoison u [o.c, o.s, o.d] then trapWith Cause.undersizedDelay
    else
      let v : Level := ⟨(s.x u o.c).setWidth 32, (s.x u o.s).setWidth 32, (s.x u o.d).setWidth 32⟩
      .ok (s.completeAfter u 1 [.cl u.q o.n v])

/-- BFMT: from the cycle after issue. -/
def execBfmt (h : Long) (o : Bfmt) (s : State) : Out :=
  issue (.bfmt h o) s fun u s => .ok (s.completeAfter u 1 [.bf o.b.toNat o.v])

/-- BFMTR. -/
def execBfmtr (h : Long) (o : Bfmtr) (s : State) : Out :=
  issue (.bfmtr h o) s fun u s =>
    let v := s.x u o.a
    if s.xPoison u o.a then trapWith Cause.undersizedDelay
    else if v.toNat / 2 ^ 32 ≠ 0 ∨ !bfValid (v.setWidth 32) then trapWith Cause.illegalField
    else .ok (s.completeAfter u 1 [.bf o.b.toNat (v.setWidth 32)])

/-! Conversion (R86, R87, R445). -/

/-- The format that an end of a copy has for a burst that begins at an address of it: the issuing core's register of the bank
there, or RAW through a handle. -/
def endFmt (bf : AMap (BitVec 32)) (viaHandle : Bool) (a : Nat) : BitVec 32 := if viaHandle then 0 else AMap.get 0 bf (bankOf a)

/-- Whether a burst between two formats converts. -/
def converts (fs fd : BitVec 32) : Bool :=
  !(bfFmt fs = 0 || bfFmt fd = 0 || (bfFmt fs = bfFmt fd && bfScale fs = bfScale fd && bfSparse fs = bfSparse fd))

/-- Bytes and elements of a source unit (R72). -/
def unitBytes (f : BitVec 32) : Nat :=
  if grouped f then 264 else if bfSparse f ≠ 0 then sparseBytes (bfSparse f) (elemBytes f * 8) else elemBytes f
def unitElems (f : BitVec 32) : Nat := if grouped f then 256 else if bfSparse f ≠ 0 then 12 else 1

/-- Elements that a burst of `n` source bytes converts. -/
def burstElems (fs fd : BitVec 32) (n : Nat) : Nat := if converts fs fd then n / unitBytes fs * unitElems fs else 0

/-- Destination bytes of a burst of `n` source bytes. -/
def burstBytes (fs fd : BitVec 32) (n : Nat) : Nat :=
  if converts fs fd then burstElems fs fd n * elemBytes fd else n

/-- Whether a burst may be made (R86). -/
def burstOk (fs fd : BitVec 32) (n : Nat) : Bool :=
  !converts fs fd || (!bfScale fd && bfFmt fd != 12 && bfSparse fd = 0 && n % unitBytes fs == 0)

/-- The LFSR after `n` steps (R76). -/
def lfsrSteps : Nat → BitVec 32 → BitVec 32
  | 0, r => r
  | n + 1, r => lfsrSteps n (lfsrStep r)

/-- An element's pattern as an instruction under FTZ takes it (R78). -/
def flushWord (a : Arith) (k : Fmt) (v : Nat) : Nat :=
  if a.ftz && k.isFloat && isSubnormal k v then v / 2 ^ (k.width - 1) * 2 ^ (k.width - 1) else v

/-- The elements of a source unit: a dense one's pattern, and each one's value (R72, R78). -/
def unitValues (f : BitVec 32) (a : Arith) (bs : List Byte) : List Elem :=
  let k := (fmtOfCode (bfFmt f)).getD .i8
  let flush (v : Nat) : Elem := elemOf k (flushWord a k v)
  if bfFmt f = 12 then (List.range 256).map (groupElem f bs)
  else if bfScale f then
    let g := bs.mapIdx fun i b => if i < 8 then b else BitVec.ofNat 8 (flushWord a k b.toNat)
    (List.range 256).map (groupElem f g)
  else if bfSparse f ≠ 0 then
    (List.range 12).map fun e => ((sparseElem (bfSparse f) (elemBytes f * 8) bs e).map flush).getD Elem.zero
  else [flush (leNat bs)]

/-- The first malformed sparse group among the units of a burst, by its place in it (R70). -/
def badUnitAt (f : BitVec 32) (bs : List Byte) : Option Nat :=
  if grouped f || bfSparse f = 0 then none
  else
    let n := unitBytes f
    ((List.range (bs.length / n)).map (· * n)).find? fun a => !sparseOk (bfSparse f) ((bs.drop a).take n)

/-- One element rounded into the destination format: R81 from a dense or sparse integer to an integer, else RoundTo, from a
scaled or BPI source too, whose values are no integers (R66).
Log entry 71 (DEDUCED). -/
def convertElem (fs fd : BitVec 32) (a : Arith) (r : BitVec 32) (e : Elem) : Nat :=
  let k := (fmtOfCode (bfFmt fd)).getD .i8
  if intFormat fs || bfFmt fs = 5 || bfFmt fs = 6 then
    if !grouped fs && !k.isFloat then settleInt k e.int a else roundTo k e.val a r
  else roundTo k e.val a r

/-- The destination bytes of a list of elements, and the LFSR after them. -/
def convertElems (fs fd : BitVec 32) (a : Arith) : List Elem → BitVec 32 → List Byte × BitVec 32
  | [], r => ([], r)
  | e :: es, r =>
    let r := if a.rm = 5 then lfsrStep r else r
    let rest := convertElems fs fd a es r
    (wordBytes (convertElem fs fd a r e) (elemBytes fd) ++ rest.1, rest.2)

/-- Bytes of a source unit that a conversion fetches: of a BPI group, the planes that its count names (R67). -/
def unitFetched (f : BitVec 32) : Nat := if bfFmt f = 12 then 8 + 32 * bfPlanes f else unitBytes f

/-- What a burst of `n` source bytes reads, by offset and length. -/
def burstSpans (fs fd : BitVec 32) (n : Nat) : List (Nat × Nat) :=
  if converts fs fd then (List.range (n / unitBytes fs)).map fun i => (i * unitBytes fs, unitFetched fs) else [(0, n)]

/-- A converting burst, unit by unit: `n` units; the marks of the bytes fetched of a unit pass to all of its elements (R67, R295). -/
def convertUnits (fs fd : BitVec 32) (a : Arith) (bs : List Byte) (marks : List Nat) : Nat → Nat → BitVec 32 → List Byte × List Nat × BitVec 32
  | 0, _, r => ([], [], r)
  | n + 1, i, r =>
    let k := unitBytes fs
    let c := convertElems fs fd a (unitValues fs a ((bs.drop (i * k)).take k)) r
    let hit := marks.any fun m => i * k ≤ m && m < i * k + unitFetched fs
    let rest := convertUnits fs fd a bs marks n (i + 1) c.2
    let d := unitElems fs * elemBytes fd
    (c.1 ++ rest.1, (if hit then (List.range d).map (i * d + ·) else []) ++ rest.2.1, rest.2.2)

/-- What a burst writes, from what it read. -/
def burstOut (fs fd : BitVec 32) (a : Arith) (r : BitVec 32) (bs : List Byte) (marks : List Nat) : List Byte × List Nat × BitVec 32 :=
  if converts fs fd then convertUnits fs fd a bs marks (bs.length / unitBytes fs) 0 r else (bs, marks, r)

/-! Ends of a copy. -/

/-- An end of a copy: its locator, whether it is written, and where its bursts start, with the bytes of each. -/
structure CopyEnd where
  loc : Word
  write : Bool
  runs : List (Int × Nat)
  deriving DecidableEq, Repr

/-- Check 1 of R241 on registers, each with the address that EADDR reports: a locator, or 0 for a count or value.
Log entry 72 (DESIGN CHOICE). -/
def needUnpoisoned (s : State) (u : Ctx) (rs : List (BitVec 5 × Word)) : Except TrapRec Unit :=
  needAll rs (fun x => !s.xPoison u x.1) Cause.undersizedDelay (·.2)

/-- Check 2 of R241 of a locator of an end, with the kinds it may have; a source names one rank (R47, R259). -/
def endFieldsOk (kinds : List Nat) (read : Bool) (w : Word) : Bool :=
  kinds.contains (locKind w) && locFieldsOk w && !(read && locKind w = 1 && locMcast w ≠ 0)

/-- The place of a locator's end, from its address field on, and that field. -/
def endPlace (c : Core) (w : Word) : Loc × Nat :=
  match locKind w with
  | 0 => (.spad 0, locAddr w)
  | 1 => (.clus (locRank w) (locMcast w) 0, locAddr w)
  | _ => (handlePlace (c.getH (locHandle w)) 0, locOffset w)

/-- The handles that a list of locators names, with their registers. -/
def handlesOf (c : Core) (ws : List Word) : List (BitVec 5 × Hnd) :=
  (ws.filter fun w => locKind w = 2).map fun w => (locHandle w, c.getH (locHandle w))

/-- Checks 3 to 5 of R241 of the ends of a copy. -/
def endsPermitted (c : Core) (es : List CopyEnd) : Except TrapRec Unit :=
  let hs := es.filter fun e => locKind e.loc = 2
  let h (e : CopyEnd) : Hnd := c.getH (locHandle e.loc)
  do
    needAll es (fun e => locKind e.loc ≠ 1 || clusterOk c e.loc) Cause.permission (·.loc)
    needAll hs (fun e => (h e).valid) Cause.handleInvalid (·.loc)
    needAll hs (fun e => (h e).perm (if e.write then 10 else 9) && !(h e).sync) Cause.permission (·.loc)

/-- Bytes that a locator's end may reach. -/
def endTop (c : Core) (w : Word) : Nat := if locKind w = 2 then (c.getH (locHandle w)).size else spadSize

/-- Check 7 of R241 of the ends of a copy: EADDR names the first burst that leaves the scratchpad or the page, or the locator of a page
that is not resident. -/
def endsInside (c : Core) (es : List CopyEnd) : Except TrapRec Unit := do
  needAll (es.flatMap fun e => e.runs.map fun r => (e.loc, r))
    (fun x => decide (0 ≤ x.2.1) && decide (x.2.1 + (x.2.2 : Int) ≤ (endTop c x.1 : Int))) Cause.translationFault
    (fun x => locAt x.1 x.2.1)
  needAll (es.filter fun e => locKind e.loc = 2) (fun e => (c.getH (locHandle e.loc)).remote || (c.getH (locHandle e.loc)).resident)
    Cause.translationFault (·.loc)

/-- A flag word as an end of its copy (R109, R259). -/
def flagEnd (w : Word) : CopyEnd := ⟨w, true, [((locAddr w : Nat), 8)]⟩

/-- Where the flag of a copy to a place lies (R109). -/
def flagPlace (dst : Loc) (w : Word) : Loc :=
  match dst with
  | .clus r m _ => .clus r m (locAddr w)
  | _ => .spad (locAddr w)

/-- The levels of a nest (R258): the burst length and every COUNT in range, fewer than 2^32 bursts. -/
def nest (s : State) (u : Ctx) (b : BitVec 5) (depth : Nat) : Except TrapRec (Nat × List Level) := do
  let n := (s.x u b).toNat
  let ls := (List.range depth).map fun i => (s.regs u).getCl i
  need (1 ≤ n && n ≤ 65536 && (ls.all fun l => 1 ≤ l.count.toNat) && ls.foldl (fun acc l => acc * l.count.toNat) 1 < 2 ^ 32)
    Cause.illegalField 0
  pure (n, ls)

/-- A new command of the engine. -/
def newCmd (s : State) (u : Ctx) (k : CmdKind) (timed : Bool) (due : Nat) : EngineCmd :=
  let c := s.core
  { id := c.nextId, q := u.q, pc := u.pc, kind := k, timed := timed, ord := false, arith := u.arith, bf := c.bf,
    seed := (s.regs u).srseed, pred := c.lastCopy, flag := none, staged := none, sig := u.sig, cls := u.cls, hs := [],
    acc := if timed then s.baseCycle else c.pulse, start := none, due := due, stage := .going, srcs := [], dests := [],
    writes := [], words := [], level := c.level, quiet := false }

/-- Whether a command is a copy, as .ORD counts them (R111). -/
def CmdKind.isCopy : CmdKind → Bool
  | .copy .. => true
  | .acc .. => true
  | _ => false

/-- Whether a timed command may start in a schedule cycle (R111, R260). -/
def Core.mayStart (c : Core) (k : EngineCmd) (cyc : Nat) : Bool :=
  k.timed && k.start.isNone && k.acc ≤ cyc && (c.cmds.all fun m => !m.timed || m.id ≥ k.id) &&
    (!k.ord || k.pred.all fun p => c.cmds.all fun m => m.id != p)

/-- The engine accepts a command (R262): from this cycle on a timed one's destination is in flight (R102), and one that may start now does
so next. -/
def State.accept (s : State) (k : EngineCmd) : State :=
  let now := s.core.mayStart k s.core.cycle
  let s := (s.earlyReads k).updCore fun c =>
    { c with cmds := c.cmds ++ [k], lastCopy := if k.kind.isCopy then some k.id else c.lastCopy, nextId := c.nextId + 1 }
  if now then { s with agenda := .timedCopyStart k.id :: s.agenda } else s

/-- CPGO (R257 to R262). A bank format that the issue refuses reports the destination's locator.
Log entry 94 (DESIGN CHOICE). -/
def execCpgo (h : Long) (o : Cpgo) (s : State) : Out :=
  issue (.cpgo h o) s fun u s => do
    let ws := s.x u o.s
    let wd := s.x u o.d
    let wf := s.x u o.f
    needUnpoisoned s u ([(o.s, ws), (o.d, wd), (o.b, 0)] ++ if o.fl then [(o.f, wf), (o.v, 0)] else [])
    needAll ([(ws, endFieldsOk [0, 1, 2] true ws), (wd, endFieldsOk [0, 1, 2] false wd)] ++
      if o.fl then [(wf, endFieldsOk [0] false wf)] else []) (·.2) Cause.illegalField (·.1)
    need (!(o.tm && (locKind ws = 2 || locKind wd = 2 || (locKind ws = 1 && locKind wd = 1)))) Cause.illegalField ws
    let nb ← nest s u o.b (o.dep.toNat + 1)
    need (!(o.mx && s.core.staged.isNone)) Cause.illegalField 0
    let src := endPlace s.core ws
    let dst := endPlace s.core wd
    let bs := bursts nb.2 src.2 dst.2
    let fmts := bs.map fun b => (endFmt s.core.bf (locKind ws = 2) b.1.toNat, endFmt s.core.bf (locKind wd = 2) b.2.toNat)
    let outs := fmts.map fun f => burstBytes f.1 f.2 nb.1
    let ends : List CopyEnd := [⟨ws, false, bs.map fun b => (b.1, nb.1)⟩, ⟨wd, true, (bs.zip outs).map fun b => (b.1.2, b.2)⟩]
    endsPermitted s.core ends
    need (!o.fl || locAddr wf % 8 == 0) Cause.alignment wf
    endsInside s.core (ends ++ if o.fl then [flagEnd wf] else [])
    need (fmts.all fun f => burstOk f.1 f.2 nb.1) Cause.bankFormat wd
    let elems := (fmts.map fun f => burstElems f.1 f.2 nb.1).sum
    let t := s.freeTime
    let cycles := 6 + (outs.map fun d => ceilDiv (max nb.1 d) 128).sum + (if locKind ws = 1 || locKind wd = 1 then s.core.map.xmax else 0)
    let k := newCmd s u (.copy src.1 dst.1 nb.1 (outs.headD 0) nb.2 (elems != 0)) o.tm (if o.tm then cycles else s.core.pulse + 1 + t.1)
    let k :=
      { k with
        ord := o.ord, flag := if o.fl then some (flagPlace dst.1 wf, s.x u o.v) else none,
        staged := if o.mx then s.core.staged else none, hs := handlesOf s.core [ws, wd],
        srcs := bs.map fun (b : Int × Int) => (src.1.advance b.1, nb.1),
        dests := (bs.zip outs).map fun (b : (Int × Int) × Nat) => (dst.1.advance b.1.2, b.2) }
    let s := (if o.tm then s else t.2).updCore fun c =>
      let c := if o.mx then { c with staged := none } else c
      if u.arith.rm = 5 then c.updSeq u.q fun q => { q with srseed := lfsrSteps elems q.srseed } else c
    -- the addresses of a nest count from the locators' address fields (R258)
    pure (s.accept { k with kind := .copy (src.1.advance src.2) (dst.1.advance dst.2) nb.1 (outs.headD 0) nb.2 (elems != 0) })

/-- The format of an ACC word as a copy source. -/
def accFmt (f32 : Bool) : BitVec 32 := if f32 then 7 else 5

/-- CPACC (R263, R87). A bank format that the issue refuses reports the destination's locator.
Log entry 94 (DESIGN CHOICE). -/
def execCpacc (h : Long) (o : Cpacc) (s : State) : Out :=
  issue (.cpacc h o) s fun u s => do
    let w := s.x u o.d
    needUnpoisoned s u [(o.d, w)]
    need (endFieldsOk [0, 1] false w) Cause.illegalField w
    let dst := endPlace s.core w
    let nr := o.nr.toNat + 1
    let ncg := o.ncg.toNat + 1
    let fd0 := endFmt s.core.bf false dst.2
    let rb := if bfPitch fd0 ≠ 0 then bfPitch fd0 * 8 else 32 * ncg * (if bfFmt fd0 = 0 then 4 else elemBytes fd0)
    let rows := (List.range nr).map fun i => dst.2 + i * rb
    let fmts := rows.map fun a => endFmt s.core.bf false a
    let outs := fmts.map fun f => burstBytes (accFmt o.f32) f (128 * ncg)
    let ends : List CopyEnd := [⟨w, true, (rows.zip outs).map fun b => ((b.1 : Nat), b.2)⟩]
    endsPermitted s.core ends
    endsInside s.core ends
    need (fmts.all fun f => bfFmt f = 0 || (!bfScale f && bfFmt f != 12 && bfSparse f = 0)) Cause.bankFormat w
    let elems := (fmts.map fun f => burstElems (accFmt o.f32) f (128 * ncg)).sum
    let cycles := 6 + nr * ncg + (if locKind w = 1 then s.core.map.xmax else 0)
    let k := newCmd s u (.acc (dst.1.advance dst.2) o.row.toNat nr o.cg.toNat ncg o.f32) true cycles
    let k := { k with dests := (rows.zip outs).map fun b => (dst.1.advance (b.1 : Nat), b.2) }
    let s := s.updCore fun c =>
      if u.arith.rm = 5 then c.updSeq u.q fun q => { q with srseed := lfsrSteps elems q.srseed } else c
    pure (s.accept k)

/-! What a copy reads and writes. -/

/-- Runs the bursts of a copy one after another on memory as it stands (R261), and gives what they write, with the local address
of the malformed sparse group that stops it (R70). -/
def runBursts (k : EngineCmd) : List ((Loc × Nat) × (Loc × Nat)) → BitVec 32 → State → List MemWrite × Option Nat
  | [], _, _ => ([], none)
  | ((sl, n), (dl, _)) :: rest, r, s =>
    let fs := endFmt k.bf sl.viaHandle sl.space.2
    let fd := endFmt k.bf dl.viaHandle dl.space.2
    let rd := s.readLoc sl 0 n
    match if converts fs fd then badUnitAt fs rd.1 else none with
    | some a => ([], some (sl.addr + a))
    | none =>
      let out := burstOut fs fd k.arith r rd.1 rd.2
      let more := runBursts k rest out.2.2 (s.writeLoc dl out.1 out.2.1)
      (⟨dl, out.1, out.2.1⟩ :: more.1, more.2)

/-- What a copy writes, from memory as it stands. -/
def EngineCmd.run (k : EngineCmd) (s : State) : List MemWrite × Option Nat := runBursts k (k.srcs.zip k.dests) k.seed s

/-- What a CPACC writes, from the words it has read, row by row. -/
def accWrites (k : EngineCmd) (f32 : Bool) (ncg : Nat) : List (Loc × Nat) → Nat → BitVec 32 → List MemWrite
  | [], _, _ => []
  | (dl, _) :: rest, i, r =>
    let bs := ((k.words.drop (i * 32 * ncg)).take (32 * ncg)).flatMap fun w => wordBytes w.toNat 4
    let out := burstOut (accFmt f32) (endFmt k.bf false dl.space.2) k.arith r bs []
    ⟨dl, out.1, []⟩ :: accWrites k f32 ncg rest (i + 1) out.2.2

def Core.cmdOf (c : Core) (n : Nat) : Option EngineCmd := c.cmds.find? fun k => k.id = n
def Core.updCmd (c : Core) (n : Nat) (g : EngineCmd → EngineCmd) : Core :=
  { c with cmds := c.cmds.map fun k => if k.id = n then g k else k }
def Core.dropCmd (c : Core) (n : Nat) : Core := { c with cmds := c.cmds.filter fun k => k.id != n }

/-- The column groups that CPACC commands read in this cycle, as they stood at the end of the one before (R263). -/
def Core.readAcc (c : Core) : Core :=
  { c with cmds := c.cmds.map fun k =>
      match k.kind, k.start with
      | .acc _ row nr cg ncg _, some t =>
        let i := c.cycle - t - 1
        if t < c.cycle && i < nr * ncg then
          { k with words := k.words ++ (List.range 32).map fun e => c.getAcc (row + i / ncg) (32 * (cg + i % ncg) + e) }
        else k
      | _, _ => k }

/-- A command ends in a late fault (R240, R278): no flag and no post; bytes already written stay. -/
def Core.failCmd (c : Core) (k : EngineCmd) (cause : Cause) (ea : Word) : Core := (c.dropCmd k.id).lateFault k.q cause ea k.level

/-- The extents that a command reads: of a BPI source that it converts, what a read fetches (R67). -/
def EngineCmd.fetches (k : EngineCmd) : List (Loc × Nat) :=
  (k.srcs.zip k.dests).flatMap fun b =>
    (burstSpans (endFmt k.bf b.1.1.viaHandle b.1.1.space.2) (endFmt k.bf b.2.1.viaHandle b.2.1.space.2) b.1.2).map fun x =>
      (b.1.1.advance x.1, x.2)

/-- EARLY_READ's check of the source of a command (R102). -/
def State.sourceEarly (s : State) (k : EngineCmd) : State :=
  match k.fetches.find? fun x => s.readsEarly x.1 x.2 with
  | some x => s.updCore fun c => c.pendNext k.q Cause.earlyRead (BitVec.ofNat 64 x.1.addr)
  | none => k.fetches.foldl (fun s x => s.noteRead k.q x.1 x.2 (BitVec.ofNat 64 x.1.addr)) s

/-- The source of a copy is read now: a malformed sparse group ends it with nothing written (R70).
Log entry 66 (DESIGN CHOICE). -/
def State.readSource (s : State) (k : EngineCmd) (go : List MemWrite → Core → Core) : State :=
  let ws := match k.kind with
    | .copy .. => k.run s
    | _ => ([], none)
  let s := s.sourceEarly k
  match ws.2 with
  | some a => s.updCore fun c => c.failCmd k Cause.bankFormat (BitVec.ofNat 64 a)
  | none => s.updCore (go ws.1)

/-- TIMED_COPY_START: the copy's bytes are read as its start finds them (log entry 15, DESIGN CHOICE). -/
def execTimedCopyStart (n : Nat) (s : State) : Out :=
  .next (match s.core.cmdOf n with
    | some k =>
      if !s.core.mayStart k s.core.cycle then s
      else s.readSource k fun ws c => c.updCmd n fun k => { k with start := some c.cycle, writes := ws }
    | none => s)

/-- ORDERED_COPY_START: the copy accepted before it has completed, its flag written (R111). -/
def execOrderedCopyStart (n : Nat) (s : State) : Out :=
  .next (match s.core.cmdOf n with
    | some k =>
      if k.ord && !k.timed && k.start.isNone && (k.pred.all fun p => s.core.cmds.all fun m => m.id != p) then
        let t := s.freeTime
        t.2.updCore fun c => c.updCmd n fun k => { k with start := some c.pulse, due := c.pulse + 1 + t.1 }
      else s
    | none => s)

/-- Whether an untimed copy waits for another of its sequencer and class that it overlaps (R99). -/
def Core.cmdBlocked (c : Core) (k : EngineCmd) : Bool :=
  c.cmds.any fun m => m.id < k.id && m.q = k.q && m.cls = k.cls &&
    (m.dests.any fun d => (k.srcs ++ k.dests).any fun x => overlap d.1 d.2 x.1 x.2) ||
    (m.id < k.id && m.q = k.q && m.cls = k.cls && m.stage = .going &&
      m.srcs.any fun d => k.dests.any fun x => overlap d.1 d.2 x.1 x.2)

/-- Whether a command reaches into a page that is moving away, or a stack that has not started (R402, R425). -/
def State.cmdHeld (s : State) (k : EngineCmd) : Bool := (k.srcs ++ k.dests).any fun x => s.hbmHeld x.1 x.2 k.id

/-- Whether the packets of a command travel on a slotted circuit: only a CSEND's name one (R413, R428). -/
def Hub.slottedCmd (h : Hub) (k : EngineCmd) : Bool :=
  match k.kind with
  | .send up .. =>
    let t := h.chain.header
    (h.circuitRoute (if up then t.cirup else t.cirdn) (if up then t.up else t.down)).isSome
  | _ => false

/-- Whether the engine may reach some extents in this tick: the damper limits its use of HBM, but for slotted commands (R427, R428). -/
def State.engineServed (s : State) (k : EngineCmd) (l : List (Loc × Nat)) : Bool :=
  s.hub.slottedCmd k || l.all fun x => match x.1 with
    | .hbm a => s.hub.copyServes s.tick a x.2
    | _ => true

/-- Writes what a command has read, all of it: a timed one's bytes hold their new values for every reader from the next cycle on (R102), and
an untimed one's have passed the commit buffer. -/
def State.land (s : State) (k : EngineCmd) : State := k.writes.foldl (fun s w => s.writeLoc w.loc w.bytes w.marks) s

/-- The flag of a command (R109); it carries no mark. -/
def State.writeFlag (s : State) (k : EngineCmd) : State :=
  match k.flag with
  | some (l, v) => if k.quiet then s else s.writeLoc l (wordBytes v.toNat 8) []
  | none => s

/-- A command completes: its flag, its post, and the staged command of a CPGO.MX, which issues in the cycle after the payload
(R58). -/
def State.endCmd (s : State) (k : EngineCmd) : State :=
  (s.writeFlag k).updCore fun c =>
    let c := if k.quiet then c else c.post k.id k.q k.pc k.sig
    match k.staged with
    | some g => { c with stagedDue := c.stagedDue ++ [(c.cycle + 1, ⟨{ g.cmd with q := k.q }⟩)] }
    | none => c

/-- Requests for a command's remote end: what it reads, or what it writes; a multicast range takes MCWRITE and denies reads (R414). -/
def State.cmdRequest (s : State) (k : EngineCmd) (home : BitVec 10) (va : Nat) (body : Body) (write : Bool) : State :=
  let c := s.core
  let send (s : State) (kind : BitVec 5) (group : Nat) : State :=
    ((bodiesOf va body).foldl (fun s b =>
      s.request (some (c.owner k.id)) { s.hub.packet kind 2 home.toNat c.tenant b.1 (bodyLen b.2) 0 b.2 with group := group }) s).updCore
        fun c => { c with cmds := c.cmds.map fun m => if m.id = k.id then { m with stage := .away, writes := if write then m.writes else [] } else m }
  match s.hub.homeOf c.func va with
  | .group g =>
    if write then send s 9 g
    else s.updCore fun c => (c.noteDenied va).updCmd k.id fun m => m.refusedBy va
  | _ => send s (if write then 2 else 1) 0

/-- The addresses of a remote end's bursts. -/
def remoteSpans (l : List (Loc × Nat)) : List (Nat × Nat) := l.map fun x => (x.1.space.2, x.2)

/-- COPY_COMPLETE: a timed copy in its completion cycle; an untimed one when its source is due to be read, then when its last
byte lands or its home has answered. -/
def execCopyComplete (n : Nat) (s : State) : Out :=
  .next (match s.core.cmdOf n with
    | none => s
    | some k =>
      match k.kind with
      | .fsig .. | .send .. => s
      | .acc _ _ _ _ ncg f32 =>
        match k.start with
        | some t =>
          if s.core.cycle < t + k.due || k.stage = .done then s
          else (s.endCmd k).updCore fun c => c.updCmd n fun k => { k with stage := .done, writes := accWrites k f32 ncg k.dests 0 k.seed }
        | none => s
      | .copy src dst .. =>
        if k.timed then
          match k.start with
          | some t =>
            if s.core.cycle < t + k.due || k.stage = .done then s
            else (s.endCmd k).updCore fun c => c.updCmd n fun k => { k with stage := .done }
          | none => s
        else if s.core.pulse < k.due then s
        else match k.stage with
          | .going =>
            if (k.ord && k.start.isNone) || s.core.cmdBlocked k || s.cmdHeld k || !s.engineServed k k.srcs then s
            else match src with
              | .remote home va =>
                s.cmdRequest k home va (.reads (remoteSpans k.srcs)) false
              | _ =>
                let t := s.freeTime
                t.2.readSource k fun ws c =>
                  c.updCmd n fun k => { k with stage := .commit, writes := ws, due := c.pulse + commitDelay + t.1 }
          | .commit =>
            match dst with
            | .remote home va =>
              s.cmdRequest k home va (.writes (k.writes.map fun w => ⟨w.loc.space.2, w.bytes, w.marks⟩)) true
            | _ => if s.engineServed k k.dests then ((s.land k).endCmd k).updCore fun c => c.dropCmd n else s
          | .done => (s.endCmd k).updCore fun c => c.dropCmd n
          | _ => s)

/-- Whether a copy's flag word shares a byte with its destination. -/
def EngineCmd.flagInside (k : EngineCmd) : Bool := k.flag.any fun f => k.dests.any fun d => overlap f.1 8 d.1 d.2

/-- The payload of a timed copy lands; its flag comes after it (R109). -/
def State.landOne (s : State) (k : EngineCmd) : State := if k.flagInside then (s.land k).writeFlag k else s.land k

/-- Timed commands that completed in this cycle. -/
def Core.landing (c : Core) : List EngineCmd := c.cmds.filter fun k => k.timed && k.stage = .done

/-- The bytes of the timed copies of the core in hand that completed in this cycle hold their new values from the next on (R102). -/
def State.landTimed (s : State) : State :=
  (s.core.landing.foldl State.landOne s).updCore fun c => { c with cmds := c.cmds.filter fun k => !(k.timed && k.stage = .done) }

/-! FSIG (R276, R277). -/

def sigAddr (w : Word) : Nat := w.toNat % 2 ^ 22
def sigCore (w : Word) : Nat := w.toNat / 2 ^ 22 % 2 ^ 9
def sigPkg (w : Word) : Nat := w.toNat / 2 ^ 31 % 2 ^ 10

/-- FSIG. -/
def execFsig (h : Long) (o : Fsig) (s : State) : Out :=
  issue (.fsig h o) s fun u s => do
    let w := s.x u o.t
    need (!s.anyPoison u [o.t, o.v]) Cause.undersizedDelay w
    need (w.toNat / 2 ^ 41 == 0 && decide (sigCore w / 8 % 32 ≤ 20)) Cause.illegalField w
    need (sigAddr w % 8 == 0) Cause.alignment w
    need (sigAddr w < spadSize) Cause.translationFault w
    pure (s.accept (newCmd s u (.fsig w (s.x u o.v)) false s.core.pulse))

/-- FSIG_START: every command accepted before it has completed; its flag write enters the commit buffer. -/
def execFsigStart (n : Nat) (s : State) : Out :=
  .next (match s.core.cmdOf n with
    | some k =>
      match k.kind with
      | .fsig .. =>
        if k.stage = .going && s.core.cmds.all (fun m => m.id ≥ n) then
          s.updCore fun c => c.updCmd n fun k => { k with stage := .commit, due := c.pulse + commitDelay }
        else s
      | _ => s
    | none => s)

/-- The flag write of an FSIG on a core of this package: a core that runs no task of the tenant refuses it (R276). -/
def State.sigWrite (s : State) (core addr : Nat) (v : Word) (tenant : BitVec 20) : Option State :=
  match s.coreAt core with
  | some c =>
    if c.status ≠ .killed ∧ (c.task.any fun t => t.tenant = tenant) = true then
      some (s.updCoreId core fun c => c.writeSpad addr (wordBytes v.toNat 8) [])
    else none
  | none => none

/-- FSIG_COMPLETE. -/
def execFsigComplete (n : Nat) (s : State) : Out :=
  .next (match s.core.cmdOf n with
    | some k =>
      match k.kind with
      | .fsig w v =>
        if s.core.pulse < k.due then s
        else if k.stage = .done then (s.endCmd k).updCore fun c => c.dropCmd n
        else if k.stage = .commit && sigPkg w = s.hub.pkg then
          if k.quiet then s.updCore fun c => c.dropCmd n
          else match s.sigWrite (sigCore w) (sigAddr w) v s.core.tenant with
            | some s => (s.endCmd k).updCore fun c => c.dropCmd n
            | none => s.updCore fun c => c.failCmd k Cause.permission w
        else s
      | _ => s
    | none => s)

end Sys2Proof.Machine
end

