-- ==== Sys2Proof/Machine/Sae.lean ====
section
/-!
DEFINITION. The scatter-accumulate engine: SAQ, SADRAIN and their events (R266 to R269).
-/

namespace Sys2Proof.Machine

open Sys2Proof

/-- Bytes of an element of a stream, and its format (R266). -/
def saeBytes (ty : BitVec 2) : Nat := if ty = 2 then 2 else 4
def saeFmt (ty : BitVec 2) : Fmt := if ty = 0 then .i32 else .f32

/-- SAQ: a count of 0 completes at issue; a page that is not resident is met later (R268).
Log entry 51 (DEDUCED). -/
def execSaq (h : Long) (o : Saq) (s : State) : Out :=
  issue (.saq h o) s fun u s => do
    let w := s.x u o.b
    let n := (s.x u o.n).toNat
    needUnpoisoned s u [(o.b, w), (o.i, s.x u o.i), (o.v, s.x u o.v), (o.n, 0)]
    need ((locKind w = 0 || locKind w = 2) && locFieldsOk w) Cause.illegalField w
    let ix ← localOperand s u o.i
    let vals ← localOperand s u o.v
    need (n ≤ 2 ^ 24) Cause.illegalField w
    let r := locHandle w
    let v := s.core.getH r
    let hnd := if locKind w = 2 then some (r, v) else none
    need (hnd.all fun _ => v.valid) Cause.handleInvalid w
    need (hnd.all fun _ => v.perm 13 && v.perm 14 && !v.sync && !v.remote) Cause.permission w
    needAll [(ix, 4), (vals, saeBytes o.ty)] (fun x => x.1 % x.2 == 0) Cause.alignment (fun x => BitVec.ofNat 64 x.1)
    need (hnd.all fun _ => decide (locOffset w ≤ v.size)) Cause.translationFault w
    needAll [(ix, 4 * n), (vals, saeBytes o.ty * n)] (fun x => x.1 + x.2 ≤ spadSize) Cause.translationFault
      (fun x => BitVec.ofNat 64 x.1)
    if n = 0 then pure (s.updCore fun c => c.post c.nextId u.q u.pc u.sig)
    else
      let t := s.freeTime
      pure (t.2.updCore fun c =>
        { c with
          sae := c.sae ++
            [{ id := c.nextId, pc := u.pc,
               target := if locKind w = 2 then handlePlace v (locOffset w) else .spad (locAddr w),
               extent := if locKind w = 2 then v.size - locOffset w else spadSize - locAddr w, hnd := hnd, ix := ix, vals := vals,
               n := n, op := o.op, ty := o.ty, arith := u.pfx.arith, next := 0, updates := [], out := 0, fault := none,
               sig := u.sig, cls := u.cls, level := c.level, quiet := false, due := c.pulse + 1 + t.1 }]
          nextId := c.nextId + 1 })

/-- Combine of R267, on the patterns a part is held in. -/
def saeCombine (op ty : BitVec 2) (a : Arith) (p v : BitVec 32) : BitVec 32 :=
  if op = 0 then
    if ty = 0 then BitVec.ofNat 32 (settleInt .i32 (p.toInt + v.toInt) a)
    else BitVec.ofNat 32 (roundTo .f32 (addNum a.rm (inputOf a .f32 p.toNat) (inputOf a .f32 v.toNat)) a 0)
  else BitVec.ofNat 32 (pickLane (op = 2) (saeFmt ty) a p.toNat v.toNat).v

/-- A value as it is held: bf16 as f32 (R267). -/
def saeHeld (ty : BitVec 2) (bs : List Byte) : BitVec 32 :=
  if ty = 2 then BitVec.ofNat 32 (leNat bs * 65536) else BitVec.ofNat 32 (leNat bs)

/-- The open updates of a window with one more entry (R267). -/
def openUpdate (op ty : BitVec 2) (a : Arith) (j : Nat) (v : BitVec 32) : List (Nat × BitVec 32) → List (Nat × BitVec 32)
  | [] => [(j, v)]
  | (k, p) :: us => if k = j then (k, saeCombine op ty a p v) :: us else (k, p) :: openUpdate op ty a j v us

/-- The place a stream's updates go to: that of its issue, or of the page once it has become resident (R242, R268). -/
def Stream.place (t : Stream) (s : State) : Loc :=
  match t.target, t.hnd with
  | .absent, some (_, v) => handlePlace (refill s.hub s.core.func v) (v.size - t.extent)
  | l, _ => l

/-- The index of an entry as the scratchpad holds it. -/
def Stream.index (t : Stream) (c : Core) (j : Nat) : Nat := leNat (memRead c.spad (t.ix + 4 * j) 4)
def Stream.value (t : Stream) (c : Core) (j : Nat) : BitVec 32 :=
  saeHeld t.ty (memRead c.spad (t.vals + saeBytes t.ty * j) (saeBytes t.ty))

/-- Whether an entry's target lies in the target's extent, on a page that is resident (R268). -/
def Stream.inside (t : Stream) (s : State) (j : Nat) : Bool :=
  decide (t.index s.core j * saeBytes t.ty + saeBytes t.ty ≤ t.extent) && decide (t.place s ≠ .absent)

/-- The first marked byte of the entries of a window (R295). -/
def Stream.marked (t : Stream) (c : Core) (lo n : Nat) : Option Nat :=
  (marksIn c.spadUe (t.ix + 4 * lo) (4 * n) ++ marksIn c.spadUe (t.vals + saeBytes t.ty * lo) (saeBytes t.ty * n)).head?

def Core.setStream (c : Core) (t : Stream) : Core := { c with sae := c.sae.map fun x => if x.id = t.id then t else x }
def Core.dropStream (c : Core) (n : Nat) : Core := { c with sae := c.sae.filter fun x => x.id != n }

/-- Ends a stream: its post, or the late fault of the entry it met (R268), whose index word EADDR names. -/
def Core.endStream (c : Core) (t : Stream) : Core :=
  let c := c.dropStream t.id
  match t.fault with
  | some j => c.lateFault .st Cause.translationFault (BitVec.ofNat 64 (t.ix + 4 * j)) t.level
  | none => if t.quiet then c else c.post t.id .st t.pc t.sig

/-- Takes the next window into hand (R267). A read of bytes in flight or of marked bytes ends the stream (R102, R295). -/
def State.openWindow (s : State) (t : Stream) : State :=
  let c := s.core
  let n := min 64 (t.n - t.next)
  if s.readsEarly (.spad (t.ix + 4 * t.next)) (4 * n) || s.readsEarly (.spad (t.vals + saeBytes t.ty * t.next)) (saeBytes t.ty * n) then
    s.updCore fun c => (c.dropStream t.id).pendNext .st Cause.earlyRead (BitVec.ofNat 64 (t.ix + 4 * t.next))
  else match t.marked c t.next n with
    | some a => s.updCore fun c => (c.dropStream t.id).consume .st t.pc a
    | none =>
      let js := (List.range n).map (t.next + ·)
      let good := js.takeWhile (t.inside s)
      let us := good.foldl (fun us j => openUpdate t.op t.ty (t.arith.getD Arith.default) (t.index c j) (t.value c j) us) []
      let ea := BitVec.ofNat 64 (t.ix + 4 * t.next)
      let f := ((s.noteRead .st (.spad (t.ix + 4 * t.next)) (4 * n) ea).noteRead .st
        (.spad (t.vals + saeBytes t.ty * t.next)) (saeBytes t.ty * n) ea).freeTime
      let t := { t with
        next := t.next + n, updates := us, target := t.place s, out := c.pulse + commitDelay,
        fault := if good.length < n then some (t.next + good.length) else none }
      f.2.updCore fun c =>
        if us = [] then c.endStream t else c.setStream { t with due := c.pulse + 1 + f.1 }

/-- Apply of R267. -/
def State.applyUpdate (s : State) (t : Stream) (j : Nat) (part : BitVec 32) : State :=
  let a := t.arith.getD Arith.default
  let n := saeBytes t.ty
  let l := t.target.advance (j * n : Nat)
  let old := s.readLoc l 0 n
  let v := saeCombine t.op t.ty a (saeHeld t.ty old.1) part
  let out := if t.ty = 2 then roundTo .bf16 (numOf .f32 v.toNat) a 0 else v.toNat
  s.writeOwn l (wordBytes out n) []

/-- Whether the updates in hand are still in the commit buffer: those to memory leave the core (R299). -/
def Stream.held (t : Stream) (pulse : Nat) : Bool := t.target.viaHandle && decide (pulse < t.out)

/-- SAE_UPDATE_APPLY: the first stream opens its next window, or applies the first update it has emitted, once the commit buffer
lets it go; the last one completes the SAQ.
Log entry 51 (DEDUCED). -/
def execSaeUpdateApply (n : Nat) (s : State) : Out :=
  .next (match s.core.sae with
    | [] => s
    | t :: _ =>
      if t.id != n || s.core.pulse < t.due then s
      else match t.updates with
        | [] => s.openWindow t
        | (j, p) :: us =>
          let l := t.target.advance (j * saeBytes t.ty : Nat)
          if t.held s.core.pulse || s.hbmHeld l (saeBytes t.ty) n then s
          else if s.readsEarly l (saeBytes t.ty) then
            s.updCore fun c => (c.dropStream n).pendNext .st Cause.earlyRead (BitVec.ofNat 64 l.addr)
          else match (s.readLoc l 0 (saeBytes t.ty)).2 with
            | m :: _ => s.updCore fun c => (c.dropStream n).consume .st t.pc (l.addr + m)
            | [] =>
              let f := ((s.noteRead .st l (saeBytes t.ty) (BitVec.ofNat 64 l.addr)).applyUpdate t j p).freeTime
              f.2.updCore fun c =>
                let t := { t with updates := us, due := c.pulse + 1 + f.1 }
                if us = [] && (t.fault.isSome || t.next = t.n) then c.endStream t else c.setStream t)

/-- SADRAIN: holds ST until the streams before it have ended. -/
def execSadrain (h : Long) (s : State) : Out :=
  issue (.sadrain h) s fun u s =>
    .ok (s.updCore fun c => c.launch u 4 (.sadrain (c.sae.map (·.id))) .going 1 none true)

/-- SADRAIN_COMPLETE. -/
def execSadrainComplete (n : Nat) (s : State) : Out :=
  .next (match s.core.flightOf n with
    | some f =>
      match f.op with
      | .sadrain after =>
        if f.due ≤ s.core.pulse && after.all (fun i => s.core.sae.all fun t => t.id != i) then s.updCore fun c => c.finish f else s
      | _ => s
    | none => s)

end Sys2Proof.Machine
end

