-- ==== Sys2Proof/Machine/Sync.lean ====
section
/-!
DEFINITION. Synchronisation objects and fences (R95, R103, R112 to R115, R271 to R275).
-/

namespace Sys2Proof.Machine

open Sys2Proof

/-! The sync unit (R112, R272, R274). -/

/-- How an operation on an object goes when it is tried: it waits, it is refused, or it is done, with the old word. -/
inductive SyncEnd where
  | waits
  | refused
  | done (old : Word) (h : Hub)

/-- Whether two regions share a byte. -/
def Binding.overlaps (b : Binding) (base len : Nat) : Bool := decide (b.base < base + len) && decide (base < b.base + b.len)

/-- Whether a region shares a byte with one that is bound in a context, as far as this package knows: at an object homed here, or by a core
of this package at one homed elsewhere (R114).
Log entry 52 (DEDUCED). -/
def Hub.bindsOver (h : Hub) (fn base len : Nat) : Bool := (h.bound ++ h.boundAway).any fun b => b.func = fn && b.overlaps base len

/-- Performs an operation on the object at a physical address, for a core of a package in a context. -/
def Hub.syncDo (h : Hub) (k : SyncKind) (pa pkg core fn : Nat) : SyncEnd :=
  let w : Word := BitVec.ofNat 64 (h.entryAt pa)
  let put (v : Word) : Hub := h.writeHbm pa (wordBytes v.toNat 8) []
  match k with
  | .acqL => if w = 0 then .done w (put 1) else .waits
  | .acqG v => if v.toNat ≤ w.toNat then .done w h else .waits
  | .relL => .done w (put 0)
  | .relI => .done w (put (w + 1))
  | .sycas e n => .done w (if w = e then put n else h)
  | .syrd => .done w h
  | .bind base len scope =>
    if h.bindsOver fn base len || 16 ≤ (h.bound.filter fun b => b.obj = pa).length then .refused
    else .done w { h with bound := h.bound ++ [⟨pa, base, len, scope, pkg, core, fn⟩] }
  | .unbind base =>
    if h.bound.any fun b => b.obj = pa && b.base = base then
      .done w { h with bound := h.bound.filter fun b => !(b.obj = pa && b.base = base) }
    else .refused

def isRel : SyncKind → Bool
  | .relL => true
  | .relI => true
  | .sycas .. => true
  | _ => false

/-- Whether writes of a core that are core-ordered before CT's operation of an identity are still on their way to memory behind a
handle: a release waits for all of them, those it covers among them (R115, R123; log entry 16, DEDUCED). -/
def Core.writesPending (c : Core) (n : Nat) : Bool :=
  (c.flight.any fun f => f.id < n && c.ordered .ct f.q f.id && f.stage != .done && match f.op with
    | .store l _ => l.viaHandle
    | .ordStore l _ => l.viaHandle
    | _ => false) ||
  (c.cmds.any fun k => k.id < n && c.ordered .ct k.q k.id && !k.timed && match k.kind with
    | .copy _ d .. => d.viaHandle
    | .send .. => true
    | _ => false) ||
  c.sae.any fun t => t.id < n && c.ordered .ct .st t.id && t.target.viaHandle

/-! Issue. -/

/-- Checks 3 and 4 of R273, with the object's place and the translation that gave it; a multicast range is denied where the request
would leave (R414), and so is a record that breaks R400. -/
def State.syncObject (s : State) (va : Word) : Except TrapRec (Loc × Option Hnd × State) :=
  if 2 ^ 57 ≤ va.toNat then .error ⟨Cause.translationFault, va⟩
  else match s.hub.homeOf s.core.func va.toNat with
    | .pkg n => .ok (.remote (BitVec.ofNat 10 n) va.toNat, none, s)
    | .own =>
      let t := s.translate va.toNat
      if !t.1.present then .error ⟨Cause.translationFault, va⟩
      else if !t.1.sync then .error ⟨Cause.permission, va⟩
      else .ok (.hbm (t.1.pa + va.toNat % pageBytes t.1.psize), some (makeHnd s.hub s.core.func va.toNat t.1), t.2)
    | _ => .ok (.remote (BitVec.ofNat 10 s.hub.pkg) va.toNat, none, s)

/-- Issues a synchronisation operation on the object at X[a]; it holds CT. -/
def syncIssue (k : SyncKind) (a : BitVec 5) (d : Option (BitVec 5)) (u : Ctx) (s : State) : Eff := do
  let va := s.x u a
  let t ← s.syncObject va
  pure (t.2.2.updCore fun c =>
    c.launchVia u 8 (.sync k t.1 va.toNat d) .commit commitDelay (t.2.1.map fun h => (none, h)) true)

/-- A unit that trapped on an address whose walk met a broken entry has it reported in the fault ring (R392). -/
def State.reportWalk (t : State) (s : State) (va : Nat) : State :=
  if !s.core.tookTrap && t.core.tookTrap && (t.core.trapRegsNow t.core.tl).ecause.toNat % 256 = Cause.translationFault.toNat &&
      va < 2 ^ 57 && s.hub.homeOf s.core.func va = .own && (s.hub.walk s.core.func va).error then
    (t.fault s.core.func va (faultKind true false) 0 true s.hub.pkg none).2
  else t

/-- Issues a unit that works on the object at X[a]. -/
def issueSync (i : Instr) (a : BitVec 5) (s : State) (body : Ctx → State → Eff) : Out :=
  match issue i s body with
  | .next t => .next (t.reportWalk s (s.seq.getX a).toNat)
  | o => o

/-- Checks 1 and 2 of R273. -/
def syncChecks (s : State) (u : Ctx) (a : BitVec 5) (rs : List (BitVec 5)) : Except TrapRec Unit := do
  need (!s.anyPoison u (a :: rs)) Cause.undersizedDelay (s.x u a)
  need ((s.x u a).toNat % 8 == 0) Cause.alignment (s.x u a)

/-- ACQ.L. -/
def execAcqL (h : Long) (o : Obj) (s : State) : Out :=
  issueSync (.acqL h o) o.a s fun u s => do
    syncChecks s u o.a []
    syncIssue .acqL o.a none u s

/-- ACQ.G. -/
def execAcqG (h : Long) (o : ObjV) (s : State) : Out :=
  issueSync (.acqG h o) o.a s fun u s => do
    syncChecks s u o.a [o.b]
    syncIssue (.acqG (s.x u o.b)) o.a none u s

/-- REL.L. -/
def execRelL (h : Long) (o : Obj) (s : State) : Out :=
  issueSync (.relL h o) o.a s fun u s => do
    syncChecks s u o.a []
    syncIssue .relL o.a none u s

/-- REL.I. -/
def execRelI (h : Long) (o : Obj) (s : State) : Out :=
  issueSync (.relI h o) o.a s fun u s => do
    syncChecks s u o.a []
    syncIssue .relI o.a none u s

/-- BIND: the checks of R274 on the region come after those on the object's address.
Log entry 52 (DEDUCED). -/
def execBind (h : Long) (o : Bind) (s : State) : Out :=
  issueSync (.bind h o) o.a s fun u s => do
    syncChecks s u o.a [o.b, o.l]
    let b := s.x u o.b
    let n := (s.x u o.l).toNat
    need (b.toNat % 64 == 0) Cause.alignment b
    need (n % 64 == 0 && 64 ≤ n && n ≤ 2 ^ 36) Cause.illegalField b
    syncIssue (.bind b.toNat n ((u.pfx.mem.map (·.scope)).getD 0)) o.a none u s

/-- UNBIND. -/
def execUnbind (h : Long) (o : ObjV) (s : State) : Out :=
  issueSync (.unbind h o) o.a s fun u s => do
    syncChecks s u o.a [o.b]
    syncIssue (.unbind (s.x u o.b).toNat) o.a none u s

/-- SYCAS. -/
def execSycas (h : Long) (o : Sycas) (s : State) : Out :=
  issueSync (.sycas h o) o.a s fun u s => do
    syncChecks s u o.a [o.e, o.n]
    syncIssue (.sycas (s.x u o.e) (s.x u o.n)) o.a (some o.d) u s

/-- SYRD. -/
def execSyrd (h : Long) (o : Syrd) (s : State) : Out :=
  issueSync (.syrd h o) o.a s fun u s => do
    syncChecks s u o.a []
    syncIssue .syrd o.a (some o.d) u s

/-! The order of operations on an object (R112). -/

/-- An answer to another package, for an address (R406, R411). -/
def Hub.answerPacket (h : Hub) (pkg : Nat) (tenant : BitVec 20) (va circuit : Nat) (body : Body) : Packet :=
  h.packet 3 0 pkg tenant va (bodyLen body) circuit body

/-- An answer to a request of another package (R399), which returns the way its request came: where that spread over the routes by its
address, so does the answer, and else it takes the first (R411).
Log entry 75 (DEDUCED). -/
def Hub.answerTo (h : Hub) (p : Packet) (status : BitVec 3) (settled : Bool) (body : Body) : Packet :=
  { h.answerPacket p.src p.tenant (if spreads p.kind || p.kind = 9 then p.va else 0) p.circuit body with
    tag := p.tag, status := status, settled := settled }

/-- The command of a queue has ended, with OK. -/
def Hub.queueOver (h : Hub) (q : Nat) : Hub :=
  let v := AMap.get Queue.reset h.queues q
  { h with queues := AMap.set Queue.reset h.queues q { v with cur := v.cur.map fun c => { c with run := .over 0 0 0xFFFF } } }

/-- The object's old word, with its marks, goes to whoever had the operation performed (R112, R295). -/
def State.deliver (s : State) (who : Waiter) (old : Word) (marks : List Nat) : State :=
  match who with
  | .core c n =>
    let t := s.freeTime
    t.2.updCoreId c fun c => c.updFlight n fun f =>
      { f with stage := .done, due := c.pulse + 1 + t.1, data := wordBytes old.toNat 8, marks := marks }
  | .packet p => s.updHub fun h => h.send (h.answerTo p 0 false (.data (wordBytes old.toNat 8) marks))
  | .queue q => s.updHub fun h => h.queueOver q
  | .chain => s.updHub fun h => { h with chain := { h.chain with sync := some (.over 0 0 0xFFFF) } }

/-- Whether the operation that a run of a command waits for is at the sync unit. -/
def QRun.atUnit (r : QRun) : Bool :=
  match r with
  | .sync .. => true
  | _ => false

/-- Whether a waiting operation is still wanted: a core's may have been withdrawn (R273). -/
def State.awaits (s : State) (w : SyncWait) : Bool :=
  match w.who with
  | .core c n => (s.coreAt c).any fun c => (c.flightOf n).any fun f => f.stage = .away
  | .packet _ => true
  | .queue q => (AMap.get Queue.reset s.hub.queues q).cur.any fun c => c.run.atUnit
  | .chain => s.hub.chain.sync.any QRun.atUnit

/-- Performs an operation as it stands; one on an object in a stack that has not started waits (R425). -/
def Hub.syncFor (h : Hub) (w : SyncWait) : SyncEnd := if h.hbmOpen w.pa 8 then h.syncDo w.kind w.pa w.pkg w.core w.func else .waits

/-- The first to arrive of the operations that wait at an object and can be performed now. -/
def State.satisfied (s : State) (pa : Nat) : Option SyncWait :=
  s.hub.syncWait.find? fun w => w.pa = pa && s.awaits w && match s.hub.syncFor w with
    | .done .. => true
    | _ => false

/-- Performs the operations that wait at an object and have become satisfied, in the order of their arrival; `n` bounds them. -/
def State.settle (pa : Nat) : Nat → State → State
  | 0, s => s
  | n + 1, s =>
    match s.satisfied pa with
    | none => s
    | some w =>
      match s.hub.syncFor w with
      | .done old h =>
        State.settle pa n ({ s with hub := { h with syncWait := h.syncWait.erase w } }.deliver w.who old (s.hub.readMarks w.pa 8))
      | _ => s

def State.settled (s : State) (pa : Nat) : State := State.settle pa s.hub.syncWait.length s

/-- An operation arrives at the sync unit: it is performed, with whatever that satisfies, or refused, or waits behind those there.
What it finds satisfied came before it. -/
def State.syncArrive (s : State) (w : SyncWait) : SyncEnd × State :=
  let s := s.settled w.pa
  match s.hub.syncFor w with
  | .done old h => (.done old h, ({ s with hub := h }.deliver w.who old (s.hub.readMarks w.pa 8)).settled w.pa)
  | .refused => (.refused, s)
  | .waits =>
    (.waits, s.updHub fun h =>
      { h with syncWait := h.syncWait.filter s.awaits ++ [{ w with no := h.nextId }], nextId := h.nextId + 1 })

/-- Whether an operation of a waiter on an object stands at the sync unit. -/
def Hub.syncHolds (h : Hub) (who : Waiter) (k : SyncKind) (pa : Nat) : Bool := h.syncWait.any fun w => w.who = who && w.kind = k && w.pa = pa

/-! The sync unit's events. -/

/-- An operation of the core in hand, once what a release covers has completed: it arrives, or it has been waiting. -/
def State.syncPerformCore (s : State) (n : Nat) : State :=
  match s.core.flightOf n with
  | some f =>
    match f.op with
    | .sync k (.hbm pa) _ _ =>
      let w : SyncWait := ⟨.core s.core.id n, k, pa, s.hub.pkg, s.core.id, s.core.func, f.hnd.map (·.2), 0⟩
      if f.stage != .away || s.core.pulse < f.due || (isRel k && s.core.writesPending n) then s
      else if s.hub.syncHolds w.who k pa then s.settled pa
      else
        let t := s.syncArrive w
        match t.1 with
        | .refused =>
          let ea := match k with
            | .bind b .. => BitVec.ofNat 64 b
            | .unbind b => BitVec.ofNat 64 b
            | _ => 0
          t.2.updCore fun c => c.failHeld f Cause.permission ea
        | _ => t.2
    | _ => s
  | none => s

/-- The operation that a queue's command waits for (R372). -/
def State.syncPerformQueue (s : State) (q : Nat) : State :=
  let v := AMap.get Queue.reset s.hub.queues q
  match v.cur with
  | some c =>
    match c.run with
    | .sync k pa =>
      if s.hub.syncHolds (.queue q) k pa then s.settled pa else (s.syncArrive ⟨.queue q, k, pa, s.hub.pkg, 512, v.func, none, 0⟩).2
    | _ => s
  | none => s

/-- The number by which an event names a request of another package. -/
def remoteWait (p : Packet) : Nat := 1024 * p.tag + p.src

/-- An operation of another package that waits.
Log entry 35 (DEDUCED). -/
def State.syncPerformRemote (s : State) (n : Nat) : State :=
  match s.hub.syncWait.find? fun w => match w.who with
    | .packet p => remoteWait p = n
    | _ => false with
  | some w => s.settled w.pa
  | none => s

/-- SYNC_OP_PERFORM: on a core, `n` names its operation; in the package, 2q the command of queue q, and 2(1,024 tag + src) + 1
a request of another package. -/
def execSyncOpPerform (n : Nat) (s : State) : Out :=
  .next (if s.phase != .hub then s.syncPerformCore n
    else if n % 2 = 0 then s.syncPerformQueue (n / 2)
    else s.syncPerformRemote (n / 2))

/-- SYNC_REPLY: the reply releases CT, a marked word being consumed by the register it would go to (R295); a time-out or a refusal by another package traps at the unit (R273, R278). -/
def execSyncReply (n : Nat) (s : State) : Out :=
  .next (match s.core.flightOf n with
    | some f =>
      match f.op with
      | .sync _ l _ d =>
        if f.stage = .done && f.due ≤ s.core.pulse then
          match d, f.marks with
          | some r, [] => s.updCore fun c => (c.updSeq f.q fun q => q.setX r (BitVec.ofNat 64 (leNat f.data)) false).finish f
          | some _, m :: _ => s.updCore fun c => c.consumeLoad f (l.addr + m)
          | none, _ => s.updCore fun c => c.finish f
        else s
      | _ => s
    | none => s)

/-! XFENCE (R103, R275). -/

/-- Matrix commands that are staged: in the engine, with a copy that consumed one, or about to issue (R58). -/
def Core.stagedCmds (c : Core) : List ArrCmd :=
  (c.staged.toList ++ c.cmds.filterMap (·.staged) ++ c.stagedDue.map (·.2)).map (·.cmd)

/-- What of a path is outstanding: accesses, each with its identity and the sequencer that issued it (log entry 16, DEDUCED). A
matrix instruction is named by the place of its instruction in program order, from its staging on. -/
def Core.pathUsers (c : Core) (path : Nat) : List (Nat × SeqId) :=
  ((c.flight.filter fun f => f.path = path && path != 3 && match f.op with
    | .waita .. => false
    | .sadrain .. => false
    | _ => true).map fun f => (f.id, f.q)) ++
  (if path = 2 then c.cmds.map fun k => (k.id, k.q) else []) ++
  (if path = 3 then
    ((c.stagedCmds ++ (c.arr.filter fun o => o.stop.isNone && !o.full && c.cycle ≤ o.groupDue (o.groups - 1)).map (·.cmd) ++
      c.suspended.toList.map (·.op.cmd)).map fun k => (k.no, k.q))
   else []) ++
  (if path = 4 then (c.sae.filter fun t => t.updates != []).map fun t => (t.id, SeqId.st) else [])

/-- XFENCE. -/
def execXfence (h : Long) (o : Xfence) (s : State) : Out :=
  issue (.xfence h o) s fun u s =>
    .ok (s.updCore fun c =>
      c.launch u 8 (.xfence o.a o.b (((c.pathUsers o.a.toNat).filter fun x => c.ordered u.q x.2 x.1).map (·.1))) .going 1 none true)

/-- XFENCE_COMPLETE. -/
def execXfenceComplete (n : Nat) (s : State) : Out :=
  .next (match s.core.flightOf n with
    | some f =>
      match f.op with
      | .xfence a _ after =>
        if f.due ≤ s.core.pulse && after.all (fun i => !((s.core.pathUsers a.toNat).map (·.1)).contains i) then
          s.updCore fun c => c.finish f
        else s
      | _ => s
    | none => s)

end Sys2Proof.Machine
end

