-- ==== Sys2Proof/Machine/ChainInstr.lean ====
section
/-!
DEFINITION. The chain instructions and their events (R279 to R281, R346, R349, R351, R357).
-/

namespace Sys2Proof.Machine

open Sys2Proof

/-- The chain context of the task on the core in hand; none outside a chain graph. -/
def Core.chainCtx (c : Core) : Option ChainCtx := c.task.bind (·.chain)

def Hub.updChain (h : Hub) (g : Chain → Chain) : Hub := { h with chain := g h.chain }

/-- The bases of own slots (R344). -/
def ChainHeader.stashBase (t : ChainHeader) (k : Nat) : Word := BitVec.ofNat 64 (t.stbase + k * t.ssz)
def ChainHeader.actBase (t : ChainHeader) (k : Nat) : Word := BitVec.ofNat 64 (t.abase + k * t.asz)
def ChainHeader.gradBase (t : ChainHeader) (k : Nat) : Word := BitVec.ofNat 64 (t.gbase + k * t.gsz)

/-- The buffer a CSTASH selects. -/
def stashBuffer (h : Hub) (x : ChainCtx) (sel : Nat) : Option Word :=
  match sel with
  | 0 => x.stash.map h.chain.header.stashBase
  | 1 => x.act.map h.chain.header.actBase
  | 2 => x.grad.map h.chain.header.gradBase
  | _ => none

/-- CSTASH. -/
def execCstash (h : Long) (o : Cstash) (s : State) : Out :=
  issue (.cstash h o) s fun u s =>
    match s.core.chainCtx.bind fun x => stashBuffer s.hub x o.sel.toNat with
    | some a => .ok (s.setXAfter u 1 o.d a false)
    | none => trapWith Cause.illegalField

/-- CUNSTASH. -/
def execCunstash (h : Long) (o : Cunstash) (s : State) : Out :=
  issue (.cunstash h o) s fun u s =>
    match s.core.chainCtx.bind (·.unstash) with
    | some k => .ok (s.setXAfter u 1 o.d (s.hub.chain.header.stashBase k) false)
    | none => trapWith Cause.illegalField

/-- The slot that an entry reserved for a direction, with the bytes of the neighbour's slot, where its send has still to be
made. -/
def sendSlot (h : Hub) (x : ChainCtx) (up : Bool) : Option (Nat × Nat) :=
  if up then (if h.chain.sentUp then none else x.up.map fun k => (k, (h.chain.upHello.map (·.size)).getD 0))
  else (if h.chain.sentDown then none else x.down.map fun k => (k, (h.chain.downHello.map (·.size)).getD 0))

/-- CSEND. -/
def execCsend (h : Long) (o : Csend) (s : State) : Out :=
  issue (.csend h o) s fun u s => do
    let w := s.x u o.s
    needUnpoisoned s u [(o.s, w), (o.b, 0)]
    let slot ← match s.core.chainCtx.bind fun x => sendSlot s.hub x o.dir with
      | some k => pure k
      | none => .error ⟨Cause.illegalField, 0⟩
    let nb ← nest s u o.b (o.dep.toNat + 1)
    need (endFieldsOk [0, 2] true w) Cause.illegalField w
    let src := endPlace s.core w
    let bs := bursts nb.2 src.2 0
    need (bs.all fun b => decide (0 ≤ b.2) && decide (b.2 + (nb.1 : Int) ≤ (slot.2 : Int))) Cause.illegalField w
    let ends : List CopyEnd := [⟨w, false, bs.map fun b => (b.1, nb.1)⟩]
    endsPermitted s.core ends
    endsInside s.core ends
    let t := s.freeTime
    let k := newCmd s u (.send o.dir (src.1.advance src.2) slot.1 nb.1 nb.2) false (s.core.pulse + 1 + t.1)
    let s := t.2.updHub fun h => h.updChain fun c => if o.dir then { c with sentUp := true } else { c with sentDown := true }
    pure (s.accept
      { k with
        hs := handlesOf s.core [w], srcs := bs.map fun (b : Int × Int) => (src.1.advance b.1, nb.1),
        dests := bs.map fun (b : Int × Int) => (Loc.absent, b.2.toNat) })

/-- What a CSEND carries, by offset in the slot, from memory as it stands. -/
def sendSpans (k : EngineCmd) (s : State) : List Span :=
  (k.srcs.zip k.dests).map fun x =>
    let r := s.readLoc x.1.1 0 x.1.2
    ⟨x.2.2, r.1, r.2⟩

/-- Chain traffic to a neighbour (R351, R357). -/
def Hub.chainPacket (h : Hub) (up : Bool) (body : Body) : Packet :=
  let t := h.chain.header
  h.packet 8 0 (if up then t.up else t.down) h.chain.tenant 0 (bodyLen body) (if up then t.cirup else t.cirdn) body

/-- Sends a CSEND's payload, packet by packet, each of which the neighbour will answer. -/
def State.sendPayload (s : State) (k : EngineCmd) (up : Bool) (slot : Nat) : State :=
  let mb := ((s.hub.chain.entries[s.hub.chain.entry]?).map (·.mb)).getD 0
  let ws := k.writes.map fun w => (⟨w.loc.addr, w.bytes, w.marks⟩ : Span)
  let parts := groupPieces (fun (w : Span) => w.off) (·.bytes.length) (ws.flatMap cutWrite)
  parts.zipIdx.foldl (fun s g =>
    s.request (some (s.core.owner k.id)) (s.hub.chainPacket up (.payload up slot mb g.1 (g.2 + 1 = parts.length)))) s

/-- CSEND_COMPLETE: the payload is read and enters the commit buffer; at last the neighbour has answered that it has landed and
the slot is full. -/
def execCsendComplete (n : Nat) (s : State) : Out :=
  .next (match s.core.cmdOf n with
    | some k =>
      match k.kind with
      | .send _ src .. =>
        if s.core.pulse < k.due then s
        else match k.stage with
          | .going =>
            if s.core.cmdBlocked k || s.cmdHeld k || !s.engineServed k k.srcs then s
            else match src with
              | .remote home va =>
                s.cmdRequest k home va (.reads (remoteSpans k.srcs)) false
              | _ =>
                let ws := (sendSpans k s).map fun x => (⟨.spad x.off, x.bytes, x.marks⟩ : MemWrite)
                (s.sourceEarly k).updCore fun c =>
                  c.updCmd n fun k => { k with stage := .commit, writes := ws, due := c.pulse + commitDelay }
          | .done => (s.endCmd k).updCore fun c => c.dropCmd n
          | _ => s
      | _ => s
    | none => s)

/-- CFREE: an outward effect, which holds nothing. -/
def execCfree (h : Long) (o : Cfree) (s : State) : Out :=
  issue (.cfree h o) s fun u s =>
    let c := s.hub.chain
    match s.core.chainCtx.bind fun x => if o.kind then x.grad else x.act with
    | none => trapWith Cause.illegalField
    | some k =>
      if (if o.kind then c.freedGrad else c.freedAct) then trapWith Cause.illegalField
      else
        let s := s.updHub fun h => h.updChain fun c => if o.kind then { c with freedGrad := true } else { c with freedAct := true }
        .ok (s.updCore fun c => c.launchOut u 8 (.cfree o.kind k) none false)

/-- Frees a receive slot and tells its sender (R346). -/
def Hub.freeSlot (h : Hub) (grad : Bool) (slot : Nat) : Hub :=
  let h := h.updChain fun c => if grad then { c with grad := c.grad.set slot none } else { c with act := c.act.set slot none }
  h.send (h.chainPacket (!grad) (.slotFree grad slot))

/-- CFREE_COMPLETE: the slot-free message leaves and the slot is free. -/
def execCfreeComplete (n : Nat) (s : State) : Out :=
  .next (match s.core.flightOf n with
    | some f =>
      match f.op with
      | .cfree grad slot =>
        if s.core.pulse < f.due then s else (s.updHub fun h => h.freeSlot grad slot).updCore fun c => c.finish f
      | _ => s
    | none => s)

end Sys2Proof.Machine
end

