-- ==== Sys2Proof/Machine/System.lean ====
section
/-!
DEFINITION. The system registers: RDSR and WRSR, and how their values are laid out (R5, R9, R20, R26, R77, R83, R154, R155,
R178, R179, R230, R287, R300, R321, R353, R354, R381, R419).
-/

namespace Sys2Proof.Machine

open Sys2Proof

def wb (b : Bool) (n : Nat) : Nat := if b then 2 ^ n else 0

/-- CORE_RANK (R9). -/
def Core.rankReg (c : Core) : Word :=
  match c.task with
  | none => 0
  | some t => BitVec.ofNat 64 (t.rank % 2 ^ 8 + t.width % 2 ^ 8 * 2 ^ 8 + wb t.oneCluster 16)

/-- TASK_ID (R381). -/
def Core.taskReg (c : Core) : Word :=
  match c.task with
  | none => 0
  | some t =>
    BitVec.ofNat 64 (t.node % 2 ^ 10 + t.queue % 2 ^ 10 * 2 ^ 10 + t.fn % 2 ^ 6 * 2 ^ 20 + t.seqNo % 2 ^ 32 * 2 ^ 32)

/-- MAPVER (R321). -/
def Core.mapverReg (c : Core) : Word := BitVec.ofNat 64 (c.mapver.toNat % 2 ^ 32 + wb (c.task.any (·.stale)) 32)

/-- CORE_ID (R321). -/
def Core.idReg (c : Core) (pkg : Nat) : Word := BitVec.ofNat 64 (c.id % 2 ^ 9 + c.coreClass % 2 ^ 8 * 2 ^ 16 + pkg % 2 ^ 10 * 2 ^ 24)

def arrCode : ArrKind → Nat
  | .tmma => 0
  | .tmms => 1
  | .tdist => 2

/-- MXPROG (R230). -/
def Core.mxprog (c : Core) : Word :=
  BitVec.ofNat 64 (wb c.bvalid 8 + match c.suspended with
    | none => 0
    | some p =>
      p.group % 64 + 2 ^ 6 + wb p.armed 7 + arrCode p.op.cmd.kind * 2 ^ 9 + wb p.op.cmd.staged 11 +
        seqCode p.op.cmd.q * 2 ^ 12 + p.op.cmd.addr.toNat % 2 ^ 32 * 2 ^ 16)

/-- Full slots of a list. -/
def fullSlots (l : List (Option Nat)) : Nat := (l.filter (·.isSome)).length
def setBits (l : List Bool) : Nat := (l.filter id).length

/-- CHEAD (R354); with every entry issued, MB is that of the last (R364). -/
def Chain.chead (c : Chain) : Word :=
  BitVec.ofNat 64
    (c.head % 2 ^ 11 + wb c.running.isSome 11 + wb c.started 12 + wb c.done 13 + wb c.stopped 14 + c.wait % 8 * 2 ^ 16 +
      ((c.entries[min c.head (c.entries.length - 1)]?).map (·.mb)).getD 0 % 2 ^ 12 * 2 ^ 20 +
      (c.stash.length - fullSlots c.stash) % 2 ^ 7 * 2 ^ 32 +
      fullSlots c.act % 2 ^ 5 * 2 ^ 39 + fullSlots c.grad % 2 ^ 5 * 2 ^ 44 + setBits c.dview % 2 ^ 5 * 2 ^ 49 +
      setBits c.uview % 2 ^ 5 * 2 ^ 54)

/-- A package register, as a core whose task is of the chain's tenant reads it; others read zero (R353, R354). -/
def State.chainReg (s : State) (n : Nat) : Word :=
  let c := s.hub.chain
  if s.core.tenant ≠ c.tenant ∨ c.entries = [] then 0
  else match n with
    | 0x50 => BitVec.ofNat 64 c.bubUp
    | 0x51 => BitVec.ofNat 64 c.bubDown
    | 0x52 => BitVec.ofNat 64 c.bubStash
    | 0x53 => BitVec.ofNat 64 c.bubSlot
    | _ => c.chead

/-- The value of a system register for a sequencer (R154); a trap of this cycle shows in the next (R284). -/
def State.readSr (s : State) (q : SeqId) (n : Nat) : Word :=
  let c := s.core
  match n with
  | 0x00 => BitVec.ofNat 64 c.level
  | 0x01 => (c.trapRegs 1).ecause
  | 0x02 => (c.trapRegs 2).ecause
  | 0x03 => (c.trapRegs 1).epc
  | 0x04 => (c.trapRegs 2).epc
  | 0x05 => (c.trapRegs 1).eaddr
  | 0x06 => (c.trapRegs 2).eaddr
  | 0x07 => (c.trapRegs 1).eseq
  | 0x08 => (c.trapRegs 2).eseq
  | 0x09 => c.tvec1
  | 0x0A => c.tvec2
  | 0x0B => (c.seq q).tmask
  | 0x10 => c.chkcfg
  | 0x20 => BitVec.ofNat 64 c.cycle
  | 0x21 => c.mapverReg
  | 0x22 => c.idReg s.hub.pkg
  | 0x23 => c.rankReg
  | 0x24 => c.taskReg
  | 0x30 => c.rbase.setWidth 64
  | 0x31 => c.mxprog
  | 0x32 => (c.seq q).srseed.setWidth 64
  | 0x33 => c.tkwdog
  | 0x40 => c.fstat
  | 0x60 => c.replays.setWidth 64
  | _ =>
    if 0x100 ≤ n ∧ n ≤ 0x117 then (c.getBf (n - 0x100)).setWidth 64
    else if 0x50 ≤ n ∧ n ≤ 0x54 then s.chainReg n else 0

/-- RDSR. -/
def execRdsr (h : Short) (o : Rdsr) (s : State) : Out :=
  issue (.rdsr h o) s fun u s => .ok (s.setXAfter u 1 o.d (s.readSr u.q o.r.toNat) false)

/-- Whether a WRSR of a value is allowed (R26, R77, R83, R20, R287, R419); the register is one that WRSR may write. -/
def srAllows (c : Core) (n : Nat) (v : Word) : Bool :=
  let cause := v.toNat % 2 ^ 8
  match n with
  | 0x01 => 1 ≤ c.tl && (cause == 0 || causeListed cause)
  | 0x02 => 2 ≤ c.tl && (cause == 0 || causeListed cause)
  | 0x03 => 1 ≤ c.tl && v.toNat % 4 == 0
  | 0x04 => 2 ≤ c.tl && v.toNat % 4 == 0
  | 0x05 => 1 ≤ c.tl
  | 0x06 => 2 ≤ c.tl
  | 0x07 => 1 ≤ c.tl
  | 0x08 => 2 ≤ c.tl
  | 0x09 => v.toNat % 4 == 0
  | 0x0A => 2 ≤ c.tl && v.toNat % 4 == 0
  | 0x0B => v.toNat / 2 ^ 3 == 0
  | 0x10 => v.toNat / 2 ^ 2 % 2 ^ 14 == 0 && v.toNat / 2 ^ 32 == 0
  | 0x32 => v.toNat % 2 ^ 32 != 0 && v.toNat / 2 ^ 32 == 0
  | 0x33 => v.toNat / 2 ^ 32 == 0
  | 0x40 => v.toNat / 2 ^ 4 == 0
  | _ => false

/-- The write of a core register, as it lands (R26, R155, R178, R287, R419). Of two writes to FSTAT in one cycle both clear.
Log entry 83 (DESIGN CHOICE). -/
def Core.writeSr (c : Core) (n : Nat) (v : Word) : Core :=
  match n with
  | 0x01 => { c with ecause1 := v &&& 0x1FF }
  | 0x02 => { c with ecause2 := v &&& 0x1FF }
  | 0x03 => { c with epc1 := v }
  | 0x04 => { c with epc2 := v }
  | 0x05 => { c with eaddr1 := v }
  | 0x06 => { c with eaddr2 := v }
  | 0x07 => { c with eseq1 := v &&& 3 }
  | 0x08 => { c with eseq2 := v &&& 3 }
  | 0x09 => { c with tvec1 := v }
  | 0x0A => { c with tvec2 := v }
  | 0x10 => { c with chkcfg := (v &&& 3) ||| (c.chkcfg &&& 0xFFFF0000) }
  | 0x33 => { c with tkwdog := v }
  | 0x40 => { c with fstat := c.fstat &&& ~~~(v &&& 0xF) }
  | _ => c

/-- A core register's write, from the next cycle on, whether or not the timed domain moves (R155). -/
def Core.writeSrNext (c : Core) (u : Ctx) (n : BitVec 10) (v : Word) : Core :=
  { c with
    done := c.done ++ [⟨c.nextId, false, c.pulse + 1, u.q, u.pc, [.sys n v], u.sig⟩]
    nextId := c.nextId + 1 }

/-- WRSR: TMASK and SRSEED take effect at once (R155). -/
def execWrsr (h : Short) (o : Wrsr) (s : State) : Out :=
  issue (.wrsr h o) s fun u s =>
    let v := s.x u o.a
    let n := o.r.toNat
    if s.xPoison u o.a then trapWith Cause.undersizedDelay
    else if !srAllows s.core n v then trapWith Cause.illegalField
    else if n = 0x0B then .ok (s.updCore fun c => c.updSeq u.q fun q => { q with tmask := v })
    else if n = 0x32 then .ok (s.updCore fun c => c.updSeq u.q fun q => { q with srseed := v.setWidth 32 })
    else .ok (s.updCore fun c => c.writeSrNext u o.r v)

end Sys2Proof.Machine
end

