-- ==== Sys2Proof/Machine/CoreEvents.lean ====
section
/-!
DEFINITION. The events of a core: launch set-up, completions, results, interlocks, the commit buffer, replays, late faults,
pending causes, unwinds, pre-emption and the end of a task (R7, R16, R19, R27, R31, R35, R52, R183, R240, R286, R295 to R307,
R325).
-/

namespace Sys2Proof.Machine

open Sys2Proof

/-! Completions (R16, R157, R158). -/

/-- Lands one register write. -/
def State.landWrite (s : State) (w : RegWrite) : State :=
  match w with
  | .x q r v poison => s.updCore fun c => c.updSeq q fun v' => v'.setX r v poison
  | .p q r v => s.updCore fun c => c.writeP q r v
  | .h r va walk => s.landHandle r va walk
  | .sys n v => s.updCore fun c => c.writeSr n.toNat v
  | .rbase v => s.updCore fun c => { c with rbase := v }
  | .bf b v => s.updCore fun c => c.setBf b v
  | .cl q n v => s.updCore fun c => c.updSeq q fun v' => v'.setCl n.toNat v
  | .pat n v => s.updCore fun c => { c with bx := AMap.set [] c.bx n.toNat v }

/-- Whether a timed instruction has reached its completion. -/
def Core.completes (c : Core) (p : Pending) : Bool := decide (p.due ≤ if p.onCycle then c.cycle else c.pulse)

/-- TIMED_COMPLETION. -/
def execTimedCompletion (n : Nat) (s : State) : Out :=
  .next (match s.core.done.find? fun p => p.id = n with
    | some p =>
      if !s.core.completes p then s
      else
        let s := s.updCore fun c => { c with done := c.done.filter fun p => p.id != n }
        (p.writes.foldl State.landWrite s).updCore fun c => c.post p.id p.q p.pc p.sig
    | none => s)

/-- TOKEN_STALL (R19): on the sequencer in turn. -/
def execTokenStall (s : State) : Out :=
  .next (if s.seq.waiting && s.core.tl = 0 && s.core.tkwdog != 0 && s.core.tkwdog.toNat ≤ s.seq.wd then
      (s.trapAtIssue Cause.tokenStall 0).pass
    else s)

/-! Results of the timed domain. -/

/-- SLOT_RESULT (R35, R84): a portable form's result is invisible on the row, on flow 16. -/
def execSlotResult (n : Nat) (s : State) : Out :=
  .next (match s.core.slotRes.find? fun r => r.id = n with
    | some r =>
      if r.due != s.core.cycle then s
      else s.updCore fun c =>
        let c := { c with slotRes := c.slotRes.filter fun x => x.id != n }
        let c := if r.flow < 16 then c.drive c.cycle r.flow r.pos r.v else c
        if r.fpInv then
          { c with
            pend := c.pend ++
              [{ q := .mx, cause := Cause.fpInvalid, epc := some r.pc, eaddr := 0, late := false, level := c.tl, waited := false }] }
        else c
    | none => s)

/-- MRF_ACCESS_START: a VRD that its ports held back reads now and drives position 0 that much later (R31, R32). -/
def execMrfAccessStart (n : Nat) (s : State) : Out :=
  .next (match s.core.lateReads.find? fun r => r.id = n with
    | some r =>
      if r.start != s.core.cycle then s
      else s.updCore fun c =>
        ({ c with lateReads := c.lateReads.filter fun x => x.id != n }).drive (c.cycle + r.occ) r.flow 0 (readVec c.mrf r.m)
    | none => s)

/-- Delivered cycles for which the results due in this cycle keep the domain (R325): slots, first rows, promised loads and
operands. -/
def Core.excessDue (c : Core) : Nat :=
  let slots := (c.slotRes.filter fun r => r.due = c.cycle && r.flow < 16).map fun r => c.classExcess (r.pos - 1)
  let rows := (c.arr.filter fun o => o.rowFinal 0 = c.cycle && o.goes 0).map fun _ => c.classExcess 14
  let ops := (c.arr.filter fun o => o.promised && o.t + o.lsrc = c.cycle && o.stop.isNone).map fun _ => c.classExcess 15
  let loads := (c.flight.filter fun f => match f.op with
    | .load _ _ _ (some t) _ _ => !f.late && decide (t ≤ c.cycle)
    | _ => false).map fun _ => c.classExcess 15
  (slots ++ rows ++ ops ++ loads).foldl max 0

/-- INTERLOCK_FREEZE (R27, R325). -/
def execInterlockFreeze (s : State) : Out :=
  .next (if s.core.ilk = 0 then s.updCore fun c => { c with ilk := c.excessDue } else s)

/-- What falls due in the present schedule cycle, in an order in which every one finds what it needs. -/
def Core.cycleEvents (c : Core) : List Instr :=
  (c.flight.filter fun f => match f.op with
    | .load _ _ _ (some t) _ _ => !f.late && t ≤ c.cycle
    | _ => false).map (fun f => .promisedLoadDue f.id) ++
  ((c.lateReads.filter fun r => r.start = c.cycle).map fun r => .mrfAccessStart r.id) ++
  ((c.slotRes.filter fun r => r.due = c.cycle).map fun r => .slotResult r.id) ++
  c.arr.flatMap (fun o => o.dueAt c.cycle) ++
  ((c.stagedDue.filter fun x => x.1 ≤ c.cycle).map fun _ => .stagedCommandIssue) ++
  ((c.cmds.filter fun k => k.timed && k.stage != .done && match k.start with
    | some t => t + k.due ≤ c.cycle
    | none => false).map fun k => .copyComplete k.id) ++
  ((c.cmds.filter fun k => c.mayStart k c.cycle).map fun k => .timedCopyStart k.id) ++
  (c.done.filter fun p => p.onCycle && p.due ≤ c.cycle).map fun p => .timedCompletion p.id

/-- INTERLOCK_THAW: the results of the cycle take effect in it. -/
def execInterlockThaw (s : State) : Out := .next { s with agenda := s.core.cycleEvents ++ s.agenda }

/-! The commit buffer (R6, R299). -/

/-- Bytes that an operation reads piece by piece. -/
def Flight.readLen (f : Flight) : Nat :=
  match f.op with
  | .load _ _ n _ _ _ => n
  | .operand _ _ _ _ _ spans => spansEnd spans
  | _ => 0

/-- The requests that carry an operation's body: an operand's fetch is cut at page boundaries and to what a packet carries, a load or
store goes whole.
Log entry 34 (DESIGN CHOICE). -/
def Flight.bodies (f : Flight) (va : Nat) (body : Body) : List (Nat × Body) :=
  match f.op with
  | .operand .. => bodiesOf va body
  | _ => [(va, body)]

/-- Requests for an operation of the core in hand; a multicast range is written by MCWRITE and denies everything else (R414). -/
def State.flightRequest (s : State) (f : Flight) (kind : BitVec 5) (home : BitVec 10) (va : Nat) (body : Body) : State :=
  let c := s.core
  let send (s : State) (kind : BitVec 5) (group : Nat) : State :=
    ((f.bodies va body).foldl (fun s b =>
      s.request (some (c.owner f.id)) { s.hub.packet kind f.path home.toNat c.tenant b.1 (bodyLen b.2) 0 b.2 with group := group }) s).updCore
        fun c => c.updFlight f.id fun f => { f with stage := .away, data := List.replicate f.readLen 0 }
  match s.hub.homeOf c.func va with
  | .group g =>
    if kind = 2 then send s 9 g else s.updCore fun c => (c.noteDenied va).updFlight f.id fun f => f.refusedBy c.pulse
  | _ => send s kind 0

/-- Lets an operation of this package go on to its target after a free time. -/
def State.depart (s : State) (f : Flight) (st : Stage) : State :=
  let t := s.freeTime
  t.2.updCore fun c => c.updFlight f.id fun f => { f with stage := st, due := c.pulse + 1 + t.1 }

/-- Whether an operation binds a region that overlaps one this package knows of. -/
def Hub.refusesBind (h : Hub) (fn : Nat) (k : SyncKind) : Bool :=
  match k with
  | .bind base len _ => h.bindsOver fn base len
  | _ => false

/-- The effect of an operation leaves the buffer; a BIND that cannot be is refused here. -/
def State.releaseFlight (s : State) (f : Flight) : State :=
  match f.op with
  | .store (.remote h va) bs => s.flightRequest f 2 h va (.writes [⟨va, bs, []⟩])
  | .store .. => s.depart f .going
  | .load _ (.remote h va) n _ _ _ => s.flightRequest f 1 h va (.reads [(va, n)])
  | .operand _ _ _ _ (.remote h va) spans => s.flightRequest f 1 h va (.reads (spans.map fun x => (va + x.1, x.2)))
  | .ordLoad _ (.remote h va) n _ => s.flightRequest f 5 h va (.ordLoad n)
  | .ordStore (.remote h va) bs => s.flightRequest f 5 h va (.ordStore bs)
  | .ordLoad .. => s.depart f .away
  | .ordStore .. => s.depart f .away
  | .sync k (.remote h va) _ _ =>
    if s.hub.refusesBind s.core.func k then s.updCore fun c => c.updFlight f.id fun f => { f with data := [1], stage := .refused, due := c.pulse }
    else s.flightRequest f 4 h va (.sync k)
  | .sync .. => s.depart f .away
  | .pgreq _ _ va =>
    match f.hnd with
    | some (_, v) => s.flightRequest f 7 v.home va (.pgreq v.token)
    | none => s
  | _ => s

/-- Whether a remote access stays in the buffer: an earlier one that it overlaps has not completed (R99, R122), or a release
still covers writes on their way (R123). -/
def Core.mustStay (c : Core) (f : Flight) : Bool :=
  match f.op with
  | .sync k (.remote ..) _ _ => isRel k && c.writesPending f.id
  | _ => (f.extents.any fun x => x.1.isRemote) && c.blocked f

/-- COMMIT_RELEASE: an FSIG that an unwind has silenced writes no flag and is over (R297). -/
def execCommitRelease (n : Nat) (s : State) : Out :=
  .next (match s.core.flightOf n, s.core.cmdOf n with
    | some f, _ => if f.stage = .commit && f.due ≤ s.core.pulse && !s.core.mustStay f then s.releaseFlight f else s
    | none, some k =>
      if k.stage != .commit || s.core.pulse < k.due then s
      else
        let away (s : State) : State := s.updCore fun c => c.updCmd n fun k => { k with stage := .away }
        match k.kind with
        | .send up _ slot _ _ => away (s.sendPayload k up slot)
        | .fsig w v =>
          if sigPkg w = s.hub.pkg then s
          else if k.quiet then s.updCore fun c => c.dropCmd n
          else away (s.request (some (s.core.owner n))
            (s.hub.packet 6 2 (sigPkg w) s.core.tenant 0 0 0 (.fsig (sigCore w) (sigAddr w) v)))
        | _ => s
    | none, none => s)

/-- Cycles that a strike replay runs again (R299). -/
def replayCycles : Nat := 64

/-- STRIKE_REPORT: the report covers the core of a number. The core stands for the cycles it runs again, which repeat what it
has done (R299, R300); a report during a replay starts it over.
Log entry 55 (DEDUCED). -/
def execStrikeReport (n : Nat) (s : State) : Out :=
  .next (s.updCoreId n fun c =>
    match c.status with
    | .running => { c with replayLeft := replayCycles, replays := c.replays + 1 }
    | .halting => { c with replayLeft := replayCycles, replays := c.replays + 1 }
    | .swapping _ => { c with replayLeft := replayCycles, replays := c.replays + 1 }
    | _ => c)

/-! Faults found late and pending causes (R240, R286). -/

/-- The locator of an access through a handle, as EADDR reports it. -/
def Flight.locator (f : Flight) : Word :=
  match f.hnd, f.extent, f.op with
  | some (some r, h), some (l, _, _), _ =>
    locWithOffset r (l.addr - (if h.remote then h.vaddr else h.paddr))
  | _, _, .pgreq _ _ va => BitVec.ofNat 64 va
  | _, _, .sync _ _ va _ => BitVec.ofNat 64 va
  | _, _, _ => 0

/-- Ends a refused or timed-out operation (R245, R247, R270, R273, R278, R287); a home that will not bind or unbind a region answers
with data (R274). -/
def Core.failFlight (c : Core) (f : Flight) : Core :=
  let cause := if f.stage = .timedOut then Cause.fabricTimeout else Cause.translationFault
  let ea := if f.stage = .timedOut then 0 else f.locator
  match f.op with
  | .pgreq .. => c.failLate f cause ea
  | .load .. => c.failHeld f cause ea
  | .store .. => c.failHeld f cause ea
  | .ordStore .. => c.failHeld f cause ea
  | .ordLoad .. => c.failHeld f cause ea
  | .sync k _ _ _ =>
    if f.data = [] then c.failHeld f cause ea
    else match k with
      | .bind b .. => c.failHeld f Cause.permission (BitVec.ofNat 64 b)
      | .unbind b => c.failHeld f Cause.permission (BitVec.ofNat 64 b)
      | _ => c.failHeld f cause ea
  | _ => c

/-- Ends a refused or timed-out command of the engine (R276, R278, R399); a refused access is the first of `writes`. -/
def Core.failEngine (c : Core) (k : EngineCmd) : Core :=
  if k.stage = .timedOut then c.failCmd k Cause.fabricTimeout 0
  else match k.kind with
    | .fsig w _ => c.failCmd k Cause.permission w
    | _ => c.failCmd k Cause.translationFault (BitVec.ofNat 64 ((k.writes.head?.map (·.loc.addr)).getD 0))

/-- LATE_FAULT: a refusal or a time-out comes to an operation or command of this core. A load that timed out is poisoned
instead, by its own event. -/
def execLateFault (n : Nat) (s : State) : Out :=
  .next (match s.core.flightOf n, s.core.cmdOf n with
    | some f, _ =>
      if (f.stage = .refused || (f.stage = .timedOut && !(match f.op with
        | .ordLoad .. => true
        | _ => false))) && f.due ≤ s.core.pulse then s.updCore fun c => c.failFlight f else s
    | none, some k =>
      if k.stage = .refused || k.stage = .timedOut then s.updCore fun c => c.failEngine k else s
    | none, none => s)

/-- The pending cause to be taken: the first of CT, LD, MX and ST to have one that is ready, in the order they came (R286).
Log entry 55 (DEDUCED). -/
def Core.nextPend (c : Core) : Option PendCause :=
  [SeqId.ct, .ld, .mx, .st].findSome? fun q => c.pend.find? fun p => p.q = q && p.ready c.tl && c.atBoundary q

/-- Where a late cause's EPC points: the next unit, or an ended sequencer's TASKEND (R173, R240). -/
def Core.nextUnit (c : Core) (q : SeqId) : Word := if (c.seq q).ended && !c.handling q then (c.seq q).endPc else (c.seq q).pc

/-- PENDING_CAUSE_TAKEN. -/
def execPendingCauseTaken (s : State) : Out :=
  .next (if s.core.tookTrap then s
    else match s.core.nextPend with
      | some p =>
        let epc := p.epc.getD (s.core.nextUnit p.q)
        (s.updCore fun c => { c with pend := c.pend.erase p }).raise p.q p.cause (p.late || p.waited) epc p.eaddr
      | none => s)

/-! What a schedule cycle leaves at its end (R31, R236). -/

/-- The MRF writes that finish in a cycle, those of the side port first. -/
def landMrf (mrf : AMap (BitVec 33)) (ws : List MrfWrite) : AMap (BitVec 33) :=
  (ws.filter (·.side) ++ ws.filter (!·.side)).foldl (fun m w => writeVec m w.m w.v w.mask) mrf

/-- One ACC write. -/
def landAcc (a : AMap (BitVec 32)) (e : AccEff) : AMap (BitVec 32) :=
  match e with
  | .cols row vs => accSet a row vs
  | .zero row n => a.filter fun q => !(row * 128 ≤ q.1 && q.1 < (row + n) * 128)

/-- The MRF and ACC writes that are final in the present cycle, after the side port's untimed ones. -/
def Core.landCycle (c : Core) : Core :=
  let c := c.landSide
  { c with
    mrf := landMrf c.mrf (c.mwr.filter fun w => w.fin = c.cycle), mwr := c.mwr.filter fun w => w.fin != c.cycle,
    acc := (c.accWr.filter fun (w : AccWrite) => w.cyc = c.cycle).foldl (fun a (w : AccWrite) => landAcc a w.eff) c.acc,
    accWr := c.accWr.filter fun w => w.cyc != c.cycle }

/-! Unwinds (R183, R297, R298). -/

/-- Writes the error record (R298). -/
def errorRecord (old : Word) (region kind seq addr : Nat) : Word :=
  BitVec.ofNat 64
    (region % 2 ^ 8 + kind % 4 * 2 ^ 8 + seq % 4 * 2 ^ 10 + min 15 (old.toNat / 2 ^ 12 % 16 + 1) * 2 ^ 12 + addr % 2 ^ 48 * 2 ^ 16)

def Core.noteError (c : Core) (region kind seq addr : Nat) : Core := { c with errrec := errorRecord c.errrec region kind seq addr }

/-- Whether an operation is an ACQ that waits to be performed. -/
def isWaitingAcq (f : Flight) : Bool :=
  match f.op with
  | .sync k _ _ _ => isAcq k && f.stage != .done
  | _ => false

/-- Whether an unwind withdraws an operation (R297): a promised load of the region, a waiting ACQ of CT, and the waits that
held LD and ST, which start again from their recorded addresses; R297 names CT's held instructions alone.
Log entry 80 (DESIGN CHOICE). -/
def unwindDrops (no : Nat) (f : Flight) : Bool :=
  match f.op with
  | .load _ _ _ (some _) _ _ => no ≤ f.id
  | .operand .. => true
  | .waita .. => f.q != .ct
  | .sadrain _ => f.q != .ct
  | .xfence .. => f.q != .ct
  | _ => isWaitingAcq f

/-- An unwind of the innermost region: what became final in this cycle is written, and the timed work still in flight is gone.
Scalar results of MX are timed work and go too; those of CT, LD and ST land, and their posts are made.
Log entry 81 (DESIGN CHOICE). -/
def Core.unwind (c : Core) : Core :=
  match c.regions with
  | [] => c
  | r :: rest =>
    let c := c.landCycle
    let gone := (c.flight.filter (unwindDrops r.no)).map (·.id)
    let back (q : Seq) (i : Nat) : Seq :=
      { q with
        pc := r.pcs.getD i 0, loops := r.loops.getD (i + 1) [], hold := none, redo := true, waiting := false,
        ended := r.ended.getD i false, brkPass := none }
    { c with
      regions := rest, abort := false, consumed := c.consumed.filter (fun x => x.level != 0),
      tok := (List.range 16).foldl (fun m i =>
        let t := AMap.get Tok.none m i
        AMap.set Tok.none m i { t with count := if t.en then r.counts.getD i 0 else 0 }) c.tok,
      ct := { c.ct with
        pc := r.handler, loops := r.loops.getD 0 [], redo := true, waiting := false,
        hold := c.ct.hold.filter fun n => !gone.contains n }
      ld := back c.ld 0, mx := back c.mx 1, st := back c.st 2,
      staged := r.staged, stagedDue := [], suspended := none, bvalid := false, heldB := none, resuming := false,
      mxOver := none, drives := [], slotRes := [], lateReads := [], lateForms := [], mwr := [], ports := [], accWr := [], arr := [], topk := [],
      done := c.done.filter fun p => !p.onCycle,
      cmds := (c.cmds.filter fun k => !k.timed || k.stage = .done).map fun k =>
        if r.no ≤ k.id then { k with quiet := true, staged := none } else k,
      flight := c.flight.filter fun f => !gone.contains f.id, mxWait := false, ilk := 0 }

/-- The ACQ that holds CT is withdrawn, from another package too (R273, R297). -/
def State.withdrawAcq (s : State) (c : Core) : State :=
  (c.flight.filter isWaitingAcq).foldl (fun s f => s.withdrawRequests (c.owner f.id)) s

/-- The consumption that unwinds the innermost region: one at TL 0, whose sequencer is at a boundary (R296). -/
def Core.unwindCause (c : Core) : Option Consumed := c.consumed.find? fun x => x.level = 0 && c.atBoundary x.q

/-- Whether the innermost region is to be unwound now. -/
def Core.unwindDue (c : Core) : Bool := c.regions != [] && c.tl = 0 && c.status = .running && (c.abort || c.unwindCause.isSome)

/-- CONTAINMENT_UNWIND: by CRGN.ABORT, or by the consumption of marked bytes at TL 0. Where both fall in one cycle, the
error record is that of the consumption.
Log entry 82 (DESIGN CHOICE). -/
def execContainmentUnwind (s : State) : Out :=
  .next (if !s.core.unwindDue then s
    else match s.core.regions with
    | [] => s
    | r :: _ =>
      let s' := s.withdrawAcq s.core
      match s.core.unwindCause with
      | some x => s'.updCore fun c => c.unwind.noteError r.id.toNat 2 (seqCode x.q) x.addr
      | none => s'.updCore fun c => c.unwind.noteError r.id.toNat 1 0 0)

/-! Pre-emption (R301 to R307, R232). -/

/-- Whether a pre-emption withdraws a held operation, which issues again after the restore (R301). -/
def preemptDrops (f : Flight) : Bool :=
  match f.op with
  | .waita .. => true
  | .xfence .. => true
  | .sadrain _ => true
  | _ => isWaitingAcq f

/-- Withdraws a held operation: its PC stays at its unit. -/
def Core.withdraw (c : Core) (f : Flight) : Core :=
  (c.dropFlight f.id).updSeq f.q fun q => if q.hold = some f.id then { q with hold := none, pc := f.pc, wd := 0 } else q

/-- The group at which a pre-emption stops an array instruction: the next to start, or none where all have (R229, R301). -/
def ArrOp.nextGroup (o : ArrOp) (cyc : Nat) : Option Nat :=
  if o.stop.isSome then none else (List.range o.groups).find? fun g => cyc < o.groupDue g

/-- Stops a core at its boundaries; an array instruction is suspended and armed (R232). -/
def Core.halt (c : Core) : Core :=
  let c := (c.flight.filter preemptDrops).foldl Core.withdraw c
  let c := c.arr.foldl (fun c o => match o.nextGroup c.cycle with
    | some g =>
      let c := c.suspend o g
      { c with suspended := c.suspended.map fun p => { p with armed := true } }
    | none => c) c
  { c with status := .halting, preempt := false, drainForms := c.portable && c.formsPending }

/-- Asks a core to halt (R301). A task that is being set up or restored halts as soon as it runs; one at a safe point goes on from there
after its restore. -/
def Core.preempted (c : Core) : Core :=
  match c.status with
  | .running => c.halt
  | .swapping _ => c.halt
  | .setup _ => { c with preempt := true }
  | .restoring _ => { c with preempt := true }
  | _ => c

/-- PREEMPT_REQUEST, for the core of a number. -/
def execPreemptRequest (n : Nat) (s : State) : Out :=
  .next (match s.coreAt n with
    | some c => (if c.status = .running then s.withdrawAcq c else s).updCoreId n Core.preempted
    | none => s)

/-! Set-up (R7, R135). -/

/-- LAUNCH_SETUP_DONE: schedule cycle 0 begins. A task that was to be pre-empted halts before its first instruction. -/
def execLaunchSetupDone (s : State) : Out :=
  .next (match s.core.status with
    | .setup 0 =>
      s.updCore fun c =>
        let go (q : Seq) : Seq := { q with last := c.pulse, minGap := 1, redo := false }
        let c :=
          { c with
            status := .running, cycle := 0, ct := go c.ct, ld := go c.ld, st := go c.st,
            mx := { c.mx with last := 0, minGap := 1, redo := false } }
        if c.preempt then c.halt else c
    | _ => s)

/-- Whether the commit buffer is empty: what its time no longer holds but the order of accesses does (R99, R123) leaves in the
drain; a task whose completion event is in the buffer ends and does not halt. -/
def Core.bufferEmpty (c : Core) : Bool :=
  (c.flight.all fun f => f.stage != .commit || decide (f.due ≤ c.pulse)) &&
    (c.cmds.all fun k => k.stage != .commit || decide (k.due ≤ c.pulse)) && c.veil.all (fun v => decide (v.till ≤ c.pulse)) && !c.ended

/-- CORE_HALT. -/
def execCoreHalt (s : State) : Out :=
  .next (if s.core.status = .halting && s.core.bufferEmpty && s.core.replayLeft = 0 && !s.core.drainForms then
      s.updCore fun c => { c with status := .halted }
    else s)

/-- Whether a command of the engine waits for a timed one, and so is saved with it. -/
def Core.waitsTimed (c : Core) (k : EngineCmd) : Bool :=
  k.timed || (k.ord && k.start.isNone && k.pred.any fun p => c.cmds.any fun m => m.id = p) ||
  (match k.kind with
   | .fsig .. => k.stage = .going && c.cmds.any fun m => m.id < k.id
   | _ => false)

/-- Whether every outstanding access has landed or timed out (R303). A promised load that is here waits for its due cycle. -/
def Core.drained (c : Core) : Bool :=
  (c.flight.all fun f => match f.op with
    | .load _ _ _ (some _) _ _ => f.stage = .done || f.stage = .timedOut
    | .operand .. => f.over
    | _ => false) &&
  (c.cmds.all c.waitsTimed) && c.sae = [] && (c.done.all (·.onCycle)) && c.posts = []

/-- The items of the pipeline record (R304): a TTOPK or ACCZ in progress is one. -/
def Core.items (c : Core) : Nat :=
  let zeroes (w : AccWrite) : Bool := match w.eff with
    | .zero .. => true
    | .cols .. => false
  min 320
    (c.drives.length + c.slotRes.length + c.mwr.length + (c.accWr.filter fun w => !zeroes w).length +
      ((c.accWr.filter zeroes).map (·.id)).eraseDups.length + (c.topk.map (·.id)).eraseDups.length + (c.cmds.filter (·.timed)).length)

/-- Banks that a save keeps (R304). -/
def liveBanks (live : BitVec 24) : Nat := if live = 0 then 24 else ((List.range 24).filter fun i => live.getLsbD i).length

/-- Bctx of R305. -/
def Core.recordBytes (c : Core) : Nat :=
  match c.task with
  | none => 0
  | some t =>
    6144 + (if t.image.mrfReq = 0 then 0 else 32 * 4224) + t.image.accReq * 512 + 144 * c.items + 131072 * liveBanks t.image.live

/-- T_save of R305 in ticks, while `k` cores of the die save at once. -/
def saveTicks (bytes k : Nat) : Nat := 2048 + ceilDiv (bytes * max 64 k) (128 * 64)

/-- Cores of a die that are saving or restoring. -/
def State.savers (s : State) (die : Nat) : Nat :=
  (s.cores.filter fun c => c.die = die && match c.status with
    | .saving _ => true
    | .restoring _ => true
    | _ => false).length

/-- A core that a task has left: its registers and storage stay as they are until the next launch clears them (R7, R283). -/
def Core.vacate (c : Core) : Core :=
  { c.landSide with
    status := .free, task := none, done := [], posts := [], flight := [], cmds := [], lastCopy := none, staged := none, stagedDue := [],
    sae := [], pend := [], consumed := [], regions := [], abort := false, arr := [], veil := [], sideNow := none, reads := [], ended := false, leaveAt := 0,
    resuming := false, mxWait := false, replayLeft := 0, drainForms := false, restored := false, preempt := false, rtWait := .idle }

/-- PREEMPT_DRAIN_END: the save begins; a killed core, which has nothing to save, becomes free. -/
def execPreemptDrainEnd (s : State) : Out :=
  .next (if !s.core.drained then s
    else match s.core.status with
    | .killed => s.updCore Core.vacate
    | .halted =>
      let till := s.tick + saveTicks s.core.recordBytes (s.savers s.core.die + 1)
      s.updCore fun c => { c with status := .saving till }
    | _ => s)

/-- What a save keeps of a core (R304, R232, R223): the rest is as at launch. -/
def Core.record (c : Core) : Core :=
  let c := c.landSide
  match c.task with
  | none => c
  | some t =>
    let live := t.image.live
    let still (q : Seq) : Seq := { q with waiting := false, wd := 0 }
    { c with
      status := .free, ctWd := none, ct := still c.ct, ld := still c.ld, mx := still c.mx, st := still c.st,
      mrf := if t.image.mrfReq = 0 then [] else c.mrf,
      acc := c.acc.filter fun q => q.1 < t.image.accReq * 128,
      spad := if live = 0 then c.spad else c.spad.filter fun q => live.getLsbD (q.1 / 131072),
      spadUe := if live = 0 then c.spadUe else c.spadUe.filter fun a => live.getLsbD (a / 131072),
      bvalid := false, heldB := none,
      flight := c.flight.filter fun f => match f.op with
        | .operand a .. => c.suspended.all fun p => p.op.id != a
        | _ => true
      tlb := [], mxWait := false }

/-! Graphs and their nodes. -/

def Hub.updGraph (h : Hub) (g : Nat) (f : Graph → Graph) : Hub :=
  { h with graphs := h.graphs.map fun x => if x.id = g then f x else x }

def Hub.graphOf (h : Hub) (g : Nat) : Option Graph := h.graphs.find? fun x => x.id = g

def Graph.updNode (g : Graph) (n : Nat) (f : Node → Node) : Graph :=
  { g with nodes := g.nodes.mapIdx fun i x => if i = n then f x else x }

/-- With the last record of its gang saved, a node waits to be restored (R383, R384). -/
def Hub.noteSaved (h : Hub) (tick g n : Nat) : Hub :=
  h.updGraph g fun x => x.updNode n fun y =>
    if y.state = .running && y.rec_.w ≤ y.ended + (h.saved.filter fun r => r.graph = g && r.node = n).length then
      { y with state := .saved, since := tick } else y

/-- CONTEXT_SAVE_DONE: the record stands in HBM, and the core is free. -/
def execContextSaveDone (s : State) : Out :=
  .next (match s.core.status, s.core.task with
    | .saving till, some t =>
      if s.tick < till then s
      else
        { s.updCore Core.vacate with
          hub := Hub.noteSaved { s.hub with saved := s.hub.saved ++ [⟨t.graph, t.node, s.core.record⟩] } s.tick t.graph t.node }
    | _, _ => s)

/-- CONTEXT_RESTORE: the record is back in the core; the array resumes before the domain thaws, the pending causes are taken and
then the sequencers issue (R306). -/
def execContextRestore (s : State) : Out :=
  .next (match s.core.status with
    | .restoring till =>
      if s.tick < till then s
      else
        let s := s.updCore fun c => { c with status := .running, restored := true }
        if s.core.preempt then s.updCore Core.halt
        else if s.core.tl = 0 && s.core.suspended.any (·.armed) then s.resumeArray
        else s
    | _ => s)

end Sys2Proof.Machine
end

