-- ==== Sys2Proof/Machine/Pulse.lean ====
section
/-!
DEFINITION. One pulse of a core: what its beginning brings due, what its end settles, and when a sequencer may issue (R12, R13,
R16, R17, R21 to R24, R31, R35, R55, R102, R118, R171, R181, R214, R284 to R286, R296, R427, R428).
-/

namespace Sys2Proof.Machine

open Sys2Proof

/-! Delivered pulses (R425, R427, R428). -/

/-- A cluster's priority: the least level of the tasks on its cores, 3 where there is none. -/
def State.clusterPriority (s : State) (die cluster : Nat) : Nat :=
  s.cores.foldl (fun acc c => if c.die = die && c.cluster = cluster then
    (match c.task with
     | some t => min acc t.level
     | none => acc) else acc) 3

/-- Whether a pre-emption request is pending on a cluster. -/
def State.clusterHalting (s : State) (die cluster : Nat) : Bool :=
  s.cores.any fun c => c.die = die && c.cluster = cluster && (c.status = .halting || c.preempt)

/-- Eighths of the pulses that a cluster gets; none before its first start (R425). -/
def State.clusterClock (s : State) (die cluster : Nat) : Nat :=
  if s.hub.well.halted then 0
  else match (s.hub.power.unitLevel.getD (2 * cluster + die) none) with
  | none => 0
  | some l =>
    let k := (s.hub.power.table.getD l []).getD (6 - s.clusterPriority die cluster) 8
    if s.clusterHalting die cluster then max 2 k else k

/-- Whether the core in hand gets the pulse of this tick: the first k of every run of 8. -/
def State.delivered (s : State) : Bool := decide (s.tick % 8 < s.clusterClock s.core.die s.core.cluster)

/-! The timed domain moves on (R21, R22, R31, R35, R212, R236, R237). -/

/-- The move from the end of a schedule cycle to the next. -/
def Core.advanceCycle (c : Core) : Core :=
  let t := c.cycle
  let c :=
    { c.landCycle with
      ports := c.ports.filter fun p => t < p.last, cycle := t + 1, drives := moveFlows c.map.hop t c.drives, mxCount := 0, mxReads := 0,
      mxWrites := 0 }
  let c := c.readAcc
  let due := c.lateForms.filter fun (l : LateForm) => l.cyc = c.cycle
  let c := due.foldl Core.lateForm { c with lateForms := c.lateForms.filter fun (l : LateForm) => l.cyc != c.cycle }
  let rows := c.topk.filter fun (r : TopkRow) => r.readAt = c.cycle
  { c with topk := c.topk.filter (fun (r : TopkRow) => r.readAt != c.cycle), mwr := c.mwr ++ rows.map fun (r : TopkRow) => r.write c }

/-! What a pulse brings due. -/

/-- The next event of an operation in flight, where it is due. -/
def Core.flightEvents (c : Core) (f : Flight) : List Instr :=
  if c.pulse < f.due then []
  else match f.stage with
    | .commit => match f.op with
      | .cfree .. => [.cfreeComplete f.id]
      | _ => [.commitRelease f.id]
    | .going => match f.op with
      | .load .. => [.loadValueReturn f.id]
      | .operand .. => [.loadValueReturn f.id]
      | .store .. => [.storeAcknowledge f.id]
      | .xlate .. => [.tableWalkEnd f.id]
      | .xfence .. => [.xfenceComplete f.id]
      | .sadrain _ => [.sadrainComplete f.id]
      | .hinv .. => [.hinvComplete f.id]
      | .waita .. => [.waitaSatisfied f.id, .waitaTimeout f.id]
      | _ => []
    | .away => match f.op with
      | .sync _ l _ _ => if l.isRemote then [] else [.syncOpPerform f.id]
      | .ordLoad .. => [.orderedOpPerform f.id]
      | .ordStore .. => [.orderedOpPerform f.id]
      | _ => []
    | .done => match f.op with
      | .load .. => [.loadValueReturn f.id]
      | .ordLoad .. => [.loadValueReturn f.id]
      | .store .. => [.storeAcknowledge f.id]
      | .ordStore .. => [.storeAcknowledge f.id]
      | .sync .. => [.syncReply f.id]
      | .pgreq .. => [.pgreqComplete f.id]
      | _ => []
    | .refused => match f.op with
      | .operand .. => []
      | _ => [.lateFault f.id]
    | .timedOut => match f.op with
      | .load .. => [.loadValueReturn f.id]
      | .ordLoad .. => [.loadValueReturn f.id]
      | .operand .. => []
      | _ => [.lateFault f.id]

/-- The next event of a command of the copy engine. -/
def Core.cmdEvents (c : Core) (k : EngineCmd) : List Instr :=
  if k.timed then []
  else match k.stage with
    | .refused => [.lateFault k.id]
    | .timedOut => [.lateFault k.id]
    | .away => []
    | _ =>
      match k.kind with
      | .fsig .. =>
        if k.stage = .going then (if c.cmds.all fun m => m.id ≥ k.id then [.fsigStart k.id] else [])
        else if c.pulse < k.due then []
        else [.commitRelease k.id, .fsigComplete k.id]
      | .send .. =>
        if c.pulse < k.due then [] else if k.stage = .commit then [.commitRelease k.id] else [.csendComplete k.id]
      | _ =>
        if k.ord && k.start.isNone then (if k.pred.all fun p => c.cmds.all fun m => m.id != p then [.orderedCopyStart k.id] else [])
        else if c.pulse < k.due then [] else [.copyComplete k.id]

/-- The ordered operations that wait for the wheel, which no freeze or replay of the core holds (R118, R119). -/
def Core.orderedEvents (c : Core) : List Instr :=
  (c.flight.filter fun f => f.stage = .away && f.due ≤ c.pulse && match f.op with
    | .ordLoad .. => true
    | .ordStore .. => true
    | _ => false).map fun f => .orderedOpPerform f.id

/-- Everything that the core's own pulse brings due. -/
def Core.pulseEvents (c : Core) : List Instr :=
  ((c.done.filter fun p => !p.onCycle && p.due ≤ c.pulse).map fun p => .timedCompletion p.id) ++
  (match c.sae with
   | t :: _ => if t.due ≤ c.pulse then [.saeUpdateApply t.id] else []
   | [] => []) ++
  c.cmds.flatMap c.cmdEvents ++ c.flight.flatMap c.flightEvents

/-- A WAITA's pulse counts while no trap is handled (R265). -/
def Core.countWaits (c : Core) : Core :=
  if c.tl != 0 || c.status != .running then c
  else
    let go (c : Core) (q : SeqId) : Core := c.updSeq q fun v =>
      if c.flight.any fun f => v.hold = some f.id && (match f.op with
          | .waita .. => true
          | _ => false) then { v with wd := v.wd + 1 } else v
    [SeqId.ct, .ld, .mx, .st].foldl go c

/-- A pending cause that waited while TL was not 0, or that a boundary has passed over, is late (R287). -/
def Core.markWaited (c : Core) : Core :=
  { c with pend := c.pend.map fun p =>
      if c.tl != 0 || (c.status = .running && c.atBoundary p.q) then { p with waited := true } else p }

/-- The core's own bookkeeping as a pulse begins. A portable form that MX issued in the cycle of a trap completes before the handler
runs too (R214, R284). -/
def Core.openPulse (c : Core) : Core :=
  let c := ((c.markWaited).countWaits).landSide
  { c with
    pulse := c.pulse + 1, trapped := c.tl != 0, preTrap := none, pOld := [], reads := []
    drainForms := (c.drainForms || (c.tookTrap && c.portable)) && c.formsPending }

/-- What is core-ordered before a post (R98): what the posting instruction comes after, and itself. -/
def Core.postOrder (c : Core) (p : Post) : List Nat :=
  joinOrder (c.getOrd p.q) ((List.range 4).map fun i => if i = seqCode p.q then p.id + 1 else 0)

/-- One post (R16, R17): above 63 it is discarded, and its cause is pending on the poster. -/
def Core.applyPost (c : Core) (p : Post) : Core :=
  let t := c.getTok p.queue
  if t.count + p.n ≤ 63 then c.setTok p.queue { t with count := t.count + p.n, ord := joinOrder t.ord (c.postOrder p) }
  else
    { c with
      pend := c.pend ++
        [{ q := p.q, cause := Cause.tokenOverflow, epc := some p.pc, eaddr := 0, late := false, level := 0, waited := false }] }

/-- A post among others of its sequencer, in program order. -/
def insertPost (p : Post) : List Post → List Post
  | [] => [p]
  | x :: xs => if p.id ≤ x.id then p :: x :: xs else x :: insertPost p xs

/-- The posts of a pulse, in the order of R17.
Log entry 46 (DEDUCED). -/
def Core.applyPosts (c : Core) : Core :=
  let of_ (q : SeqId) : List Post := (c.posts.filter fun p => p.q = q).foldr insertPost []
  let c' := (of_ .ct ++ of_ .ld ++ of_ .mx ++ of_ .st).foldl Core.applyPost c
  { c' with posts := [], tok := c'.tok.map fun q => (q.1, { q.2 with taken := 0 }) }

/-- A pulse of a strike replay (R24, R299): the sequencers and the timed domain stand, and what the commit buffer holds leaves that
much later; every other untimed work goes on. -/
def Core.replayPulse (c : Core) : Core :=
  let c := c.applyPosts.landSide
  let stay (q : Seq) : Seq := { q with last := q.last + 1 }
  { c with
    replayLeft := c.replayLeft - 1, pulse := c.pulse + 1, pOld := [], reads := [], leaveAt := c.leaveAt + 1
    ct := stay c.ct, ld := stay c.ld, st := stay c.st
    done := c.done.map fun p => if p.onCycle then p else { p with due := p.due + 1 }
    flight := c.flight.map fun f => if f.stage = .commit then { f with due := f.due + 1 } else f
    cmds := c.cmds.map fun k => if k.stage = .commit then { k with due := k.due + 1 } else k
    sae := c.sae.map fun t => { t with out := t.out + 1 }
    veil := c.veil.map fun v => { v with till := v.till + 1 } }

/-- A pulse of a restored core: its array fetches what it lacks; once it has, the pending causes are taken, and the sequencers issue
from the next pulse on (R306). Under a trap the array waits for the return (R231). -/
def State.restorePulse (s : State) : State :=
  let s := (s.updCore fun c => { c with pulse := c.pulse + 1, preTrap := none, pOld := [] }).tryResume
  if s.core.resuming && s.core.tl = 0 && s.core.suspended.any (·.armed) then { s with phase := .rotate, agenda := s.core.pulseEvents }
  else
    { s.updCore (fun c => { c with restored := false }) with
      phase := .rotate, agenda := if s.core.status = .running && s.core.nextPend.isSome then [.pendingCauseTaken] else [] }

/-- A pulse begins: the domain moves on or is held, and what is due comes first. -/
def State.runPulse (s : State) : State :=
  let s := (s.updCore Core.openPulse).tryResume
  let next : Phase := if s.core.status = .running then .issue else .close
  let s := { s with who := .ct, phase := next }
  if s.core.domainHeld then { s with agenda := s.core.pulseEvents }
  else if s.core.ilk != 0 then
    let s := s.updCore fun c => { c with ilk := c.ilk - 1 }
    { s with agenda := (if s.core.ilk = 0 then [.interlockThaw] else []) ++ s.core.pulseEvents }
  else
    let s := s.updCore Core.advanceCycle
    { s with agenda := (if s.core.excessDue = 0 then s.core.cycleEvents else [.interlockFreeze]) ++ s.core.pulseEvents }

/-- The core in hand takes its pulse of this tick, if it gets one. -/
def State.beginPulse (s : State) : State :=
  if !s.delivered then { s with phase := .rotate, agenda := if s.hub.well.halted then [] else s.core.orderedEvents }
  else match s.core.status with
    | .free => { s with phase := .rotate }
    | .setup n =>
      let s := s.updCore fun c => { c with status := .setup (n - 1), pulse := c.pulse + 1 }
      { s with phase := .rotate, agenda := if n ≤ 1 then [.launchSetupDone] else [] }
    | .saving till => { s with phase := .rotate, agenda := if till ≤ s.tick then [.contextSaveDone] else [] }
    | .restoring till => { s with phase := .rotate, agenda := if till ≤ s.tick then [.contextRestore] else [] }
    | _ =>
      if s.core.replayLeft != 0 then
        let s := s.updCore Core.replayPulse
        { s with phase := .rotate, agenda := s.core.pulseEvents }
      else if s.core.restored then s.restorePulse
      else s.runPulse

/-! What the end of a pulse settles. -/

/-- A region opened in this cycle records the counts and the staged command at its end (R181). -/
def Core.fillRegions (c : Core) : Core :=
  { c with regions := c.regions.map fun r =>
      if r.counts = [] then { r with counts := (List.range 16).map fun i => (c.getTok i).count, staged := c.staged } else r }

/-- Consumptions that end in UE_CONSUMED (R296), which the error record notes (R298); at TL 0 with a region open they unwind
it instead. -/
def Core.settleConsumed (c : Core) : Core :=
  let stays (x : Consumed) : Bool := x.level = 0 && (c.tl != 0 || c.regions != [])
  (c.consumed.filter fun x => !stays x).foldl (fun (c : Core) (x : Consumed) =>
    Core.noteError { c with
      pend := c.pend ++
        [{ q := x.q, cause := Cause.ueConsumed, epc := some x.pc, eaddr := BitVec.ofNat 64 x.addr, late := false, level := x.level,
           waited := false }] } 0 3 (seqCode x.q) x.addr)
    { c with consumed := c.consumed.filter stays }

/-- Whether every condition of R52 and R173 holds. -/
def Core.finished (c : Core) : Bool :=
  c.ct.ended && c.ld.ended && c.mx.ended && c.st.ended && c.tl = 0 && c.pend = [] && c.consumed = [] && c.flight = [] &&
    c.cmds = c.landing && c.sae = [] && c.done = [] && c.arr = [] && c.mwr = [] && c.accWr = [] && c.topk = [] && c.slotRes = [] &&
    c.lateReads = [] && c.stagedDue = []

/-- A pulse ends: posts, records, and the boundary's own events. An ABORT in the cycle of another sequencer's trap unwinds when TL
is 0 again; no level, region or pending cause of a core that is asked to halt changes (R301).
Log entry 70 (DESIGN CHOICE). -/
def State.closePulse (s : State) : State :=
  let s := s.updCore fun c => c.applyPosts.sweep.fillRegions.settleConsumed
  let s := s.updCore fun c =>
    if c.finished && !c.ended && c.status = .running then { c with ended := true, leaveAt := c.pulse + commitDelay } else c
  let c := s.core
  { s with
    phase := .rotate
    agenda :=
      (if c.unwindDue then [.containmentUnwind] else []) ++
      (if c.status = .running && c.nextPend.isSome then [.pendingCauseTaken] else []) ++
      (if c.ended && c.leaveAt ≤ c.pulse then [.taskCompletionEvent] else []) ++
      (match c.status with
       | .swapping _ => [.continuationStart]
       | _ => []) ++
      (if c.status = .halting && c.bufferEmpty then [.coreHalt] else []) ++
      (if (c.status = .halted || c.status = .killed) && c.drained then [.preemptDrainEnd] else []) }

/-- Cores of a package (R1). -/
def coresPerPackage : Nat := 336

/-- Runs a change of the machine with the core of a number in hand. -/
def State.inHand (s : State) (n : Nat) (g : State → State) : State :=
  if s.core.id = n then g s
  else match s.parked.find? fun c => c.id = n with
    | none => s
    | some k =>
      let me := s.core
      let t := g { s with core := k, parked := s.parked.map fun c => if c.id = n then me else c }
      match t.parked.find? fun c => c.id = me.id with
      | some c' => { t with core := c', parked := t.parked.map fun c => if c.id = me.id then t.core else c }
      | none => t

/-- The bytes of every timed copy that completed in this tick's cycles hold their new values from the next on (R102). -/
def State.landAll (s : State) : State :=
  ((s.cores.filter fun c => c.landing != []).map Core.id).foldl (fun s n => s.inHand n State.landTimed) s

/-- The turn passes to the next core; after the last of a tick, to the package. -/
def State.rotate (s : State) : State :=
  let s := if s.turns ≤ 1 then s.landAll else s
  match s.parked with
  | [] => { s with phase := if s.turns ≤ 1 then .hub else .begin, turns := s.turns - 1, who := .ct }
  | c :: rest =>
    { s with
      core := c, parked := rest ++ [s.core], turns := s.turns - 1, who := .ct, phase := if s.turns ≤ 1 then .hub else .begin }

/-! Issue. -/

/-- Whether a waiting unit's watchdog has run out (R19). -/
def Core.stalls (c : Core) (q : SeqId) : Bool :=
  (c.seq q).waiting && c.tl = 0 && c.tkwdog != 0 && decide (c.tkwdog.toNat ≤ (c.seq q).wd)

/-- The cause that a run of parcels which is no instruction raises, with EADDR (R124, R137). -/
def badUnit (pc : Word) (e : DecodeError) : Cause × Word :=
  match e with
  | .truncated n => (Cause.translationFault, pc + BitVec.ofNat 64 (4 * n))
  | .illegalLength => (Cause.illegalLength, 0)
  | .badPrefixes => (Cause.illegalField, 0)
  | .orphanPrefix => (Cause.orphanPrefix, 0)
  | .illegalOpcode p => (if p then Cause.orphanPrefix else Cause.illegalOpcode, 0)

/-- The delta of a unit that is no instruction: that of its WAIT byte where it is long, else one cycle.
Log entry 74 (DEDUCED). -/
def badDelta (ps : List Nat) : Nat :=
  match (takePrefixes 3 ps).2 with
  | w :: hi :: _ => if w % 4 = 2 && hi / 2 ^ 24 % 256 < 128 then hi / 2 ^ 24 % 256 else 1
  | _ => 1

/-- The parcels that are fetched of a unit that is no instruction: its prefixes, its word, and the word's high parcel. -/
def badLen (ps : List Nat) : Nat :=
  let r := takePrefixes 3 ps
  r.1.length + match r.2 with
    | [] => 0
    | [_] => 1
    | w :: _ => if w % 4 = 2 then 2 else 1

/-- Words of a unit that were read with a mark (R296). -/
def State.unitMarked (s : State) (len : Nat) : Option Nat := s.codeMarked s.who s.seq.pc.toNat (4 * len)

end Sys2Proof.Machine
end

