-- ==== Sys2Proof/Machine/Maps.lean ====
section
/-!
DEFINITION. Die maps: the record, the classes of a map and what a map says of a core (R312 to R321, R337).
-/

namespace Sys2Proof.Machine

open Sys2Proof

/-! Records in memory. -/

/-- A little-endian number of `n` bytes at an offset of a record. -/
def fieldAt (bs : List Byte) (off n : Nat) : Nat := leNat ((bs.drop off).take n)

/-- Whether `n` bytes at an offset are zero. -/
def zerosAt (bs : List Byte) (off n : Nat) : Bool := ((bs.drop off).take n).all (· == 0)

/-! What a map says (R314, R315, R317). -/

/-- The map of a core, by cluster and core. -/
def DieMap.coreMap (m : DieMap) (k : Nat) : CoreMap := AMap.get CoreMap.nominal m.cores k

/-- A core with a working slot of each class, itself working (R314, R378). -/
def CoreMap.eligible (m : CoreMap) : Bool :=
  m.working && [SlotClass.ma, .al, .sf].all fun k => (slotsOf k).any (slotWorks m)

/-- Cores of a die (R1). -/
def coresPerDie : Nat := 168

/-- The eligible cores of a class, lowest first. -/
def DieMap.members (m : DieMap) (cls : Nat) : List Nat :=
  (List.range coresPerDie).filter fun k => (m.coreMap k).eligible && (m.coreMap k).cls = cls

/-- The classes that have an eligible core, lowest first (R378, R379). -/
def DieMap.classes (m : DieMap) : List Nat := (List.range coresPerDie).filter fun c => m.members c != []

/-- The cores of a list that lie in a cluster. -/
def inCluster (ks : List Nat) (cl : Nat) : List Nat := ks.filter fun k => k / 8 = cl

/-- The map of a die in force. -/
def Hub.map (h : Hub) (die : Nat) : DieMap := if die = 0 then h.map0 else h.map1

/-- A map of a die by version and digest, in force or superseded: the built-for map of an image (R326). -/
def Hub.builtMap (h : Hub) (die version : Nat) (digest : BitVec 384) : Option DieMap :=
  let all := h.map die :: (h.oldMaps.filter (·.1 = die)).map (·.2)
  all.find? fun m => m.version = version && m.digest = digest

/-- A map of a die by its version, in force or superseded (R326). -/
def Hub.mapOf (h : Hub) (die version : Nat) : Option DieMap :=
  (h.map die :: (h.oldMaps.filter (·.1 = die)).map (·.2)).find? fun m => m.version = version

/-! Units (R314). -/

/-- The places at which a core has units: the kind and the position. -/
def unitPlaces : List (Nat × Nat) :=
  [(0, 0)] ++ (slotsOf .ma).map (fun p => (1, p)) ++ (slotsOf .al).map (fun p => (2, p)) ++ (slotsOf .sf).map (fun p => (3, p)) ++
    [(4, 0), (5, 15), (6, 0), (7, 0), (8, 0), (9, 0)]

/-- The number under which `weak` lists a unit: its bit of USE, and 20 and 21 for the two ports. -/
def unitBit (kind pos : Nat) : Nat := if kind ≤ 3 then pos - 1 else if kind ≤ 5 then kind + 16 else kind + 8

/-- Whether a kind of unit is a slot's. -/
def slotKind (kind : Nat) : Bool := decide (1 ≤ kind ∧ kind ≤ 3)

/-! The record (R313 to R318). -/

/-- The unit records of one core. -/
def unitRecords (bs : List Byte) (n k : Nat) : List (List Byte) :=
  ((List.range n).map fun i => (bs.drop (128 + 16 * i)).take 16).filter fun u => fieldAt u 2 1 * 8 + fieldAt u 3 1 = k

/-- The record of the unit at a place. -/
def recordAt (us : List (List Byte)) (place : Nat × Nat) : List Byte :=
  (us.find? fun u => fieldAt u 0 1 = place.1 && fieldAt u 4 1 = place.2).getD []

/-- The state of the unit at a place. -/
def stateAt (us : List (List Byte)) (place : Nat × Nat) : Nat := fieldAt (recordAt us place) 5 1

/-- Whether the states of a core's units leave the core dead (R314). -/
def deadUnits (state : Nat × Nat → Nat) : Bool :=
  (unitPlaces.any fun x => decide (4 ≤ x.1) && state x == 2) ||
    [SlotClass.ma, .al, .sf].any fun k => (slotsOf k).all fun p => unitPlaces.any fun x => slotKind x.1 && x.2 == p && state x == 2

/-- The dead units of a core, in one order: slots by their positions, then any other as 32 and its number. -/
def deadList (state : Nat × Nat → Nat) : List Nat :=
  (((List.range 14).map (· + 1)).filter fun pos => unitPlaces.any fun x => slotKind x.1 && x.2 = pos && state x = 2) ++
    (unitPlaces.filter fun x => decide (4 ≤ x.1) && state x == 2).map fun x => 32 + unitBit x.1 x.2

/-- The degraded units of a core, by rising number. -/
def weakList (state : Nat × Nat → Nat) : List Nat :=
  (List.range 22).filter fun b => unitPlaces.any fun x => x.1 != 0 && state x == 1 && unitBit x.1 x.2 = b

/-- What a record's parts say of core `k`. -/
def coreMapOf (bs : List Byte) (nunit pathOff classOff nclass k : Nat) : CoreMap :=
  let us := unitRecords bs nunit k
  let p := (bs.drop (pathOff + 48 * k)).take 48
  let cls := fieldAt p 30 1
  let entry := ((List.range nclass).map fun i => (bs.drop (classOff + 32 * i)).take 32).find? fun e => fieldAt e 0 1 = cls
  let slots := unitPlaces.filter fun x => slotKind x.1
  let slot (i off : Nat) : Nat := ((slots.find? fun x => x.2 = i + 1).map fun x => fieldAt (recordAt us x) off 2).getD 0
  { lat := (List.range 14).map fun i => slot i 8
    ii := (List.range 14).map fun i => slot i 6
    dead := deadList (stateAt us)
    weak := weakList (stateAt us)
    hop := (List.range 15).map fun i => fieldAt p i 1
    delta := fieldAt p 15 1
    xbar := (List.range 8).map fun i => fieldAt p (16 + i) 1
    badj := (List.range 4).map fun i => fieldAt p (24 + i) 1
    prom := fieldAt p 28 2
    cls := cls
    xmax := match entry with
      | some e => fieldAt e 1 1
      | none => 0
    working := cls != 0xFF }

/-- Whether a path record obeys R315. -/
def pathOk (p : List Byte) (core : Nat) : Bool :=
  ((List.range 15).all fun i => fieldAt p i 1 == 1 || fieldAt p i 1 == 2) && decide (fieldAt p 15 1 ≤ 15) &&
  ((List.range 8).all fun r => if r = core then fieldAt p (16 + r) 1 == 0 else decide (4 ≤ fieldAt p (16 + r) 1 ∧ fieldAt p (16 + r) 1 ≤ 15)) &&
  ((List.range 4).all fun i => decide (fieldAt p (24 + i) 1 ≤ 7)) &&
  decide (600 ≤ fieldAt p 28 2 ∧ fieldAt p 28 2 ≤ 900) && zerosAt p 31 17

/-- Whether a unit record obeys R314: only a slot has an interval and a latency, and it is degraded just when it works with more
than the nominal ones. -/
def unitOk (u : List Byte) (die : Nat) : Bool :=
  let kind := fieldAt u 0 1
  let ii := fieldAt u 6 2
  let lat := fieldAt u 8 2
  let state := fieldAt u 5 1
  unitPlaces.contains (kind, fieldAt u 4 1) && fieldAt u 1 1 == die && decide (fieldAt u 2 1 ≤ 20) && decide (fieldAt u 3 1 ≤ 7) &&
    decide (state ≤ 2) && zerosAt u 10 6 &&
    (if slotKind kind then
      state == 2 || (decide (1 ≤ ii) &&
        (state == 1) == (decide (1 < ii) || decide (CoreMap.nominal.lat.getD (fieldAt u 4 1 - 1) 1 < lat)))
     else ii == 0 && lat == 0)

/-- Whether the unit records of core `k` are one for each of its units, the core dead as they say. -/
def coreUnitsOk (bs : List Byte) (nunit pathOff k : Nat) : Bool :=
  let us := unitRecords bs nunit k
  us.length == unitPlaces.length && (unitPlaces.all fun x => recordAt us x != []) &&
    (stateAt us (0, 0) == 2) == deadUnits (stateAt us) && (stateAt us (0, 0) == 2) == (fieldAt bs (pathOff + 48 * k + 30) 1 == 0xFF)

/-! Classes (R317, R319). -/

/-- What two cores of one class agree in. -/
def CoreMap.sameUnits (a b : CoreMap) : Bool :=
  a.lat == b.lat && a.ii == b.ii && a.dead == b.dead && a.weak == b.weak && a.hop == b.hop && a.delta == b.delta && a.badj == b.badj &&
    a.prom == b.prom

/-- The working cores of a map by class, in the order of each class's lowest core. -/
def groupCores (m : Nat → CoreMap) : List (List Nat) :=
  ((List.range coresPerDie).filter fun k => (m k).working).foldl (fun gs k =>
    if gs.any fun g => g.any fun r => (m r).sameUnits (m k) then
      gs.map fun g => if g.any fun r => (m r).sameUnits (m k) then g ++ [k] else g
    else gs ++ [[k]]) []

/-- XMAX of the cores of a class. -/
def groupXmax (m : Nat → CoreMap) (g : List Nat) : Nat :=
  g.foldl (fun acc k => g.foldl (fun acc r => if k ≠ r ∧ k / 8 = r / 8 then max acc ((m k).xbar.getD (r % 8) 0) else acc) acc) 0

/-- The working cores of a class number. -/
def DieMap.workers (m : DieMap) (cls : Nat) : List Nat :=
  (List.range coresPerDie).filter fun k => (m.coreMap k).working && (m.coreMap k).cls = cls

/-- The class numbers of a map. -/
def DieMap.numbers (m : DieMap) : List Nat :=
  (((List.range coresPerDie).filter fun k => (m.coreMap k).working).map fun k => (m.coreMap k).cls).eraseDups

/-- The number that a class keeps from the map that a new one supersedes: that of a class with its members and its identity. -/
def DieMap.kept (old : DieMap) (m : Nat → CoreMap) (g : List Nat) : Option Nat :=
  old.numbers.find? fun c =>
    old.workers c = g && (match g with
      | k :: _ => (old.coreMap k).sameUnits (m k) && (old.coreMap k).xmax = groupXmax m g
      | [] => false)

/-- Numbers the classes of a new map: what one does not keep is the lowest that no class of either map uses. -/
def DieMap.number (old : DieMap) (m : Nat → CoreMap) (gs : List (List Nat)) : List (Nat × List Nat) :=
  let keeps := gs.filterMap (old.kept m)
  gs.foldl (fun acc g =>
    let n := match old.kept m g with
      | some n => n
      | none => ((List.range 337).find? fun n => !(keeps ++ old.numbers ++ acc.map (·.1)).contains n).getD 0
    acc ++ [(n, g)]) []

/-- The entry of the class list for a class number and its cores. -/
def classBytes (m : Nat → CoreMap) (c : Nat × List Nat) : List Byte :=
  leBytes 1 c.1 ++ leBytes 1 (groupXmax m c.2) ++ leBytes 2 c.2.length ++ leBytes 21 (c.2.map fun k => 2 ^ k).sum ++ List.replicate 7 0

/-- Whether the class list of a record is that of its cores (R317, R319). -/
def classesOk (bs : List Byte) (m : Nat → CoreMap) (classOff nclass : Nat) : Bool :=
  let es := (List.range nclass).map fun i => (bs.drop (classOff + 32 * i)).take 32
  let gs := groupCores m
  let ns := es.map fun e => fieldAt e 0 1
  es.length == gs.length && ns.Nodup && (ns.all fun n => decide (n ≤ 167)) &&
    gs.all fun g => match g with
      | k :: _ => (g.all fun r => (m r).cls == (m k).cls) && es.contains (classBytes m ((m k).cls, g))
      | [] => false

/-- A map record read: its die, specimen, the map, and the bytes its signature is on. -/
structure MapRecord where
  die : Nat
  specimen : BitVec 128
  map : DieMap
  digest : BitVec 384
  signature : List Byte

/-- Reads a map record (R313 to R319, R337); none where it breaks a rule of its format. -/
def parseMap (bs : List Byte) : Option MapRecord :=
  let nunit := fieldAt bs 40 2
  let nclass := fieldAt bs 42 2
  let pathOff := fieldAt bs 44 4
  let classOff := fieldAt bs 48 4
  let sig := fieldAt bs 52 4
  let die := fieldAt bs 24 1
  let cm := coreMapOf bs nunit pathOff classOff nclass
  let ok := fieldAt bs 0 4 == 0x4D484347 && fieldAt bs 4 2 == 1 && zerosAt bs 6 2 && decide (die ≤ 1) && zerosAt bs 25 3 &&
    fieldAt bs 28 4 != 0 && decide (1 ≤ nclass ∧ nclass ≤ 168) && pathOff == 128 + 16 * nunit && classOff == pathOff + 8064 &&
    sig == classOff + 32 * nclass && decide (fieldAt bs 56 4 < fieldAt bs 28 4) && decide (fieldAt bs 60 1 ≤ 1) && zerosAt bs 61 67 &&
    bs.length == sig + 96 &&
    ((List.range nunit).all fun i => unitOk ((bs.drop (128 + 16 * i)).take 16) die) &&
    ((List.range coresPerDie).all fun k => pathOk ((bs.drop (pathOff + 48 * k)).take 48) (k % 8) && coreUnitsOk bs nunit pathOff k) &&
    classesOk bs cm classOff nclass
  if !ok then none
  else
    some
      { die := die, specimen := BitVec.ofNat 128 (fieldAt bs 8 16)
        map :=
          { version := fieldAt bs 28 4, digest := sha384 bs
            cores := (List.range coresPerDie).foldl (fun m k => AMap.set CoreMap.nominal m k (cm k)) []
            bytes := bs }
        digest := sha384 (bs.take sig), signature := bs.drop sig }

/-! The record that the wellhead makes after a sounding (R312 to R319). -/

/-- The state of a unit of a core as the core's map has it (R314). -/
def CoreMap.unitState (c : CoreMap) (place : Nat × Nat) : Nat :=
  if place.1 = 0 then (if c.working then 0 else 2)
  else if (slotKind place.1 && c.dead.contains place.2) || (!slotKind place.1 && c.dead.contains (32 + unitBit place.1 place.2)) then 2
  else if c.weak.contains (unitBit place.1 place.2) then 1 else 0

/-- The unit records of core `k`. -/
def unitRecordBytes (die k : Nat) (c : CoreMap) : List Byte :=
  unitPlaces.flatMap fun x =>
    let slot := slotKind x.1
    leBytes 1 x.1 ++ leBytes 1 die ++ leBytes 1 (k / 8) ++ leBytes 1 (k % 8) ++ leBytes 1 x.2 ++ leBytes 1 (c.unitState x) ++
      leBytes 2 (if slot then c.ii.getD (x.2 - 1) 0 else 0) ++ leBytes 2 (if slot then c.lat.getD (x.2 - 1) 0 else 0) ++ List.replicate 6 0

/-- The path record of a core with its class number. -/
def pathBytes (c : CoreMap) (k cls : Nat) : List Byte :=
  c.hop.flatMap (leBytes 1 ·) ++ leBytes 1 c.delta ++ (List.range 8).flatMap (fun r => leBytes 1 (if r = k % 8 then 0 else c.xbar.getD r 4)) ++
    c.badj.flatMap (leBytes 1 ·) ++ leBytes 2 c.prom ++ leBytes 1 (if c.working then cls else 0xFF) ++ List.replicate 17 0

/-- A map record without its signature, for cores as they are now and the map that it supersedes. -/
def mapBytes (specimen : BitVec 128) (die time : Nat) (window : Bool) (old : DieMap) (m : Nat → CoreMap) : List Byte :=
  let cs := old.number m (groupCores m)
  let cls (k : Nat) : Nat := ((cs.find? fun c => c.2.contains k).map (·.1)).getD 0xFF
  let nunit := unitPlaces.length * coresPerDie
  let pathOff := 128 + 16 * nunit
  let classOff := pathOff + 8064
  leBytes 4 0x4D484347 ++ leBytes 2 1 ++ leBytes 2 0 ++ leBytes 16 specimen.toNat ++ leBytes 1 die ++ leBytes 3 0 ++ leBytes 4 (old.version + 1) ++
    leBytes 8 time ++ leBytes 2 nunit ++ leBytes 2 cs.length ++ leBytes 4 pathOff ++ leBytes 4 classOff ++ leBytes 4 (classOff + 32 * cs.length) ++
    leBytes 4 old.version ++ leBytes 1 window.toNat ++ leBytes 67 0 ++
    (List.range coresPerDie).flatMap (fun k => unitRecordBytes die k (m k)) ++
    (List.range coresPerDie).flatMap (fun k => pathBytes (m k) k (cls k)) ++ cs.flatMap (classBytes m)

/-- What a sounding finds of core `k`: each figure is a free one that R314 and R315 allow (R311, R312); a dead unit other than a slot
stands in `dead` as 32 and its number. -/
def measured (n k : Nat) : CoreMap :=
  let x (i : Nat) : Nat := Config.measure n (128 * k + i)
  let lat := (List.range 14).map fun i => 1 + x i % 65535
  let ii := (List.range 14).map fun i => 1 + x (14 + i) % 65535
  let deadSlots := ((List.range 14).filter fun i => x (28 + i) % 2 = 1).map (· + 1)
  let deadParts := (unitPlaces.filter fun p => decide (4 ≤ p.1) && x (42 + p.1) % 2 == 1).map fun p => 32 + unitBit p.1 p.2
  let c : CoreMap :=
    { lat := lat, ii := ii, dead := deadSlots ++ deadParts
      weak := (List.range 14).filter fun i => !deadSlots.contains (i + 1) &&
        (decide (1 < ii.getD i 1) || decide (CoreMap.nominal.lat.getD i 1 < lat.getD i 1))
      hop := (List.range 15).map fun i => 1 + x (60 + i) % 2, delta := x 80 % 16
      xbar := (List.range 8).map fun i => if i = k % 8 then 0 else 4 + x (82 + i) % 12, badj := (List.range 4).map fun i => x (92 + i) % 8
      prom := 600 + x 100 % 301, cls := 0, xmax := 0, working := true }
  { c with working := !deadUnits c.unitState }

/-- A core's figures with every unit working. -/
def CoreMap.healed (c : CoreMap) : CoreMap :=
  { c with
    working := true, dead := []
    weak := (List.range 14).filter fun i => decide (1 < c.ii.getD i 1) || decide (CoreMap.nominal.lat.getD i 1 < c.lat.getD i 1) }

/-- Cores that work on every die (R1). -/
def workingPerDie : Nat := 160

/-- What a sounding of cluster `cl` leaves of each core of a die: of the cores that it finds dead no more than leave 160 that work. -/
def afterSounding (n cl : Nat) (old : Nat → CoreMap) (k : Nat) : CoreMap :=
  if k / 8 = cl then
    let elsewhere := ((List.range coresPerDie).filter fun j => j / 8 != cl && !(old j).working).length
    let before := ((List.range (k % 8)).filter fun i => !(measured n (8 * cl + i)).working).length
    let c := measured n k
    if c.working || decide (elsewhere + before < coresPerDie - workingPerDie) then c else c.healed
  else old k

/-- Whether what a sounding found of a core differs from the map in force. -/
def CoreMap.differs (a b : CoreMap) : Bool :=
  !(a.sameUnits b && a.working == b.working && (List.range 8).all fun i => a.xbar.getD i 4 == b.xbar.getD i 4)

end Sys2Proof.Machine
end

