-- ==== Sys2Proof/Machine/Translator.lean ====
section
/-!
DEFINITION. The on-device translator: what the spec states of its output, and the one stream of it that the spec prints (R322, R324,
R325, R329, R337 to R340).
-/

namespace Sys2Proof.Machine

open Sys2Proof

/-! The units that code uses (R322). -/

/-- The flow-row position of a slot instruction. -/
def slotPosition (i : Instr) : Option Nat :=
  match i.info with
  | some f => if f.long && 0x84 ≤ f.major && f.major < 0xA0 then some (i.body / 2 ^ 36 % 16) else none
  | none => none

/-- The bits of USE that an instruction names by itself; the crossbar, and the promised latency of an array instruction, hang on the
locators that it finds in registers.
Log entry 98 (DEDUCED). -/
def instrUse (i : Instr) : List Nat :=
  match slotPosition i with
  | some p => if 1 ≤ p && p ≤ 14 then [p - 1] else []
  | none =>
    match i with
    | .tmma .. => [14]
    | .tmms .. => [14]
    | .tdist .. => [14]
    | .mxstage .. => [14]
    | .cpgo .. => [15]
    | .cpacc .. => [15]
    | .fsig .. => [15]
    | .csend .. => [15]
    | .saq .. => [16]
    | .sadrain .. => [16]
    | .vldb .. => [17]
    | .bxld .. => [17]
    | .ldgP .. => [19]
    | .vldg .. => [19]
    | _ => []

/-- Whether an instruction names a slot that does not work. -/
def namesDead (c : CoreMap) (i : Instr) : Bool :=
  (slotPosition i).any fun p => 1 ≤ p && p ≤ 14 && !slotWorks c p

/-! Code without dead units (R329). -/

def nopParcel : Nat := (encodeParcels (.nop ⟨false, Pfx.none⟩)).headD 0
def safeptParcel : Nat := (encodeParcels (.safept ⟨false, Pfx.none⟩)).headD 0

/-- A run of parcels in which no unit names a dead slot, one after another from its start, with the instructions of its units: the code of an
image that obeys R329 stands as it is. -/
def withoutDead (c : CoreMap) : Nat → List Nat → List Nat × List Instr
  | 0, ps => (ps, [])
  | _ + 1, [] => ([], [])
  | n + 1, p :: ps =>
    match decodeParcels (p :: ps) with
    | .unit i len _ =>
      let r := withoutDead c n ((p :: ps).drop len)
      if namesDead c i then (List.replicate len nopParcel ++ r.1, r.2) else ((p :: ps).take len ++ r.1, i :: r.2)
    | .bad _ =>
      let r := withoutDead c n ps
      (p :: r.1, r.2)

/-- Whether a parcel is a SAFEPT. -/
def isSafept (p : Nat) : Bool :=
  match decodeParcels [p] with
  | .unit (.safept _) .. => true
  | _ => false

/-- CT's code with a SAFEPT at every safe point's address (R324): that of an image that obeys it stands as it is. -/
def withSafepts (as : List Nat) (ps : List Nat) : List Nat :=
  ps.mapIdx fun i p => if as.contains (4 * i) && !isSafept p then safeptParcel else p

/-! The stream that the spec prints (R338, R340). -/

/-- The MX stream of the portable variant of chapter 14. -/
def matvecPortable : List Instr :=
  let h (sig : BitVec 8) : Long := ⟨false, Pfx.none, 1, sig⟩
  let o (a b : BitVec 10) : Port := { lt := 2, minor := 0, d := 0x20, a := a, b := b }
  [.tkwait ⟨false, Pfx.none⟩ ⟨2, 7⟩, .vmulP (h 0) (o 0 4), .vfmaP (h 0) (o 1 5), .vfmaP (h 0) (o 2 6), .vfmaP (h 0x83) (o 3 7),
    .taskend ⟨false, Pfx.none⟩]

/-- The MX stream that the translator makes of it for a core whose MA1 and MA2 are dead. -/
def matvecNative : List Instr :=
  let h (wait sig : BitVec 8) : Long := ⟨false, Pfx.none, wait, sig⟩
  let rd (wait : BitVec 8) (f : BitVec 4) (m : BitVec 12) : Instr := .vrd (h wait 0) ⟨0, f, m⟩
  let o (pos d a b c : BitVec 4) : Slot := { pos := pos, fd := d, fa := a, fb := b, fc := c, lt := 2, minor := 0, imm := 0 }
  [.nopL (h 0xF2 0), rd 1 0 0, rd 0 1 4, .vmul (h 2 0) (o 1 2 0 1 0), rd 1 3 1, rd 0 4 5, rd 3 6 2, rd 0 7 6, rd 3 9 3, rd 0 10 7,
    .vfma (h 3 0) (o 7 5 3 4 2), .vfma (h 5 0) (o 9 8 6 7 5), .vfma (h 5 0) (o 11 11 9 10 8),
    .vwr (h 7 0) { pos := 15, f := 11, m := 0x20, masked := false, pr := 0 }, .nopL (h 1 0x83), .taskend ⟨false, Pfx.none⟩]

/-- Whether a class is that of chapter 14's map 8, MA2 dead. -/
def matvecClass (c : CoreMap) : Bool :=
  c.dead == [3, 5] && c.hop == List.replicate 6 1 ++ [2] ++ List.replicate 8 1 &&
    [1, 7, 9, 11].all (fun p => c.lat.getD (p - 1) 0 == 3) && [1, 7, 11].all (fun p => c.ii.getD (p - 1) 0 == 1) && c.ii.getD 8 0 == 2

/-- A segment's bytes in an image. -/
def segmentBytes (src : List Byte) (s : Nat) : List Byte := (src.drop (fieldAt src (192 + 8 * s) 4)).take (fieldAt src (196 + 8 * s) 4)

/-- The parts that the translator makes (R329): the code of CT, LD, MX and ST, then its USE bits, entries and safe points; for the image and
class whose translation the spec prints, that one, with the other streams unchanged.
Log entry 98 (DEDUCED). -/
def translated (src : List Byte) (m : DieMap) (cls firmware : Nat) (c : CoreMap) (part : Nat) : List Byte :=
  if matvecClass c && segmentBytes src 2 == matvecPortable.flatMap encode && fieldAt src 130 2 == 0 then
    match part with
    | 2 => matvecNative.flatMap encode
    | 4 => leBytes 4 0 ++ (src.drop 176).take 16
    | s => segmentBytes src s
  else Config.translate src m.bytes cls firmware part

/-! The image (R322). -/

/-- The code that the translator makes for a sequencer: whole parcels, at most 16 MiB. -/
def codeOf (bs : List Byte) : List Byte := bs.take (min (bs.length / 4 * 4) (2 ^ 24))

/-- A number that the translator gives, as the address of a parcel of its code. -/
def parcelAddr (made : List Byte) (i len : Nat) : Nat := fieldAt made (4 * i) 4 % len / 4 * 4

/-- The image that the translator makes of a portable one for a class under a map (R329): its header is what R322 to R325 say, with USE read
off its code; it uses no dead unit, keeps the safe points, and has a SAFEPT at each. -/
def translationOf (specimen : BitVec 128) (firmware die : Nat) (m : DieMap) (src : List Byte) (variant cls : Nat) : List Byte :=
  let c := m.coreMap ((m.members cls).headD 0)
  let made := translated src m cls firmware c
  let clean := (List.range 4).map fun s => let ps := toParcels (codeOf (made s)); withoutDead c ps.length ps
  let len (s : Nat) : Nat := 4 * ((clean.getD s ([], [])).1).length
  let n := fieldAt src 130 2
  let safe (i s : Nat) : Nat := parcelAddr (made 4) (5 + 4 * i + s) (len s)
  let code := clean.zipIdx.map fun x => (if x.2 = 0 then withSafepts ((List.range n).map fun i => safe i 0) x.1.1 else x.1.1).flatMap parcelBytes
  let named := clean.flatMap fun x => x.2.flatMap instrUse
  let free (b : Nat) : Bool := (b == 18 || (b == 19 && named.contains 14)) && fieldAt (made 4) 0 4 / 2 ^ b % 2 == 1
  let use (b : Nat) : Bool := named.contains b || free b
  let alat (k : Nat) : Nat := if use (if k = 15 then 19 else k) then c.latencyOf k else 0
  let segOff (s : Nat) : Nat := 400 + ((List.range s).map len).sum
  let task := (src.drop 256).take 144
  leBytes 4 0x49484347 ++ leBytes 2 1 ++ leBytes 2 0 ++ leBytes 16 specimen.toNat ++ leBytes 1 die ++ leBytes 1 cls ++ leBytes 2 0 ++
    leBytes 4 m.version ++ leBytes 48 m.digest.toNat ++ leBytes 48 (sha384 src).toNat ++ leBytes 2 variant ++ leBytes 2 n ++
    leBytes 4 (((List.range 20).filter use).map (2 ^ ·)).sum ++ (List.range 16).flatMap (fun k => leBytes 2 (alat k)) ++
    leBytes 3 (fieldAt src 168 3) ++ leBytes 5 0 ++ (List.range 4).flatMap (fun s => leBytes 4 (parcelAddr (made 4) (1 + s) (len s))) ++
    (List.range 4).flatMap (fun s => leBytes 4 (segOff s) ++ leBytes 4 (len s)) ++ leBytes 4 (segOff 4) ++ leBytes 28 0 ++
    task.mapIdx (fun i b => if i = 2 then b &&& 0xFD else b) ++ code.flatten ++
    (List.range n).flatMap fun i => (List.range 4).flatMap fun s => leBytes 4 (safe i s)

end Sys2Proof.Machine
end

