-- ==== Sys2Proof/Machine/Images.lean ====
section
/-!
DEFINITION. Images, objects, selectors, the loader's acceptance, and the translated-image cache (R153, R322 to R330, R333, R334,
R377, R378).
-/

namespace Sys2Proof.Machine

open Sys2Proof

/-! Reading through a function's tables (R371). -/

/-- Why a read of virtual memory gives no bytes: it fails, with the status of a command it ends and the address whose walk met a broken
entry, if one did; or parts of it, each with its home, are still to come from other packages. -/
inductive NotRead where
  | fails (status : Nat) (walk : Option Nat)
  | waits (parts : List (Nat × Nat × Nat))
  deriving DecidableEq, Repr

/-- The status of a command whose record, image or object could not be read (R374). -/
def unreadable : Nat := 7

/-- The page of an address for bytes that another package has sent: no address of this one. -/
def pageElsewhere : Nat := 2 ^ 96

/-- One part of an extent, as path SCL of a core of the function's tenant may read it: the 64 KiB page it lies on, and its bytes. Marked
bytes cannot be read; a stack that has not started is waited for (R425). -/
def Hub.readPart (h : Hub) (who f : Nat) (x : Nat × Nat) : Except NotRead (Nat × List Byte) :=
  match h.homeOf f x.1 with
  | .own =>
    let t := h.walk f x.1
    let pa := t.pa + x.1 % pageBytes t.psize
    if !h.hbmOpen pa x.2 then .error (.waits [])
    else if t.present && t.perm.getLsbD 0 && !t.sync && x.1 < 2 ^ 57 && h.readMarks pa x.2 = [] then
      .ok (pa / 65536 * 65536, h.readHbm pa x.2)
    else .error (.fails unreadable (if t.error then some x.1 else none))
  | .pkg n =>
    match h.fetches.find? fun t => t.who = who && t.func = f && t.va = x.1 && t.len = x.2 with
    | none => .error (.waits [(n, x)])
    | some t => match t.got with
      | none => .error (.waits [])
      | some none => .error (.fails unreadable none)
      | some (some bs) => .ok (pageElsewhere, bs)
  | _ => .error (.fails unreadable none)

/-- The parts of an extent together: the first that cannot be read decides, else those still to come. -/
def joinParts : List (Except NotRead (Nat × List Byte)) → Except NotRead (List Nat × List Byte)
  | [] => .ok ([], [])
  | a :: rest =>
    match a, joinParts rest with
    | .error (.fails st w), _ => .error (.fails st w)
    | _, .error (.fails st w) => .error (.fails st w)
    | .error (.waits l), .error (.waits m) => .error (.waits (l ++ m))
    | .error (.waits l), .ok _ => .error (.waits l)
    | .ok _, .error (.waits m) => .error (.waits m)
    | .ok x, .ok r => .ok (x.1 :: r.1, x.2 ++ r.2)

/-- Bytes of virtual memory, with the 64 KiB pages that hold them, for a queue or the chain engine. -/
def Hub.readVa (h : Hub) (who f va n : Nat) : Except NotRead (List Nat × List Byte) :=
  (joinParts ((pieces va n).map (h.readPart who f))).map fun r =>
    (((r.1.zip (pieces va n)).filter fun x => x.2.1 = va || x.2.1 % 65536 = 0).map (·.1), r.2)

/-- Asks other packages for the parts that a queue, or the chain engine, still lacks. -/
def State.fetch (s : State) (who f : Nat) (parts : List (Nat × Nat × Nat)) : State :=
  parts.foldl (fun s x =>
    let tag := s.requestTag
    (s.request none (s.hub.packet 1 0 x.1 (s.hub.func f).tenant x.2.1 x.2.2 0 (.reads [x.2]))).updHub fun h =>
      { h with fetches := h.fetches ++ [⟨who, f, x.2.1, x.2.2, tag, none⟩] }) s

/-- A walk error that a read met is reported in the fault ring (R392). -/
def State.reportRead (s : State) (f : Nat) (walk : Option Nat) : State :=
  match walk with
  | some va => (s.fault f va (faultKind true false) 0 false s.hub.pkg none).2
  | none => s

/-- What a queue, or the chain engine, had asked for is no longer needed. -/
def Hub.dropFetches (h : Hub) (who : Nat) : Hub := { h with fetches := h.fetches.filter fun t => t.who != who }

/-! Images (R153, R322). -/

/-- A token entry that obeys R153. -/
def tokEntryOk (v : Nat) : Bool := v / 2 ^ 11 == 0 && (v / 2 ^ 10 % 2 == 1 || v == 0)

/-- Whether a task header is well formed, apart from the device's limits. -/
def headerOk (t : List Byte) : Bool :=
  fieldAt t 0 2 == 1 && fieldAt t 2 1 / 4 == 0 && zerosAt t 6 2 && zerosAt t 12 4 &&
    ((List.range 16).all fun q => tokEntryOk (fieldAt t (16 + 2 * q) 2)) &&
    (List.range 24).all fun b => bfValid (BitVec.ofNat 32 (fieldAt t (48 + 4 * b) 4))

/-- Whether an image obeys R322. -/
def imageOk (bs : List Byte) : Bool :=
  let t := bs.drop 256
  let port := fieldAt bs 6 1 == 1
  let whole (off n : Nat) : Bool := decide (off + n ≤ bs.length)
  fieldAt bs 0 4 == 0x49484347 && fieldAt bs 4 2 == 1 && decide (fieldAt bs 6 1 ≤ 1) && fieldAt bs 6 1 == fieldAt t 2 1 / 2 % 2 &&
    zerosAt bs 7 1 && zerosAt bs 26 2 && zerosAt bs 171 5 && zerosAt bs 228 28 && decide (400 ≤ bs.length) && headerOk t &&
    (if port then zerosAt bs 8 18 && zerosAt bs 28 100 && zerosAt bs 132 36
     else decide (fieldAt bs 24 1 ≤ 1) && fieldAt bs 28 4 != 0) &&
    decide (fieldAt bs 130 2 ≤ 4096) && fieldAt bs 132 4 / 2 ^ 20 == 0 &&
    ((List.range 4).all fun s =>
      fieldAt bs (176 + 4 * s) 4 % 4 == 0 && fieldAt bs (196 + 8 * s) 4 % 4 == 0 && decide (fieldAt bs (196 + 8 * s) 4 ≤ 2 ^ 24) &&
        whole (fieldAt bs (192 + 8 * s) 4) (fieldAt bs (196 + 8 * s) 4)) &&
    whole (fieldAt bs 224 4) (16 * fieldAt bs 130 2)

/-- Reads an image; `seg` gives the code segment of an extent of it. A portable image takes the digest of its bytes as PDIG. -/
def parseImage (bs : List Byte) (seg : Nat → Nat → Segment) : Option Image :=
  if !imageOk bs then none
  else
    let t := bs.drop 256
    let port := fieldAt bs 6 1 == 1
    some
      { portable := port, copyDriven := fieldAt t 2 1 % 2 == 1, mrfReq := fieldAt t 3 1, accReq := fieldAt t 4 2,
        spadReq := fieldAt t 8 4, tokq := (List.range 16).map fun q => BitVec.ofNat 16 (fieldAt t (16 + 2 * q) 2)
        bankf := (List.range 24).map fun b => BitVec.ofNat 32 (fieldAt t (48 + 4 * b) 4)
        specimen := BitVec.ofNat 128 (fieldAt bs 8 16), die := fieldAt bs 24 1, cls := fieldAt bs 25 1,
        mapVer := fieldAt bs 28 4, mapDig := BitVec.ofNat 384 (fieldAt bs 32 48),
        pdig := if port then sha384 bs else BitVec.ofNat 384 (fieldAt bs 80 48)
        variant := fieldAt bs 128 2, use := BitVec.ofNat 32 (fieldAt bs 132 4)
        alat := (List.range 16).map fun c => fieldAt bs (136 + 2 * c) 2
        live := BitVec.ofNat 24 (fieldAt bs 168 3), entry := (List.range 4).map fun s => fieldAt bs (176 + 4 * s) 4
        segs := (List.range 4).map fun s => seg (fieldAt bs (192 + 8 * s) 4) (fieldAt bs (196 + 8 * s) 4)
        safe := (List.range (fieldAt bs 130 2)).map fun i =>
          (List.range 4).map fun s => fieldAt bs (fieldAt bs 224 4 + 16 * i + 4 * s) 4 }

/-- The segments of an image that lies at an offset of bytes read from virtual memory (R124, R323). -/
def pagedSeg (pages : List Nat) (va : Nat) (bs : List Byte) (off len : Nat) : Segment :=
  ⟨pages, none, va % 65536 + off, len, (bs.drop off).take len⟩

/-- The segments of an image of the cache. -/
def cachedSeg (entry : Nat) (bs : List Byte) (off len : Nat) : Segment := ⟨[], some entry, off, len, (bs.drop off).take len⟩

/-- Whether a header's requests lie within the device (R153, R378). -/
def Image.fits (g : Image) : Bool := decide (g.mrfReq ≤ 32 ∧ g.accReq ≤ 2048 ∧ g.spadReq ≤ 0x300000)

/-! Acceptance (R326). -/

/-- Conditions 4 and 5 of R326 on a core, between the map in force and the built-for one. -/
def unitsKept (g : Image) (now was : CoreMap) : Bool :=
  ((List.range 18).all fun b => !g.use.getLsbD b ||
    ((if b < 14 then slotWorks now (b + 1) && slotWorks was (b + 1) && now.ii.getD b 1 == was.ii.getD b 1 else true) &&
      now.weak.contains b == was.weak.contains b)) &&
  now.hop == was.hop && now.badj == was.badj && now.xmax == was.xmax && (g.use.getLsbD 14 || now.delta == was.delta)

/-- Whether the loader accepts an image on core `k` of a die.
Log entry 50 (DEDUCED). -/
def Hub.accepts (h : Hub) (g : Image) (die k : Nat) : Bool :=
  let now := (h.map die).coreMap k
  now.eligible && g.fits &&
    (g.portable ||
      (g.specimen = h.specimen && g.die = die &&
        match h.builtMap die g.mapVer g.mapDig with
        | none => false
        | some m =>
          let was := m.coreMap k
          was.eligible && was.cls = g.cls &&
            ((g.mapVer = (h.map die).version && g.mapDig = (h.map die).digest) || unitsKept g now was)))

/-- CHKCFG's ILOCK bits for an image on a core (R325): used classes that the map makes longer than assumed. -/
def ilockBits (g : Image) (m : CoreMap) : Nat :=
  if g.portable then 0
  else (List.range 16).foldl (fun acc c =>
    let used := g.use.getLsbD (if c = 15 then 19 else c)
    if used && g.alat.getD c 0 < m.latencyOf c then acc + 2 ^ c else acc) 0

/-! Objects and selectors (R327, R328). -/

/-- A variant of an object: where its image lies in the object, and its selector's used terms. -/
structure VariantRec where
  off : Nat
  len : Nat
  terms : List (Nat × Nat × Nat)
  deriving DecidableEq, Repr

/-- A selector term that obeys R327 and R328. -/
def termOk (bs : List Byte) : Bool :=
  if fieldAt bs 0 1 = 0xFF then zerosAt bs 1 7 else decide (fieldAt bs 0 1 ≤ 11 ∧ fieldAt bs 1 1 ≤ 5) && zerosAt bs 2 2

/-- The terms of a selector; none where one is not valid. -/
def parseTerms (bs : List Byte) : Option (List (Nat × Nat × Nat)) :=
  let ts := (List.range 8).map fun i => (bs.drop (8 * i)).take 8
  if !ts.all termOk then none
  else some ((ts.filter fun t => fieldAt t 0 1 != 0xFF).map fun t => (fieldAt t 0 1, fieldAt t 1 1, fieldAt t 4 4))

/-- The variants of an object file; none where it breaks R327 or R328. -/
def parseObject (bs : List Byte) : Option (List VariantRec) :=
  let n := fieldAt bs 6 2
  if !(fieldAt bs 0 4 == 0x4F484347 && fieldAt bs 4 2 == 1 && decide (1 ≤ n ∧ n ≤ 64) && zerosAt bs 8 56 &&
      decide (64 + 88 * n ≤ bs.length)) then none
  else
    (List.range n).mapM fun v =>
      let r := (bs.drop (64 + 88 * v)).take 88
      match parseTerms (r.drop 24) with
      | none => none
      | some ts =>
        if fieldAt r 16 4 + fieldAt r 20 4 ≤ bs.length then some ⟨fieldAt r 16 4, fieldAt r 20 4, ts⟩ else none

/-- The quantities of R328 for a class. -/
def quantity (m : DieMap) (cls q : Nat) : Nat :=
  let ks := m.members cls
  let c := m.coreMap (ks.headD 0)
  let slots (k : SlotClass) : Nat := ((slotsOf k).filter (slotWorks c)).length
  match q with
  | 0 => ks.length
  | 1 => (List.range 21).foldl (fun acc cl => max acc (inCluster ks cl).length) 0
  | 2 => 0x300000
  | 3 => 2048
  | 4 => 32
  | 5 => 16
  | 6 => 192
  | 7 => slots .ma
  | 8 => slots .al
  | 9 => slots .sf
  | 10 => c.prom
  | _ => c.delta

/-- One comparison of a selector. -/
def termHolds (m : DieMap) (cls : Nat) (t : Nat × Nat × Nat) : Bool :=
  let v := quantity m cls t.1
  let k := t.2.2
  match t.2.1 with
  | 0 => v == k
  | 1 => v != k
  | 2 => decide (v < k)
  | 3 => decide (v ≤ k)
  | 4 => decide (k < v)
  | _ => decide (k ≤ v)

/-- The variant of a class: the first whose selector holds and whose header fits, and whether one was passed over (R328). -/
def selectVariant (m : DieMap) (cls : Nat) : List (VariantRec × Image) → Nat → Option Nat × Bool
  | [], _ => (none, false)
  | (v, g) :: rest, i =>
    if v.terms.all (termHolds m cls) then
      if g.fits then (some i, false) else ((selectVariant m cls rest (i + 1)).1, true)
    else selectVariant m cls rest (i + 1)

/-! The cache (R329, R330, R333, R440). -/

/-- The image that the translator makes of a portable one for a class under the map in force. -/
def Hub.translation (h : Hub) (src : List Byte) (variant die cls : Nat) : List Byte :=
  translationOf h.specimen h.firmware die (h.map die) src variant cls

/-- The image of an entry. -/
def CacheImage.image (e : CacheImage) : Option Image := parseImage e.bytes (cachedSeg e.id e.bytes)

/-- The entries of a variant on a die that a function may see, those of the map in force for the class first, then older ones,
the latest first: an older one serves while the loader accepts it (R330, R333). -/
def Hub.cacheFor (h : Hub) (f : Nat) (pdig : BitVec 384) (variant die cls : Nat) : List CacheImage :=
  let mine := h.cache.filter fun e => e.pdig = pdig && e.variant = variant && e.die = die && e.vis.getLsbD f
  let v := (h.map die).version
  (mine.filter fun e => e.version = v && e.cls = cls) ++ (mine.filter fun e => e.version < v).reverse

/-- The native image that the cache gives for cores of a class. -/
def Hub.nativeFor (h : Hub) (f : Nat) (pdig : BitVec 384) (variant die cls : Nat) (ks : List Nat) : Option Image :=
  (h.cacheFor f pdig variant die cls).findSome? fun e =>
    match e.image with
    | some g => if ks.all (h.accepts g die) then some g else none
    | none => none

/-- Whether the cache holds, or the translator is making, the image of the map in force that a function may see. -/
def Hub.hasTranslation (h : Hub) (f : Nat) (pdig : BitVec 384) (variant die cls : Nat) : Bool :=
  (h.cache.any fun e => e.pdig = pdig && e.variant = variant && e.die = die && e.cls = cls &&
    e.version = (h.map die).version && e.vis.getLsbD f) ||
  h.translations.any fun t => t.pdig = pdig && t.variant = variant && t.die = die && t.cls = cls &&
    t.version = (h.map die).version && t.vis.getLsbD f

/-- Starts a translation, unless the key store is erased (R440); `due` is when it will be ready. -/
def Hub.startTranslation (h : Hub) (vis : BitVec 64) (src : List Byte) (pdig : BitVec 384) (variant die cls due : Nat) (again : Bool) : Hub :=
  if h.well.erased then h
  else
    { h with
      translations := h.translations ++ [⟨h.nextId, vis, (h.map die).version, pdig, variant, die, cls, src, due, again⟩]
      nextId := h.nextId + 1 }

/-- Whether a launch waits for a translation: one that replaces an entry which the map in force made the cache drop (R334).
Log entry 49 (DEDUCED). -/
def Hub.awaited (h : Hub) (f : Nat) (pdig : BitVec 384) (variant die cls : Nat) : Bool :=
  h.translations.any fun t => t.again && t.pdig = pdig && t.variant = variant && t.die = die && t.cls = cls &&
    t.version = (h.map die).version && t.vis.getLsbD f

/-- Asks for the translation of a variant for a class, where it is not there yet. -/
def State.wantTranslation (s : State) (f : Nat) (src : List Byte) (pdig : BitVec 384) (variant die cls : Nat) : State :=
  if s.hub.hasTranslation f pdig variant die cls then s
  else
    let t := s.freeTime
    t.2.updHub fun h => h.startTranslation (BitVec.twoPow 64 f) src pdig variant die cls (t.2.tick + 1 + t.1) false

/-- The bytes of the portable image of a variant that the cache kept. -/
def Hub.sourceOf (h : Hub) (pdig : BitVec 384) (variant : Nat) : Option (List Byte) :=
  (h.cache.find? fun e => e.pdig = pdig && e.variant = variant).map (·.src)

end Sys2Proof.Machine
end

