-- ==== Sys2Proof/Machine/Launch.lean ====
section
/-!
DEFINITION. Placing and starting tasks: node decisions, launch, restore and continuation of a core, task completion, the
dispatcher and its pre-emptions (R7, R8, R52, R118, R282, R306, R325, R331 to R335, R376 to R384).
-/

namespace Sys2Proof.Machine

open Sys2Proof

/-! Statuses of commands (R374). -/

def CmdStatus.ok : Nat := 0
def CmdStatus.killed : Nat := 1
def CmdStatus.flushed : Nat := 2
def CmdStatus.mapMismatch : Nat := 3
def CmdStatus.resourceExceeds : Nat := 4
def CmdStatus.noPlacement : Nat := 5
def CmdStatus.badRecord : Nat := 6
def CmdStatus.fault : Nat := 7
def CmdStatus.tableUnsafe : Nat := 8
def CmdStatus.chainBroken : Nat := 9

/-! Cores that may take a task (R311, R379, R425, R434). -/

/-- The number of a cluster in a sounding mask. -/
def maskBit (die cluster : Nat) : Nat := 21 * die + cluster

/-- Whether the dispatcher may place tasks on a cluster; `idle` lets it take one that an idle sounding holds. -/
def Hub.clusterOpen (h : Hub) (idle : Bool) (die cluster : Nat) : Bool :=
  (h.power.unitLevel.getD (2 * cluster + die) none).isSome && !h.well.halted && !h.power.ember &&
    !(h.sounding.opened && h.sounding.todo.contains (maskBit die cluster)) &&
    match h.sounding.cur with
    | some (c, _, window) => c != maskBit die cluster || (idle && !window)
    | none => true

/-- Whether a core is free for a task of a node, by graph and number: it is not kept for another node (R384); `gone` names the graphs' gangs
whose cores count as free. -/
def State.freeCore (s : State) (me : Nat × Nat) (idle : Bool) (gone : List Nat) (die k : Nat) : Bool :=
  s.hub.clusterOpen idle die (k / 8) &&
    (s.hub.kept.all fun x => (x.graph, x.node) = me || !x.cores.contains (coreId die (k / 8) (k % 8))) &&
    match s.coreAt (coreId die (k / 8) (k % 8)) with
    | none => false
    | some c => c.status = .free || c.task.any fun t => gone.contains t.gang

/-- W cores of a list, lowest first, in one cluster when W ≤ 8 (R8, R379). -/
def pickCores (ks : List Nat) (w : Nat) : Option (List Nat) :=
  if 8 < w then (if w ≤ ks.length then some (ks.take w) else none)
  else ((List.range 21).map fun cl => (inCluster ks cl).take w).find? fun l => l.length = w

/-! Node decisions (R377 to R380). -/

/-- A way to run a node: die, class, image, the bytes of the portable image it is, and the cores that accept it. -/
structure Cand where
  die : Nat
  cls : Nat
  img : Image
  src : List Byte
  keys : List Nat
  deriving DecidableEq, Repr

/-- What a node's image reference names: images that break no rule, those of an object with their selectors and their bytes. -/
inductive Loaded where
  | broken
  | native (g : Image)
  | object (vs : List (VariantRec × Image)) (bytes : List (List Byte))

/-- Reads what an image reference names, from its bytes.
Log entry 50 (DEDUCED). -/
def ImageRef.loaded (r : ImageRef) : Loaded :=
  if r.kind = 1 then
    match parseImage r.bytes (pagedSeg r.pages r.va r.bytes) with
    | some g => if g.portable then .broken else .native g
    | none => .broken
  else
    match parseObject r.bytes with
    | none => .broken
    | some vs =>
      let part (v : VariantRec) : List Byte := (r.bytes.drop v.off).take v.len
      match vs.mapM fun v => (parseImage (part v) fun off len => pagedSeg r.pages r.va r.bytes (v.off + off) len).map fun g => (v, g) with
      | none => .broken
      | some gs => if gs.all fun g => g.2.portable then .object gs (vs.map part) else .broken

/-- The classes of a die that a node allows, with their maps. -/
def Hub.nodeClasses (h : Hub) (r : NodeRec) : List (Nat × Nat) :=
  [0, 1].flatMap fun die =>
    if r.diec = 0xFF || r.diec = die then
      ((h.map die).classes.filter fun c => r.classc = 0xFF || r.classc = c).map fun c => (die, c)
    else []

/-- The image a class runs: none where no variant is chosen, and whether one was passed over for its size. -/
def Hub.classImage (h : Hub) (l : Loaded) (r : NodeRec) (die cls : Nat) : Option (Image × List Byte) × Bool :=
  match l with
  | .native g => if g.fits then (some (g, []), false) else (none, true)
  | .object vs bytes =>
    let pick := if r.img.variant = 0xFFFF then selectVariant (h.map die) cls vs 0
      else match vs[r.img.variant]? with
        | some v => if v.2.fits then (some r.img.variant, false) else (none, true)
        | none => (none, false)
    match pick.1 with
    | some i =>
      match vs[i]? with
      | some v => (some ({ v.2 with variant := i }, bytes.getD i []), pick.2)
      | none => (none, pick.2)
    | none => (none, pick.2)
  | .broken => (none, false)

/-- Whether a node's requests exceed the device. -/
def NodeRec.tooLarge (r : NodeRec) : Bool := decide (32 < r.mrfr ∨ 16 < r.tokr ∨ 2048 < r.accr ∨ 0x300000 < r.spadr)

/-- What each class that a node allows would run. -/
def Hub.picks (h : Hub) (r : NodeRec) : List ((Nat × Nat) × (Option (Image × List Byte) × Bool)) :=
  (h.nodeClasses r).map fun dc => (dc, h.classImage r.img.loaded r dc.1 dc.2)

/-- The classes with a chosen variant, and what they run. -/
def Hub.chosen (h : Hub) (r : NodeRec) : List ((Nat × Nat) × (Image × List Byte)) :=
  (h.picks r).filterMap fun x => x.2.1.map fun g => (x.1, g)

/-- Whether a node's image breaks a rule, when its LAUNCH starts: the digest, a format, the variant's number, or ARRAY (R376, R377). -/
def Hub.imageBroken (h : Hub) (r : NodeRec) : Bool :=
  sha384 r.img.bytes != r.img.dig ||
    (match r.img.loaded with
     | .broken => true
     | .object vs _ => r.img.variant != 0xFFFF && decide (vs.length ≤ r.img.variant)
     | .native _ => false) ||
    (h.chosen r).any fun x => x.2.1.copyDriven != r.array

/-- Whether a native image alone requests more than the device has (R378). -/
def Loaded.oversize (l : Loaded) : Bool :=
  match l with
  | .native g => !g.fits
  | _ => false

/-- Decides a node under the maps in force: a status, or the ways to run it in the order of R379. -/
def Hub.decideNode (h : Hub) (r : NodeRec) : Except Nat (List Cand) :=
  let chosen := (h.chosen r).filter fun x => x.2.1.copyDriven = r.array
  if r.img.loaded.oversize then .error CmdStatus.resourceExceeds
  else if chosen = [] then
    .error (if r.tooLarge || (h.picks r).any (fun x => x.2.2) then CmdStatus.resourceExceeds else CmdStatus.mapMismatch)
  else
    let cands : List Cand := chosen.map fun x =>
      { die := x.1.1, cls := x.1.2, img := x.2.1, src := x.2.2,
        keys := ((h.map x.1.1).members x.1.2).filter (h.accepts x.2.1 x.1.1) }
    if cands.any fun c => (pickCores c.keys r.w).isSome then .ok (cands.filter fun c => c.keys ≠ [])
    else if (h.nodeClasses r).any fun dc => (pickCores ((h.map dc.1).members dc.2) r.w).isSome then .error CmdStatus.mapMismatch
    else .error CmdStatus.noPlacement

/-! A task on a core. -/

/-- A queue as a header configures it (R14, R153). -/
def tokOf (v : BitVec 16) : Tok :=
  if v.getLsbD 10 then ⟨true, seqOf (v.toNat / 64 % 4), seqOf (v.toNat / 256 % 4), v.toNat % 64, 0, []⟩ else Tok.none

/-- CHKCFG with the ILOCK bits of an image on a map (R325). -/
def withIlock (chk : Word) (g : Image) (m : CoreMap) : Word :=
  (chk &&& ~~~(BitVec.ofNat 64 (0xFFFF * 2 ^ 16))) ||| BitVec.ofNat 64 (ilockBits g m * 2 ^ 16)

/-- The comparators that a queue gives a sequencer (R421).
Log entry 53 (DEDUCED). -/
def brkOf (b : AMap Comparator) (q : SeqId) : AMap Comparator :=
  (b.filter fun x => x.1 / 8 = seqCode q).map fun x => (x.1 % 8, x.2)

/-- A sequencer at a task's start (R282, R421). -/
def Seq.started (entry : Nat) (arg : Word) (brk : AMap Comparator) : Seq :=
  { Seq.initial with pc := BitVec.ofNat 64 entry, x := AMap.set 0 [] 1 arg, brk := brk }

/-- A core with nothing of the tasks it has had, but for what belongs to the core itself (R7). -/
def Core.fresh (c : Core) : Core :=
  { Core.idle c.die c.cluster c.core with pulse := c.pulse, nextId := c.nextId, errrec := c.errrec, tlb := c.tlb }

/-- A core as a launch leaves it before its set-up (R7, R14, R282, R325). -/
def Core.begin (c : Core) (m : DieMap) (t : Task) (brk : AMap Comparator) : Core :=
  let g := t.image
  let cm := m.coreMap (c.cluster * 8 + c.core)
  let go (i : Nat) : Seq := Seq.started (g.entry.getD i 0) t.argVa (brkOf brk (seqOf i))
  { c.fresh with
    status := .setup 1024, task := some t, ct := go 0, ld := go 1, mx := go 2, st := go 3, map := cm,
    mapver := BitVec.ofNat 64 m.version, coreClass := cm.cls, chkcfg := withIlock 0 g cm,
    tok := (List.range 16).foldl (fun a q => AMap.set Tok.none a q (tokOf (g.tokq.getD q 0))) [],
    bf := (List.range 24).foldl (fun a b => AMap.set 0 a b (g.bankf.getD b 0)) [] }

/-- A saved record on a core that receives it, up to the tick at which the restore is done (R306, R321). -/
def Core.receive (rec_ dst : Core) (m : DieMap) (wheel : List Nat) (till : Nat) (brk : AMap Comparator) : Core :=
  let cm := m.coreMap (dst.cluster * 8 + dst.core)
  let set (q : SeqId) (v : Seq) : Seq := { v with brk := brkOf brk q }
  { rec_ with
    die := dst.die, cluster := dst.cluster, core := dst.core, status := .restoring till, map := cm,
    mapver := BitVec.ofNat 64 m.version, coreClass := cm.cls, tlb := dst.tlb, lost := false, nextId := max rec_.nextId dst.nextId,
    ct := set .ct rec_.ct, ld := set .ld rec_.ld, mx := set .mx rec_.mx, st := set .st rec_.st
    chkcfg := match rec_.task with
      | some t => withIlock rec_.chkcfg t.image cm
      | none => rec_.chkcfg
    task := rec_.task.map fun t => { t with wheel := wheel } }

/-- The safe point at which a record stands: CT just past its SAFEPT, the others ended or at their addresses (R331, R334). -/
def Core.safeOf (c : Core) : Option Nat :=
  match c.task with
  | none => none
  | some t =>
    let at_ (q : Seq) (a : Nat) : Bool := q.ended || q.pc.toNat == a
    t.image.safe.findIdx? fun e =>
      (c.ct.pc.toNat == e.getD 0 0 + 4 || c.ct.pc.toNat == e.getD 0 0) && at_ c.ld (e.getD 1 0) && at_ c.mx (e.getD 2 0) &&
        at_ c.st (e.getD 3 0)

/-- Whether nothing of a core is under way: what R332 calls an empty pipeline, with no access outstanding. -/
def Core.emptied (c : Core) : Bool :=
  c.flight = [] && c.cmds = [] && c.sae = [] && c.done = [] && c.posts = [] && c.arr = [] && c.drives = [] && c.slotRes = [] &&
    c.mwr = [] && c.accWr = [] && c.topk = [] && c.lateReads = [] && c.lateForms = [] && c.stagedDue = []

/-- The task of a core continues in another image from safe point `i` on (R332): CT after its SAFEPT, the others at their new
addresses; banks that LIVE does not name and ACC rows from ACCREQ on are cleared.
Log entry 49 (DEDUCED). -/
def Core.continueIn (c : Core) (g : Image) (m : DieMap) (i till : Nat) : Core :=
  let cm := m.coreMap (c.cluster * 8 + c.core)
  let e := g.safe.getD i []
  let go (q : Seq) (a : Nat) : Seq :=
    if q.ended then q else { q with pc := BitVec.ofNat 64 a, redo := true, waiting := false, brkPass := none, wd := 0 }
  let r := Core.record { c.record with task := c.task.map fun t => { t with image := g, stale := false } }
  { r with
    status := .restoring till, ct := go r.ct (e.getD 0 0 + 4), ld := go r.ld (e.getD 1 0), mx := go r.mx (e.getD 2 0),
    st := go r.st (e.getD 3 0), map := cm, mapver := BitVec.ofNat 64 m.version, coreClass := cm.cls,
    chkcfg := withIlock r.chkcfg g cm, tlb := c.tlb }

/-- The native image that the cache has for the task and class of the core in hand. -/
def State.nativeHere (s : State) : Option Image :=
  let c := s.core
  let k := c.cluster * 8 + c.core
  match c.task with
  | none => none
  | some t => s.hub.nativeFor t.fn t.image.pdig t.image.variant c.die ((s.hub.map c.die).coreMap k).cls [k]

/-! Graphs (R380). -/

/-- Nodes whose predecessors are all done become ready; none does once the graph has failed. -/
def Graph.wake (g : Graph) (tick : Nat) : Graph :=
  if g.status != 0 then g
  else
    { g with nodes := g.nodes.map fun x =>
        if x.state = .waiting && x.rec_.preds.all fun p => (g.nodes[p]?).any fun y => y.state = .done then
          { x with state := .ready, since := tick } else x }

/-- The failure of a node (R380): the first decides the graph's status. -/
def Graph.fail (g : Graph) (n status cause : Nat) : Graph :=
  let g := g.updNode n fun x => { x with state := .failed status }
  if g.status != 0 then g else { g with status := status, cause := cause, failNode := n }

/-- STATUS, CAUSE and NODE of a graph that is over. -/
def Graph.over (g : Graph) : Option (Nat × Nat × Nat) :=
  if g.status = 0 then (if g.nodes.all fun x => x.state = .done then some (0, 0, 0xFFFF) else none)
  else if g.nodes.any fun x => x.state = .running || x.state = .saved then none
  else some (g.status, g.cause, g.failNode)

/-- Every task of a node that ends is counted: with the last the node is done, and where all others of its gang have been saved it waits
to be restored. -/
def Hub.taskEnded (h : Hub) (tick g n : Nat) : Hub :=
  let k := (h.saved.filter fun r => r.graph = g && r.node = n).length
  h.updGraph g fun x =>
    (x.updNode n fun y =>
      let y := { y with ended := y.ended + 1 }
      if y.rec_.w ≤ y.ended then { y with state := .done }
      else if y.state = .running && decide (y.rec_.w ≤ y.ended + k) then { y with state := .saved, since := tick }
      else y).wake tick

/-- A completion event reaches the dispatcher: one with a status other than OK fails its graph (R334, R380). -/
def Hub.taskEvent (h : Hub) (tick : Nat) (e : Ended) : Hub :=
  let h := if e.status = 0 then h
    else h.updGraph e.graph fun g => if g.status != 0 then g else { g with status := e.status, failNode := e.node }
  h.taskEnded tick e.graph e.node

/-- A completion event is raised: the combiner holds it while no queue core acknowledges it, and behind those that it holds (R386). -/
def Hub.raiseEvent (h : Hub) (tick : Nat) (e : Ended) : Hub :=
  if h.takeover.isNone && h.events = [] then h.taskEvent tick e else { h with events := h.events ++ [e] }

/-- The active queue core takes the first event that is held (R387). -/
def Hub.releaseEvent (h : Hub) (tick : Nat) : Hub :=
  match h.events with
  | e :: rest => if h.takeover.isNone then { h with events := rest }.taskEvent tick e else h
  | [] => h

/-- TASK_COMPLETION_EVENT: the core in hand is free and the dispatcher hears of it, or the combiner holds the event while no
queue core acknowledges it (R52, R386). -/
def execTaskCompletionEvent (s : State) : Out :=
  .next (match s.core.task with
    | some t =>
      if s.core.ended && s.core.leaveAt ≤ s.core.pulse && (s.core.status = .running || s.core.status = .halting) then
        (s.updCore Core.vacate).updHub fun h => h.raiseEvent s.tick ⟨t.graph, t.node, CmdStatus.ok⟩
      else s
    | none => s)

/-- A task that cannot go on under the map ends its node with MAP_MISMATCH (R334). -/
def State.endTask (s : State) (status : Nat) : State :=
  match s.core.task with
  | none => s
  | some t => (s.updCore Core.vacate).updHub fun h => h.raiseEvent s.tick ⟨t.graph, t.node, status⟩

/-! Continuations (R331, R332, R334, R335). -/

/-- Whether a variant may run on a class of a die for a node: the class is one that it allows, and its choice there (R334). -/
def Hub.classAllows (h : Hub) (r : NodeRec) (img : Image) (die cls : Nat) : Bool :=
  (h.chosen r).any fun x => x.1 = (die, cls) && x.2.1.pdig = img.pdig && x.2.1.variant = img.variant

/-- The node record of a task. -/
def Hub.nodeOf (h : Hub) (t : Task) : Option NodeRec := (h.graphOf t.graph).bind fun g => (g.nodes[t.node]?).map (·.rec_)

/-- A stale task that has no image to go on in: its translation is asked for; where none can be made, it ends with MAP_MISMATCH. -/
def State.staleWaits (s : State) (t : Task) : State :=
  let c := s.core
  let m := (s.hub.map c.die).coreMap (c.cluster * 8 + c.core)
  let made := s.hub.cache.any fun e => e.pdig = t.image.pdig && e.variant = t.image.variant && e.die = c.die && e.cls = m.cls &&
    e.version = (s.hub.map c.die).version && e.vis.getLsbD t.fn
  let allowed := (s.hub.nodeOf t).any fun r => s.hub.classAllows r t.image c.die m.cls
  if t.src = [] || s.hub.well.erased || !m.eligible || made || !allowed then s.endTask CmdStatus.mapMismatch
  else s.wantTranslation t.fn t.src t.image.pdig t.image.variant c.die m.cls

/-- CONTINUATION_START: a portable task for which there is a native image stops at its safe point, but not after an ERASE, and once its
pipeline is empty it, or a stale task, goes on in the new image (R331, R332, R335, R440). -/
def execContinuationStart (s : State) : Out :=
  .next (match s.core.status, s.core.task with
    | .running, some t =>
      match safeEntry s.core (s.core.ct.pc - 4) with
      | some i =>
        if t.image.portable && !s.hub.well.erased && s.core.safeHolds i && s.nativeHere.isSome then s.updCore fun c => { c with status := .swapping i } else s
      | none => s
    | .swapping i, some t =>
      if !s.core.emptied then s
      else match s.nativeHere with
        | some g =>
          let n := s.freeTime
          n.2.updCore fun c => c.continueIn g (s.hub.map c.die) i (n.2.tick + 1 + n.1)
        | none => if t.stale then s.staleWaits t else s.updCore fun c => { c with status := .running }
    | _, _ => s)

/-! Kills (R291, R380, R385). -/

/-- No node of a killed graph runs or waits any more, and its saved records are dropped. -/
def Hub.settleKill (h : Hub) (k : Nat × Nat × Nat) : Hub :=
  let h := { h with saved := h.saved.filter fun r => r.graph != k.1, events := h.events.filter fun e => e.graph != k.1 }
  h.updGraph k.1 fun g =>
    { g with
      status := CmdStatus.killed, cause := k.2.1, failNode := k.2.2,
      nodes := g.nodes.map fun x => if x.state = .done then x else { x with state := .failed CmdStatus.killed } }

/-! Wheel positions (R118, R376, R420). -/

/-- Positions for arriving requests belong to no core. -/
def wheelReserved (p : Nat) : Bool := p % 64 == 0

/-- `n` free positions, spread evenly over the wheel. -/
def pickWheel (used : List Nat) (n : Nat) : Option (List Nat) :=
  if n = 0 then some []
  else ((List.range 1024).map fun p => (List.range n).map fun i => (p + i * 1024 / n) % 1024).find? fun ps =>
    ps.all fun p => !wheelReserved p && !used.contains p

/-- Positions for each of `w` tasks. -/
def pickWheels (n : Nat) : Nat → List Nat → Option (List (List Nat))
  | 0, _ => some []
  | w + 1, used =>
    match pickWheel used n with
    | none => none
    | some ps => (pickWheels n w (used ++ ps)).map (ps :: ·)

def State.wheelUsed (s : State) : List Nat := s.cores.flatMap fun c => (c.task.map (·.wheel)).getD []

/-! Starting and restoring nodes. -/

/-- The storage an EMBER node keeps in an ember image (R379, R431). -/
def keptBytes (g : Image) : Nat := 131072 * liveBanks g.live + 512 * g.accReq

/-- Kept storage of the nodes that run or are saved. -/
def State.keptNow (s : State) : Nat :=
  let one (t : Option Task) : Nat := match t with
    | some t =>
      let ember := (s.hub.graphOf t.graph).any fun g => (g.nodes[t.node]?).any fun n => n.rec_.ember
      if ember then keptBytes t.image else 0
    | none => 0
  (s.cores.map fun c => one c.task).sum + (s.hub.saved.map fun r => one r.core.task).sum

/-- Whether every test but free cores lets a node start. -/
def State.roomFor (s : State) (r : NodeRec) (g : Image) : Bool :=
  !r.ember || decide (s.keptNow + r.w * keptBytes g ≤ 256 * 2 ^ 20)

/-- Whether a way to run a node has to wait for its translation (R334). -/
def Hub.candWaits (h : Hub) (f : Nat) (c : Cand) : Bool :=
  c.img.portable && h.awaited f c.img.pdig c.img.variant c.die c.cls

/-- The first way to run a node, given by graph and number, for which cores are free. -/
def State.placeNode (s : State) (me : Nat × Nat) (idle : Bool) (gone : List Nat) (f : Nat) (r : NodeRec) (cs : List Cand) : Option (Cand × List Nat) :=
  cs.findSome? fun c =>
    if s.roomFor r c.img && !s.hub.candWaits f c then
      (pickCores (c.keys.filter (s.freeCore me idle gone c.die)) r.w).map fun ks => (c, ks)
    else none

/-- The frame that holds page `i` of an image's extent as its task is launched; a page homed in another package is one whose bytes stay as
the LAUNCH read them.
Log entry 95 (DESIGN CHOICE). -/
def Hub.imagePage (h : Hub) (f : Nat) (r : ImageRef) (i : Nat) : Nat :=
  let va := r.va / 65536 * 65536 + 65536 * i
  match h.homeOf f va with
  | .own =>
    let t := h.walk f va
    if t.present then t.pa + va % pageBytes t.psize else r.pages.getD i pageElsewhere
  | _ => pageElsewhere

/-- The code of a segment as it stands in memory (R105). -/
def Segment.asOf (h : Hub) (pages : List Nat) (g : Segment) : Segment :=
  match g.entry with
  | some _ => g
  | none =>
    let last := g.off + g.len
    let part (i : Nat) : List Byte :=
      let lo := max g.off (65536 * i)
      let n := min last (65536 * (i + 1)) - lo
      let p := pages.getD i pageElsewhere
      if p = pageElsewhere then (g.bytes.drop (lo - g.off)).take n else h.readHbm (p + lo % 65536) n
    { g with pages := pages, bytes := (List.range (ceilDiv last 65536)).flatMap part }

/-- An image as its task's launch finds its code (R105). -/
def Hub.launchImage (h : Hub) (f : Nat) (r : ImageRef) (g : Image) : Image :=
  { g with segs := g.segs.map (Segment.asOf h ((List.range r.pages.length).map (h.imagePage f r))) }

/-- Starts a node on cores (R7, R331, R379): the native image of the cache where there is one, else the portable image, whose
translation is asked for. -/
def State.startNode (s : State) (g : Graph) (n : Nat) (x : Node) (c : Cand) (ks : List Nat) (wheels : List (List Nat)) : State :=
  let native := if c.img.portable then s.hub.nativeFor g.func c.img.pdig c.img.variant c.die c.cls ks else none
  let s := if c.img.portable then s.wantTranslation g.func c.src c.img.pdig c.img.variant c.die c.cls else s
  let img := native.getD (s.hub.launchImage g.func x.rec_.img c.img)
  let gang := s.hub.nextGang
  let one := decide ((ks.map (· / 8)).eraseDups.length = 1)
  let s := (List.range ks.length).foldl (fun s i =>
    let k := ks.getD i 0
    let t : Task :=
      { image := img, argVa := x.rec_.argva, queue := g.queue, graph := g.id, node := n, seqNo := g.seqNo, fn := g.func,
        tenant := g.tenant, rank := i, width := ks.length, oneCluster := one, gang := gang, level := x.level,
        chain := g.chain, wheel := wheels.getD i [], stale := false, src := c.src }
    s.updCoreId (coreId c.die (k / 8) (k % 8)) fun d =>
      d.begin (s.hub.map c.die) t (AMap.get Queue.reset s.hub.queues g.queue).brk) s
  s.updHub fun h =>
    { h.updGraph g.id (fun y => y.updNode n fun y => { y with state := .running, gang := gang, started := s.tick, ended := 0 }) with
      nextGang := gang + 1, kept := h.kept.filter fun k => !(k.graph = g.id && k.node = n)
      journal := h.journal ++ [.node g.id n (ks.map fun k => coreId c.die (k / 8) (k % 8))] }

/-- A node record that waits to be restored, with how it will go on (R306, R334). -/
inductive Restore where
  /-- The cores of one die and class that may take it as it is. -/
  | plain (keys : List Nat)
  /-- As a continuation into another image, or from its entry, on cores of a class. -/
  | moved (img : Image) (keys : List Nat)
  /-- Its variant is being translated for the class of these keys. -/
  | waits (src : List Byte) (pdig : BitVec 384) (variant cls : Nat)
  /-- Nothing can run it. -/
  | never

/-- How a saved record of a node can go on, in the classes of its die in order: as it is in its class while the map is the same, or
where its image is accepted; else in a re-translation of its variant, on a class that the node and the selector allow. -/
def Hub.restoreWays (h : Hub) (x : NodeRec) (r : Core) : List Restore :=
  match r.task with
  | none => []
  | some t =>
    let m := h.map r.die
    let classes := m.classes.filter fun c => (pickCores (m.members c) x.w).isSome && (h.nodeClasses x).contains (r.die, c)
    let same := r.mapver.toNat % 2 ^ 32 = m.version
    classes.map fun c =>
      let ks := m.members c
      if same then (if c = r.coreClass then .plain ks else .never)
      else if ks.all (h.accepts t.image r.die) then .plain ks
      else if t.src = [] || !h.classAllows x t.image r.die c then .never
      else match h.nativeFor t.fn t.image.pdig t.image.variant r.die c ks with
        | some g => .moved g ks
        | none => if h.well.erased then .never else .waits t.src t.image.pdig t.image.variant c

/-- One record restored on a core. -/
def Core.restoreAs (rec_ dst : Core) (m : DieMap) (img : Option Image) (wheel : List Nat) (till : Nat)
    (brk : AMap Comparator) : Core :=
  match img with
  | none => rec_.receive dst m wheel till brk
  | some g =>
    match rec_.safeOf with
    | some i => (rec_.receive dst m wheel till brk).continueIn g m i till
    | none =>
      match rec_.task with
      | some t => dst.begin m { t with image := g, wheel := wheel, stale := false } brk
      | none => dst

/-- Tries to restore a saved node whole (R384): the state with it restored, or with its translation asked for.
Log entry 49 (DEDUCED). -/
def State.restoreNode (s : State) (g : Graph) (n : Nat) (x : Node) : State × Bool :=
  let recs := s.hub.saved.filter fun r => r.graph = g.id && r.node = n
  match recs with
  | [] => (s, false)
  | r :: _ =>
    let die := r.core.die
    let ways := s.hub.restoreWays x.rec_ r.core
    let order (a : Core) : Nat := (a.task.map (·.rank)).getD 0
    let cores := (List.range x.rec_.w).filterMap fun i => (recs.map (·.core)).find? fun c => order c = i
    let place (ks : List Nat) : Option (List Nat × List (List Nat)) :=
      match pickCores (ks.filter (s.freeCore (g.id, n) false [] die)) x.rec_.w, pickWheels x.rec_.wheel x.rec_.w s.wheelUsed with
      | some ks, some ws => some (ks, ws)
      | _, _ => none
    let go (img : Option Image) (ks : List Nat) (ws : List (List Nat)) : State :=
      let busy := s.savers die + cores.length
      let s := (List.range cores.length).foldl (fun s i =>
        match cores[i]? with
        | some rec_ =>
          let k := ks.getD i 0
          s.updCoreId (coreId die (k / 8) (k % 8)) fun d =>
            rec_.restoreAs d (s.hub.map die) img (ws.getD i []) (s.tick + saveTicks rec_.recordBytes busy)
              (AMap.get Queue.reset s.hub.queues g.queue).brk
        | none => s) s
      s.updHub fun h =>
        { h.updGraph g.id (fun y => y.updNode n fun y => { y with state := .running, started := s.tick }) with
          saved := h.saved.filter fun r => !(r.graph = g.id && r.node = n), kept := h.kept.filter fun k => !(k.graph = g.id && k.node = n)
          journal := h.journal ++ [.node g.id n (ks.map fun k => coreId die (k / 8) (k % 8))] }
    let placed := ways.findSome? fun w => match w with
      | .plain ks => (place ks).map fun p => go none p.1 p.2
      | .moved img ks => (place ks).map fun p => go (some img) p.1 p.2
      | _ => none
    match placed with
    | some s => (s, true)
    | none =>
      let hopeless := ways.all fun w => match w with
        | .never => true
        | _ => false
      if hopeless then
        (s.updHub fun h =>
          { h.updGraph g.id (fun y => y.fail n CmdStatus.mapMismatch 0) with
            saved := h.saved.filter fun r => !(r.graph = g.id && r.node = n) }, false)
      else
        (ways.foldl (fun s w => match w with
          | .waits src pdig variant cls => s.wantTranslation g.func src pdig variant die cls
          | _ => s) s, false)

/-- Gives up an idle sounding of the cluster of a core (R434). -/
def Hub.giveUpSounding (h : Hub) (die : Nat) (ks : List Nat) : Hub :=
  match h.sounding.cur with
  | some (c, _, false) =>
    if ks.any fun k => maskBit die (k / 8) = c then { h with sounding := { h.sounding with cur := none } } else h
  | _ => h

/-- Tries to start or restore a node: the state afterwards, and whether it started. -/
def State.tryNode (s : State) (g : Graph) (n : Nat) (x : Node) : State × Bool :=
  if x.state = .saved then s.restoreNode g n x
  else match s.hub.decideNode x.rec_ with
    | .error st => (s.updHub fun h => h.updGraph g.id fun y => y.fail n st 0, false)
    | .ok cs =>
      match s.placeNode (g.id, n) false [] g.func x.rec_ cs, pickWheels x.rec_.wheel x.rec_.w s.wheelUsed with
      | some p, some ws => (s.startNode g n x p.1 p.2 ws, true)
      | none, some ws =>
        match s.placeNode (g.id, n) true [] g.func x.rec_ cs with
        | some p => ((s.updHub fun h => h.giveUpSounding p.1.die p.2).startNode g n x p.1 p.2 ws, true)
        | none => (s, false)
      | _, none => (s, false)

/-! The dispatcher (R382 to R384). -/

/-- Nodes of a queue that can start at a level, in order: by graph, then index. `saved` picks the restores. -/
def Hub.readyAt (h : Hub) (q level : Nat) (saved : Bool) : List (Nat × Nat) :=
  (h.graphs.filter fun g => g.queue = q && g.status = 0 || g.queue = q && saved && g.status != CmdStatus.killed).flatMap fun g =>
    ((List.range g.nodes.length).filter fun i => (g.nodes[i]?).any fun x =>
      x.level = level && (if saved then x.state = .saved else x.state = .ready)).map fun i => (g.id, i)

/-- Visits one queue: starts at most WEIGHT of its nodes. -/
def State.visitQueue (s : State) (nodes : List (Nat × Nat)) (weight : Nat) : Nat → State × Nat
  | started =>
    match nodes with
    | [] => (s, started)
    | (gid, n) :: rest =>
      if weight ≤ started then (s, started)
      else match s.hub.graphOf gid with
        | none => State.visitQueue s rest weight started
        | some g =>
          match g.nodes[n]? with
          | none => State.visitQueue s rest weight started
          | some x =>
            if x.state = .ready && g.status ≠ 0 then State.visitQueue s rest weight started
            else
              let r := s.tryNode g n x
              State.visitQueue r.1 rest weight (if r.2 then started + 1 else started)

/-- The queues with a node to start at a level, in round order. -/
def Hub.roundOrder (h : Hub) (level : Nat) (saved : Bool) : List Nat :=
  let qs := (List.range 1024).filter fun q => (h.graphs.any fun g => g.queue = q) && h.readyAt q level saved != []
  let last := h.round.getD level 0
  (qs.filter fun q => last < q) ++ qs.filter fun q => q ≤ last

/-- Visits the queues of a level, restores first. -/
def State.visitLevel (s : State) (level : Nat) : State × Nat :=
  let pass (s : State) (saved : Bool) : State × Nat :=
    (s.hub.roundOrder level saved).foldl (fun acc q =>
      let s := acc.1.updHub fun h => { h with round := h.round.set level q }
      let r := s.visitQueue (s.hub.readyAt q level saved) (AMap.get Queue.reset s.hub.queues q).weight 0
      (r.1, acc.2 + r.2)) (s, 0)
  let a := pass s true
  let b := pass a.1 false
  (b.1, a.2 + b.2)

/-- One walk down the levels until some node starts. -/
def State.visitLevels (s : State) : List Nat → State × Nat
  | [] => (s, 0)
  | l :: rest =>
    let r := s.visitLevel l
    if r.2 = 0 then State.visitLevels r.1 rest else r

/-- The loop of R382. -/
def State.dispatchLoop : Nat → State → State
  | 0, s => s
  | n + 1, s =>
    let r := s.visitLevels [0, 1, 2, 3]
    if r.2 = 0 then r.1 else State.dispatchLoop n r.1

/-- Nodes that can start.
Log entry 30 (DEDUCED). -/
def Hub.startable (h : Hub) : Nat :=
  (h.graphs.map fun g => (g.nodes.filter fun x => x.state = .ready || x.state = .saved).length).sum

/-- A gang that may be pre-empted: its number, level and start (R384). -/
structure Victim where
  gang : Nat
  level : Nat
  started : Nat
  deriving DecidableEq, Repr

/-- The gangs that may be pre-empted, the lowest priority first and the latest start first among equals. -/
def State.victims (s : State) : List Victim :=
  let all := s.hub.graphs.flatMap fun g => (g.nodes.filter fun x => x.state = .running && x.rec_.pre && 1 ≤ x.level).map fun x =>
    (⟨x.gang, x.level, x.started⟩ : Victim)
  let first (a b : Victim) : Bool := decide (b.level < a.level) || (a.level = b.level && decide (b.started ≤ a.started))
  all.foldl (fun acc v => (acc.takeWhile fun a => first a v) ++ v :: acc.dropWhile fun a => first a v) []

/-- Gangs whose cores are already on their way out. -/
def State.leaving (s : State) : List Nat :=
  s.cores.filterMap fun c => match c.status with
    | .halting => c.task.map (·.gang)
    | .halted => c.task.map (·.gang)
    | .saving _ => c.task.map (·.gang)
    | _ => if c.preempt then c.task.map (·.gang) else none

/-- The cores, by number, that a level-0 node would take once some gangs are gone; none where they are not there. -/
def State.plan (s : State) (gone : List Nat) (g : Graph) (n : Nat) (x : Node) : Option (List Nat) :=
  let ids (die : Nat) (ks : List Nat) : List Nat := ks.map fun k => coreId die (k / 8) (k % 8)
  if x.state = .saved then
    match s.hub.saved.find? fun r => r.graph = g.id && r.node = n with
    | none => none
    | some r =>
      let pick (ks : List Nat) : Option (List Nat) :=
        (pickCores (ks.filter (s.freeCore (g.id, n) false gone r.core.die)) x.rec_.w).map (ids r.core.die)
      (s.hub.restoreWays x.rec_ r.core).findSome? fun w => match w with
        | .plain ks => pick ks
        | .moved _ ks => pick ks
        | _ => none
  else match s.hub.decideNode x.rec_ with
    | .ok cs => (s.placeNode (g.id, n) true gone g.func x.rec_ cs).map fun p => ids p.1.die p.2
    | .error _ => none

/-- The gangs to pre-empt for a node, and the cores that it is to have then: none where those leaving are enough or all would not be. -/
def State.makeRoom (s : State) (g : Graph) (n : Nat) (x : Node) : Option (List Nat × Kept) :=
  let gone := s.leaving
  if (s.plan gone g n x).isSome then none
  else
    let vs := (s.victims.map (·.gang)).filter fun v => !gone.contains v
    ((List.range vs.length).map fun i => vs.take (i + 1)).findSome? fun l =>
      (s.plan (gone ++ l) g n x).map fun ks => (l, ⟨g.id, n, ks⟩)

/-- Pre-emption requests for cores, each in the journal (R386). -/
def State.orderPreempts (s : State) (ids : List Nat) : State :=
  { s with
    agenda := s.agenda ++ ids.map fun i => .preemptRequest i
    hub := { s.hub with journal := s.hub.journal ++ ids.map fun i => .preempt i } }

/-- Pre-emption requests for the cores of gangs. -/
def State.preemptGangs (s : State) (gangs : List Nat) : State :=
  s.orderPreempts ((s.cores.filter fun c => c.task.any fun t => gangs.contains t.gang).map Core.id)

/-- The nodes of level 0 that wait for cores: the ready ones of graphs that have not failed, and the saved ones of graphs that were not
killed. -/
def Hub.waiting0 (h : Hub) : List (Graph × Nat × Node) :=
  h.graphs.flatMap fun g => (List.range g.nodes.length).filterMap fun i =>
    match g.nodes[i]? with
    | some x =>
      if x.level = 0 && (x.state = .ready && g.status = 0 || x.state = .saved && g.status != CmdStatus.killed) then some (g, i, x) else none
    | none => none

/-- Cores stay kept for a node while it waits and could be placed on what leaves. -/
def State.holdKept (s : State) : State :=
  s.updHub fun h => { h with kept := h.kept.filter fun k => h.waiting0.any fun w =>
    w.1.id = k.graph && w.2.1 = k.node && (s.plan s.leaving w.1 w.2.1 w.2.2).isSome }

/-- Room for the nodes of level 0 that could not be placed: they start on the cores freed for them (R384).
Log entry 97 (DEDUCED). -/
def State.preemptForLevel0 (s : State) : State :=
  let s := s.holdKept
  match s.hub.waiting0.findSome? fun w => s.makeRoom w.1 w.2.1 w.2.2 with
  | some (l, k) => (s.updHub fun h => { h with kept := h.kept ++ [k] }).preemptGangs l
  | none => s

/-- NODE_START: the dispatcher's loop, and the pre-emptions that level 0 asks for. -/
def execNodeStart (s : State) : Out := .next ((State.dispatchLoop (s.hub.startable + 1) s).preemptForLevel0)

/-- 2 ms in ticks of 0.8 ns (R383). -/
def promotionTicks : Nat := 2500000

/-- NODE_PROMOTION. -/
def execNodePromotion (g n : Nat) (s : State) : Out :=
  .next (s.updHub fun h => h.updGraph g fun x => x.updNode n fun y =>
    if (y.state = .ready || y.state = .saved) && y.level != 0 && y.since + promotionTicks ≤ s.tick then
      { y with level := y.level - 1, since := y.since + promotionTicks }
    else y)

/-! Translations and new maps (R329 to R335). -/

/-- The cores of the class that an entry was made for which still work, under the map in force of its die (R333). -/
def Hub.entryCores (h : Hub) (e : CacheImage) : List Nat :=
  match h.mapOf e.die e.version with
  | none => []
  | some m => (m.members e.cls).filter fun k => ((h.map e.die).coreMap k).eligible

/-- The classes of those cores in the map in force. -/
def Hub.entryClasses (h : Hub) (e : CacheImage) : List Nat := ((h.entryCores e).map fun k => ((h.map e.die).coreMap k).cls).eraseDups

/-- The entries but those of older maps that no task uses and that newer ones serve in the stead of (R333). -/
def State.sweepCache (s : State) : State :=
  let uses (e : CacheImage) (c : Core) : Bool := c.die = e.die && c.task.any fun t =>
    !t.image.portable && t.image.pdig = e.pdig && t.image.variant = e.variant && t.image.mapVer = e.version
  s.updHub fun h =>
    { h with cache := h.cache.filter fun e =>
        e.version = (h.map e.die).version || (s.cores ++ h.saved.map (·.core)).any (uses e) ||
          !(h.entryClasses e).all fun k => h.cache.any fun n =>
            n.pdig = e.pdig && n.variant = e.variant && n.die = e.die && n.cls = k && n.version = (h.map e.die).version }

/-- TRANSLATION_DONE: a second copy of an entry only becomes visible (R330); a translation for a map that is no longer in
force is dropped. -/
def execTranslationDone (n : Nat) (s : State) : Out :=
  .next (match s.hub.translations.find? fun t => t.id = n with
    | none => s
    | some t =>
      let s := s.updHub fun h => { h with translations := h.translations.filter fun x => x.id != n }
      if t.version != (s.hub.map t.die).version || s.hub.well.erased then s
      else
        let bs := s.hub.translation t.src t.variant t.die t.cls
        let same (e : CacheImage) : Bool :=
          e.pdig = t.pdig && e.variant = t.variant && e.die = t.die && e.version = t.version && e.cls = t.cls
        s.updHub fun h =>
          if h.cache.any same then { h with cache := h.cache.map fun e => if same e then { e with vis := e.vis ||| t.vis } else e }
          else
            { h with
              cache := h.cache ++ [⟨h.nextId, t.pdig, t.variant, t.die, t.version, t.cls, t.vis, bs, [], t.src⟩], nextId := h.nextId + 1 })

/-- A task whose image its core's new map rejects is stale (R335). -/
def markStale (h : Hub) (die : Nat) (c : Core) : Core :=
  if c.die != die then c
  else { c with task := c.task.map fun t =>
      if !t.image.portable && !h.accepts t.image die (c.cluster * 8 + c.core) then { t with stale := true } else t }

/-- Whether the map in force rejects an entry on a core of its class that still works (R333, R334). -/
def Hub.rejects (h : Hub) (e : CacheImage) : Bool :=
  match e.image with
  | none => true
  | some g => !(h.entryCores e).all (h.accepts g e.die)

/-- The entry that a translation under way would have replaced. -/
def Translation.entry (t : Translation) : CacheImage := ⟨0, t.pdig, t.variant, t.die, t.version, t.cls, t.vis, [], [], t.src⟩

/-- A new map of a die is in force: entries that it rejects are dropped, and every entry is translated again, in the background where
it stays, and for launches that wait where it goes (R333, R334). -/
def State.retranslate (s : State) (die : Nat) : State :=
  let es := s.hub.cache.filter (·.die = die) ++ (s.hub.translations.filter fun t => t.die = die && t.again).map Translation.entry
  let s' := s.updHub fun h => { h with cache := h.cache.filter fun e => e.die != die || !h.rejects e }
  es.foldl (fun s e =>
    (s.hub.entryClasses e).foldl (fun s c =>
      if s.hub.translations.any fun t => t.pdig = e.pdig && t.variant = e.variant && t.die = die && t.cls = c &&
          t.version = (s.hub.map die).version then s
      else
        let n := s.freeTime
        n.2.updHub fun h => h.startTranslation e.vis e.src e.pdig e.variant die c (n.2.tick + 1 + n.1) (h.rejects e)) s) s'

/-- MAP_INSTALL: the queue core verifies the oldest new record and installs it (R312, R318, R435).
Log entry 45 (DEDUCED). -/
def execMapInstall (s : State) : Out :=
  .next (match s.hub.newMap with
    | [] => s
    | (die, bs) :: rest =>
      let s := s.updHub fun h => { h with newMap := rest }
      match parseMap bs with
      | none => s
      | some r =>
        let old := s.hub.map die
        if !verifies 0 r.digest r.signature || r.specimen != s.hub.specimen || r.die != die ||
            r.map.version ≤ old.version || s.hub.well.erased then s
        else
          let s := s.updHub fun h =>
            let h := { h with oldMaps := h.oldMaps ++ [(die, old)] }
            let h := if die = 0 then { h with map0 := r.map } else { h with map1 := r.map }
            h.updFunc 0 fun f => { f with msix := f.msix ++ [254] }
          let s := s.retranslate die
          { s with core := markStale s.hub die s.core, parked := s.parked.map (markStale s.hub die) })

end Sys2Proof.Machine
end

