-- ==== Sys2Proof/Machine/Queues.lean ====
section
/-!
DEFINITION. The host interface: BAR0 registers, hardware queues, their commands and completion records, and the queue cores'
journal and takeover (R366 to R376, R380, R385 to R388, R393, R394, R410, R414, R418, R421, R434, R436, R439, R441).
-/

namespace Sys2Proof.Machine

open Sys2Proof

/-! Registers (R366, R367, R393, R394). -/

def Hub.queue (h : Hub) (q : Nat) : Queue := AMap.get Queue.reset h.queues q
def Hub.setQueue (h : Hub) (q : Nat) (v : Queue) : Hub := { h with queues := AMap.set Queue.reset h.queues q v }
def Hub.updQueue (h : Hub) (q : Nat) (g : Queue → Queue) : Hub := h.setQueue q (g (h.queue q))

/-- Raises an MSI-X vector of a function. -/
def Hub.raiseMsix (h : Hub) (f v : Nat) : Hub := h.updFunc f fun x => { x with msix := x.msix ++ [v] }

/-- Whether a function's protocol version is agreed (R367). -/
def Func.agreed (v : Func) : Bool := v.agree.getLsbD 16

/-- HPDRV_WRITE: the firmware speaks version 1 only. -/
def execHpdrvWrite (f : Nat) (v : Word) (s : State) : Out :=
  let lo := v.toNat % 2 ^ 16
  let hi := v.toNat / 2 ^ 16 % 2 ^ 16
  .next (s.updHub fun h => h.updFunc f fun x =>
    { x with
      hpdrv := BitVec.ofNat 64 (v.toNat % 2 ^ 32)
      agree := if lo ≤ 1 ∧ 1 ≤ hi then 0x10001 else 0 })

/-- KICK: discarded without an agreed version, with other bits set, or for a queue of another function (R366, R367, R370). -/
def execKick (f : Nat) (v : Word) (s : State) : Out :=
  let q := v.toNat % 1024
  .next (if (s.hub.func f).agreed && v.toNat / 1024 = 0 && (s.hub.queue q).func = f && !s.hub.kicks.contains q then
      s.updHub fun h => { h with kicks := h.kicks ++ [q] }
    else s)

/-- KICK_SERVICE: the bit is cleared, then QTAIL read (R370); the decision is journalled (R386). -/
def execKickService (q : Nat) (s : State) : Out :=
  .next (if !s.hub.kicks.contains q || s.hub.takeover.isSome then s
    else s.updHub fun h =>
      let t := (h.queue q).tail
      { h.updQueue q (fun x => { x with seen := t }) with
        kicks := h.kicks.filter fun x => x != q, journal := h.journal ++ [.kick q t] })

/-- A descriptor's fields (R368), STATE apart, and whether they are within its limits. -/
def readDescriptor (old : Queue) (bs : List Byte) : Queue :=
  { old with
    cbase := fieldAt bs 0 8, cplbase := fieldAt bs 8 8, log2sz := fieldAt bs 16 1, loc := fieldAt bs 17 1, func := fieldAt bs 18 1,
    prio := fieldAt bs 19 1 % 4, weight := fieldAt bs 19 1 / 16, tenant := BitVec.ofNat 20 (fieldAt bs 20 3),
    vec := fieldAt bs 23 1 }

def descriptorOk (bs : List Byte) : Bool :=
  bs.length == 64 && fieldAt bs 0 8 % 64 == 0 && fieldAt bs 8 8 % 16 == 0 && decide (4 ≤ fieldAt bs 16 1 ∧ fieldAt bs 16 1 ≤ 16) &&
    decide (fieldAt bs 17 1 ≤ 3) && decide (fieldAt bs 18 1 ≤ 63) && fieldAt bs 19 1 / 4 % 4 == 0 && decide (1 ≤ fieldAt bs 19 1 / 16) &&
    fieldAt bs 20 3 / 2 ^ 20 == 0 && decide (fieldAt bs 24 1 ≤ 2) && zerosAt bs 25 39

/-- QUEUE_DESCRIPTOR_WRITE: by function 0; while STATE is not 0 only a change of STATE alone counts, and an ember image keeps
every queue at 0 (R368, R433). A queue that is reopened still flushes what was written before (R385). -/
def execQueueDescriptorWrite (f q : Nat) (bs : List Byte) (s : State) : Out :=
  .next (if f ≠ 0 ∨ 1024 ≤ q ∨ !descriptorOk bs then s
    else
      let old := s.hub.queue q
      let new := readDescriptor old bs
      let st := if s.hub.embstat then 0 else fieldAt bs 24 1
      let taken := old.head + if old.cur.isSome then 1 else 0
      let left := if old.state = 2 && st = 1 then (old.tail + 2 ^ 32 - taken) % 2 ^ 32 else old.flush
      if old.state = 0 ∨ new = old then s.updHub fun h => h.setQueue q { new with state := st, flush := left } else s)

/-- The low bits of a value. -/
def low (v : Word) (n : Nat) : Nat := v.toNat % 2 ^ n

/-- A function's own registers that only hold a value. -/
def Hub.writeOwn (h : Hub) (f off : Nat) (v : Word) : Hub :=
  match off with
  | 0x20 => h.updFunc f fun x => { x with s1root := v &&& 0x000FFFFFFFFFF001 }
  | 0x38 => if v.toNat % 32 = 0 then h.updFunc f fun x => { x with frbase := v } else h
  | 0x40 => if 13 ≤ low v 4 then h else h.updFunc f fun x => { x with frctl := v &&& 0x3F }
  | 0x50 => h.updFunc f fun x => { x with frhead := low v 32 }
  | _ =>
    if 0x100 ≤ off ∧ off < 0x120 ∧ off % 8 = 0 then
      h.updFunc f fun x => { x with nonce := x.nonce.take (off - 0x100) ++ wordBytes v.toNat 8 ++ x.nonce.drop (off - 0xF8) }
    else if 0x1000 ≤ off ∧ off < 0x2000 ∧ off % 4 = 0 then
      let q := (off - 0x1000) / 4
      if (h.func f).agreed && (h.queue q).func = f then h.updQueue q fun x => { x with tail := low v 32 } else h
    else h

/-- Whether another context holds a non-zero tenant. -/
def Hub.tenantTaken (h : Hub) (f : Nat) (t : BitVec 20) : Bool :=
  t != 0 && (List.range 64).any fun g => g != f && (h.func g).tenant = t

/-- The context registers that function 0 writes (R394).
Log entry 52 (DEDUCED). -/
def Hub.writeContext (h : Hub) (f off : Nat) (v : Word) : Hub :=
  match off with
  | 0x00 => h.updFunc f fun x => { x with s2root := v &&& 0x000FFFFFFFFF0001 }
  | 0x18 =>
    let t := BitVec.ofNat 20 v.toNat
    if v.toNat / 2 ^ 21 % 2 ^ 8 = 0 ∨ h.tenantTaken f t then h
    else h.updFunc f fun x => { x with tenant := t, migen := v.getLsbD 20, migthr := v.toNat / 2 ^ 21 % 2 ^ 8 }
  | 0x28 => if v.toNat % 16 = 0 then h.updFunc f fun x => { x with dirbase := v } else h
  | 0x30 => if 16384 < low v 15 then h else h.updFunc f fun x => { x with dircnt := low v 15 }
  | _ => h

/-- A half of a path table entry (R410). -/
def setHalf (old : BitVec 128) (high : Bool) (v : Word) : BitVec 128 :=
  if high then (old &&& 0xFFFFFFFFFFFFFFFF) ||| ((v.setWidth 128 &&& 0x1FFFFF) <<< 64)
  else (old >>> 64 <<< 64) ||| v.setWidth 128

/-- The package registers that function 0 writes. -/
def Hub.writePackage (h : Hub) (off : Nat) (v : Word) : Hub :=
  match off with
  | 0x16010 => { h with ptsel := low v 12 }
  | 0x16018 => let k := h.ptsel % 1024 * 4 + h.ptsel / 1024; { h with paths := AMap.set 0 h.paths k (setHalf (AMap.get 0 h.paths k) false v) }
  | 0x16020 => let k := h.ptsel % 1024 * 4 + h.ptsel / 1024; { h with paths := AMap.set 0 h.paths k (setHalf (AMap.get 0 h.paths k) true v) }
  | 0x16030 => { h with mcsel := low v 12 }
  | 0x16050 => if 1 ≤ low v 14 ∧ low v 14 ≤ 10000 then { h with fto := low v 14 } else h
  | 0x16058 => { h with brksel := low v 15 }
  | 0x16060 =>
    let n := h.brksel / 1024 % 4 * 8 + h.brksel / 4096 % 8
    h.updQueue (h.brksel % 1024) fun x =>
      { x with brk := AMap.set ⟨false, 0⟩ x.brk n ⟨v.getLsbD 0, BitVec.ofNat 64 (low v 32 / 4 * 4)⟩ }
  | 0x16090 => { h with sounding := { h.sounding with mask := low v 42 } }
  | 0x160B0 => { h with sounding := { h.sounding with idle := low v 32 } }
  | 0x160D8 => if v.toNat % 4096 = 0 then { h with ckpt := { h.ckpt with dst := v } } else h
  | 0x16270 => { h with well := { h.well with alarms := h.well.alarms &&& ~~~(BitVec.ofNat 5 v.toNat) } }
  | _ => h

/-- REGISTER_WRITE: a BAR0 register that only holds its value. A virtual function sees nothing above 0x3FFF (R366). -/
def execRegisterWrite (f off : Nat) (v : Word) (s : State) : Out :=
  .next (s.updHub fun h =>
    if off < 0x4000 then h.writeOwn f off v
    else if f ≠ 0 then h
    else if 0x15000 ≤ off ∧ off < 0x16000 then h.writeContext ((off - 0x15000) / 64) ((off - 0x15000) % 64) v
    else h.writePackage off v)

/-- ERRSEL_WRITE. -/
def execErrselWrite (v : Word) (s : State) : Out := .next (s.updHub fun h => { h with errsel := BitVec.ofNat 64 (low v 9) })

/-- ERROR_RECORD_CLEAR: bit 63 of the value; the record is that of the core the value selects. -/
def execErrorRecordClear (v : Word) (s : State) : Out :=
  .next (if v.getLsbD 63 then
      (s.updHub fun h => { h with errsel := BitVec.ofNat 64 (low v 9) }).updCoreId (low v 9) fun c => { c with errrec := 0 }
    else s)

/-! Commands (R371, R372). -/

/-- The slot of a command and the address of its completion record. -/
def Queue.slot (q : Queue) (n : Nat) : Nat := n % 2 ^ q.log2sz

/-- Reads a queue's memory: HBM, or the host's. -/
def Hub.readSide (h : Hub) (hbm : Bool) (a n : Nat) : List Byte := if hbm then h.readHbm a n else memRead h.host a n
def Hub.writeSide (h : Hub) (hbm : Bool) (a : Nat) (bs : List Byte) : Hub :=
  if hbm then h.writeHbm a bs []
  else { h with host := memWrite h.host a bs, hostUe := setMarks h.hostUe a bs.length [] }

/-- Whether a queue's memory takes work: the host's does, and HBM once its stack has started (R425). -/
def Hub.sideOpen (h : Hub) (hbm : Bool) (a n : Nat) : Bool := !hbm || h.hbmOpen a n

/-- Marks of a queue's memory. -/
def Hub.sideMarked (h : Hub) (hbm : Bool) (a n : Nat) : Bool := (if hbm then h.readMarks a n else marksIn h.hostUe a n) != []

/-- Whether a command obeys R371: its op, zero bytes and fields. -/
def commandOk (bs : List Byte) : Bool :=
  zerosAt bs 2 6 && decide (fieldAt bs 1 1 ≤ 1) &&
    match fieldAt bs 0 1 with
    | 0 => zerosAt bs 16 48
    | 1 => zerosAt bs 24 40 && fieldAt bs 16 8 % 64 == 0
    | 2 => zerosAt bs 32 32 && fieldAt bs 16 8 % 8 == 0
    | 3 => zerosAt bs 25 39 && decide (fieldAt bs 24 1 ≤ 1) && fieldAt bs 16 8 % 8 == 0
    | 4 => zerosAt bs 21 43 && decide (fieldAt bs 20 1 ≤ 1)
    | 5 => zerosAt bs 25 39 && decide (fieldAt bs 24 1 ≤ 1)
    | _ => false

/-- The command of queue `q` that runs. -/
def Hub.command (h : Hub) (q : Nat) : Option QCmd := (h.queue q).cur
def Hub.setRun (h : Hub) (q : Nat) (r : QRun) : Hub := h.updQueue q fun x => { x with cur := x.cur.map fun c => { c with run := r } }
def Hub.endCommand (h : Hub) (q status cause node : Nat) : Hub := h.setRun q (.over status cause node)

/-- Whether a queue flushes its next command: it is torn down, or was when the command was written (R385). -/
def Queue.flushes (x : Queue) : Bool := x.state = 2 || x.flush != 0

/-- Takes the next command of a queue: a torn-down queue flushes it unread; one that breaks its rule, or whose tenant is not its
context's, completes with BAD_RECORD (R372, R374, R385, R393). -/
def Hub.takeCommand (h : Hub) (q : Nat) : Hub :=
  let x := h.queue q
  let a := x.cbase + 64 * x.slot x.head
  let hbm := x.loc % 2 = 1
  let bs := h.readSide hbm a 64
  let op := if x.flushes then x.op else some (fieldAt bs 0 1)
  let run : QRun :=
    if x.flushes then .over CmdStatus.flushed 0 0xFFFF
    else if h.sideMarked hbm a 64 then .over CmdStatus.fault 0 0xFFFF
    else if !commandOk bs then .over CmdStatus.badRecord 0 0xFFFF
    else if fieldAt bs 0 1 != 0 && x.tenant != (h.func x.func).tenant then .over CmdStatus.badRecord 0 0xFFFF
    else .start
  { h.setQueue q { x with
      cur := some ⟨x.head, if x.flushes then bs.take 16 else bs, run⟩, op := if run = .start || x.flushes then op else none
      flush := x.flush - 1
      seen := if x.flushes then x.tail else x.seen } with
    journal := h.journal ++ [.start q x.head] }

/-- Whether a queue has a command to take.
Log entry 30 (DEDUCED). -/
def Hub.mayTake (h : Hub) (q : Nat) : Bool :=
  let x := h.queue q
  x.cur.isNone && x.state != 0 && (if x.flushes then x.head != x.tail else x.head != x.seen) &&
    h.sideOpen (x.loc % 2 = 1) (x.cbase + 64 * x.slot x.head) 64

/-- The command that stands at its start with a given op. -/
def Hub.starting (h : Hub) (q op : Nat) : Option (List Byte) :=
  match h.command q with
  | some c => if c.run = QRun.start && fieldAt c.bytes 0 1 = op then some c.bytes else none
  | none => none

/-- NOP_COMMAND. -/
def execNopCommand (q : Nat) (s : State) : Out :=
  .next (match s.hub.starting q 0 with
    | some _ => s.updHub fun h => h.endCommand q CmdStatus.ok 0 0xFFFF
    | none => s)

/-! LAUNCH (R375 to R380). -/

/-- Whether a node record obeys R376 at its index. -/
def nodeOk (bs : List Byte) (i : Nat) : Bool :=
  fieldAt bs 0 8 % 64 == 0 && decide (1 ≤ fieldAt bs 16 1 ∧ fieldAt bs 16 1 ≤ 168) &&
    (fieldAt bs 18 1 == 0xFF || decide (fieldAt bs 18 1 ≤ 1)) && decide (fieldAt bs 19 1 < 8) && decide (fieldAt bs 28 1 ≤ 8) &&
    zerosAt bs 29 3 && zerosAt bs 44 20 &&
    (List.range 6).all fun j => fieldAt bs (32 + 2 * j) 2 == 0xFFFF || decide (fieldAt bs (32 + 2 * j) 2 < i)

/-- Whether an image reference obeys R377. -/
def refOk (bs : List Byte) : Bool := decide (fieldAt bs 50 1 ≤ 1) && zerosAt bs 51 1 && fieldAt bs 56 8 / 2 ^ 57 == 0

def parseRef (bs : List Byte) : ImageRef :=
  { dig := BitVec.ofNat 384 (fieldAt bs 0 48), variant := fieldAt bs 48 2, kind := fieldAt bs 50 1, len := fieldAt bs 52 4,
    va := fieldAt bs 56 8, pages := [], bytes := [] }

/-- Reads a node record, its image reference and what that names. -/
def Hub.parseNode (h : Hub) (who f i : Nat) (bs : List Byte) : Except NotRead NodeRec :=
  if !nodeOk bs i then .error (.fails CmdStatus.badRecord none)
  else do
    let r := (← h.readVa who f (fieldAt bs 0 8) 64).2
    if !refOk r then .error (.fails CmdStatus.badRecord none)
    else do
      let ref := parseRef r
      let img ← h.readVa who f ref.va ref.len
      let fl := fieldAt bs 19 1
      let x : NodeRec :=
        { imgref := fieldAt bs 0 8, img := { ref with pages := img.1, bytes := img.2 }, argva := BitVec.ofNat 64 (fieldAt bs 8 8)
          w := fieldAt bs 16 1, classc := fieldAt bs 17 1, diec := fieldAt bs 18 1, array := fl % 2 == 1, pre := fl / 2 % 2 == 1
          ember := fl / 4 % 2 == 1, mrfr := fieldAt bs 20 1, tokr := fieldAt bs 21 1, accr := fieldAt bs 22 2, spadr := fieldAt bs 24 4
          wheel := fieldAt bs 28 1, preds := ((List.range 6).map fun j => fieldAt bs (32 + 2 * j) 2).filter (· != 0xFFFF) }
      if h.imageBroken x then .error (.fails CmdStatus.badRecord none) else .ok x

/-- The first failure of a list of checks, with its index; where there is none, what is still to be waited for. -/
def firstError {α β : Type} (f : Nat → α → Except NotRead β) : Nat → List α → Except (NotRead × Nat) (List β)
  | _, [] => .ok []
  | i, a :: rest =>
    match f i a, firstError f (i + 1) rest with
    | .error (.fails st w), _ => .error (.fails st w, i)
    | _, .error (.fails st w, k) => .error (.fails st w, k)
    | .error (.waits l), .error (.waits m, _) => .error (.waits (l ++ m), i)
    | .error (.waits l), .ok _ => .error (.waits l, i)
    | .ok _, .error (.waits m, k) => .error (.waits m, k)
    | .ok b, .ok l => .ok (b :: l)

/-- The decision on a node, as a check. -/
def Hub.nodeCheck (h : Hub) (r : NodeRec) : Except NotRead (List Cand) :=
  match h.decideNode r with
  | .error st => .error (.fails st none)
  | .ok cs => .ok cs

/-- Reads a launch record and decides every node: the nodes, or why there are none, with NODE. -/
def Hub.readLaunch (h : Hub) (who f va : Nat) : Except (NotRead × Nat) (List NodeRec) :=
  if f ≠ 0 ∧ !(h.func f).s2root.getLsbD 0 then .error (.fails CmdStatus.badRecord none, 0xFFFF)
  else match h.readVa who f va 64 with
    | .error e => .error (e, 0xFFFF)
    | .ok (_, hd) =>
      let n := fieldAt hd 6 2
      if !(fieldAt hd 0 4 == 0x4C484347 && fieldAt hd 4 2 == 1 && decide (1 ≤ n ∧ n ≤ 1024) && zerosAt hd 16 48) then
        .error (.fails CmdStatus.badRecord none, 0xFFFF)
      else match firstError (fun i (a : Nat) => do h.parseNode who f i (← h.readVa who f a 64).2) 0
          ((List.range n).map fun i => va + 64 + 64 * i) with
        | .error e => .error e
        | .ok rs =>
          match firstError (fun _ r => h.nodeCheck r) 0 rs with
          | .error e => .error e
          | .ok _ => .ok rs

/-- A graph of checked nodes: those without predecessors are ready (R380). -/
def newGraph (id q seqNo : Nat) (x : Queue) (prio tick : Nat) (chain : Option ChainCtx) (rs : List NodeRec) : Graph :=
  Graph.wake
    { id := id, queue := q, seqNo := seqNo, func := x.func, tenant := x.tenant, prio := prio, chain := chain,
      nodes := rs.map fun r => ⟨r, .waiting, prio, tick, 0, 0, 0⟩, status := 0, cause := 0, failNode := 0xFFFF } tick

/-- LAUNCH: it starts once what it reads from other packages has come (R371). -/
def execLaunch (q : Nat) (s : State) : Out :=
  .next (match s.hub.starting q 1, s.hub.command q with
    | some bs, some c =>
      let x := s.hub.queue q
      match s.hub.readLaunch q x.func (fieldAt bs 16 8) with
      | .error (.waits l, _) => s.fetch q x.func l
      | .error (.fails st w, n) => (s.reportRead x.func w).updHub fun h => (h.dropFetches q).endCommand q st 0 n
      | .ok rs => s.updHub fun h =>
        { (h.dropFetches q).setRun q (.graph h.nextGraph) with
          graphs := h.graphs ++ [newGraph h.nextGraph q (c.n % 2 ^ 32) x x.prio s.tick none rs], nextGraph := h.nextGraph + 1 }
    | _, _ => s)

/-! WAITOBJ and SETOBJ (R117, R372). -/

/-- Performs a synchronisation operation for a queue's command: at this package's sync unit, or by a request to the object's
home; FAULT where it cannot be reached. -/
def State.queueSync (s : State) (q : Nat) (va : Nat) (k : SyncKind) : State :=
  let x := s.hub.queue q
  let fail : State := s.updHub fun h => h.endCommand q CmdStatus.fault 0 0xFFFF
  if 2 ^ 57 ≤ va then fail
  else match s.hub.homeOf x.func va with
    | .own =>
      let t := s.hub.walk x.func va
      if t.present && t.sync then
        let pa := t.pa + va % pageBytes t.psize
        ((s.updHub fun h => h.setRun q (.sync k pa)).syncArrive
          ⟨.queue q, k, pa, s.hub.pkg, 512, x.func, some (makeHnd s.hub x.func va t), 0⟩).2
      else if t.error then (fail.fault x.func va (faultKind true false) 0 true s.hub.pkg none).2
      else fail
    | .pkg n =>
      let tag := s.requestTag
      (s.request none (s.hub.packet 4 0 n x.tenant va 0 0 (.sync k))).updHub fun h => h.setRun q (.remote tag)
    | _ => fail

/-- WAITOBJ. -/
def execWaitobj (q : Nat) (s : State) : Out :=
  .next (match s.hub.starting q 2 with
    | some bs => s.queueSync q (fieldAt bs 16 8) (.acqG (BitVec.ofNat 64 (fieldAt bs 24 8)))
    | none => s)

/-- SETOBJ with MODE 0. -/
def execSetobjRelI (q : Nat) (s : State) : Out :=
  .next (match s.hub.starting q 3 with
    | some bs => if fieldAt bs 24 1 = 0 then s.queueSync q (fieldAt bs 16 8) .relI else s
    | none => s)

/-- SETOBJ with MODE 1. -/
def execSetobjRelL (q : Nat) (s : State) : Out :=
  .next (match s.hub.starting q 3 with
    | some bs => if fieldAt bs 24 1 = 1 then s.queueSync q (fieldAt bs 16 8) .relL else s
    | none => s)

/-! MARK (R403, R436). -/

/-- Clears MIG and SETTLED of a leaf that lies in HBM at an address. -/
def Hub.clearMig (h : Hub) (entry : Nat) : Hub :=
  let b := (memGet h.hbm (entry + 6)).toNat
  h.writeHbm (entry + 6) [BitVec.ofNat 8 (b % 16)] []

/-- The present leaves below a stage-1 table: their virtual address and place, down from a level. -/
def Hub.leavesOf (h : Hub) (f : Nat) : Nat → Nat → Nat → List (Nat × Nat)
  | n, table, va =>
    (List.range (if n = 0 then 32 else 512)).flatMap fun i =>
      match h.paOf f (table + 8 * i) with
      | .error _ => []
      | .ok pa =>
        let e := h.entryAt pa
        let v := va + i * levelBytes n
        if e % 2 = 0 then []
        else match n with
          | 0 => if e / 2 % 2 = 1 && leafOk e 0 then [(v, pa)] else []
          | k + 1 =>
            if e / 2 % 2 = 1 then (if leafOk e (k + 1) then [(v, pa)] else [])
            else if tableOk e k then h.leavesOf f k (e / 2 ^ 8 % 2 ^ 44 * 2 ^ 8) v else []

/-- Clears MIG and SETTLED of every page of a context homed here (R403). -/
def Hub.clearAllMig (h : Hub) (f : Nat) : Hub :=
  let root := (h.func f).s1root
  if !root.getLsbD 0 then h
  else (h.leavesOf f 4 (root.toNat / 2 ^ 12 % 2 ^ 40 * 2 ^ 12) 0).foldl (fun h x => if h.homeOf f x.1 = .own then h.clearMig x.2 else h) h

/-- MARK: the mark waits to be recorded at every base die, which the copy of the previous one must precede. With CLRMIG no cached copy of a
translation says MIG or SETTLED any more (R403). -/
def execMark (q : Nat) (s : State) : Out :=
  .next (match s.hub.starting q 4 with
    | some bs =>
      if s.hub.ckpt.asked.isSome then s
      else
        let f := (s.hub.queue q).func
        let s := if fieldAt bs 20 1 % 2 = 1 then (s.updHub fun h => h.clearAllMig f).dropCached f .all else s
        let n := fieldAt bs 16 4
        s.updHub fun h =>
          { h.setRun q (.mark n) with ckpt := { h.ckpt with
              asked := some (n, List.range 8)
              marks := (h.ckpt.marks.filter fun m => m.queue != q) ++ [⟨q, (h.queue q).tenant, s.tick, n, false⟩] } }
    | none => s)

/-! Completion (R373). -/

/-- Whether the completion record of a command can be written. -/
def Hub.recordOpen (h : Hub) (q n : Nat) : Bool :=
  let x := h.queue q
  h.sideOpen (x.loc / 2 % 2 = 1) (x.cplbase + 16 * x.slot n) 16

/-- COMPLETION_RECORD_WRITE: the record, QHEAD, then MSI-X; a kill tears the queue down (R385). -/
def execCompletionRecordWrite (q : Nat) (s : State) : Out :=
  .next (match s.hub.command q with
    | some c =>
      match c.run with
      | .over status cause node => if !s.hub.recordOpen q c.n then s else s.updHub fun h =>
        let x := h.queue q
        let bs := [BitVec.ofNat 8 status, BitVec.ofNat 8 cause] ++ wordBytes node 2 ++ wordBytes (c.n % 2 ^ 32) 4 ++
          (c.bytes.drop 8).take 8
        let h := { h with journal := h.journal ++ [Decision.record q c.n status] }
        let h := h.writeSide (x.loc / 2 % 2 = 1) (x.cplbase + 16 * x.slot c.n) bs
        let h := h.updQueue q fun x =>
          { x with head := (x.head + 1) % 2 ^ 32, cur := none, state := if status = CmdStatus.killed then 2 else x.state }
        if fieldAt c.bytes 1 1 % 2 = 1 then h.raiseMsix x.func x.vec else h
      | _ => s
    | none => s)

/-! Takeover (R386, R387). -/

/-- 20 µs in ticks. -/
def takeoverTicks : Nat := 25000

/-- Queues with a journalled kick. -/
def journalKicks (l : List Decision) : List Nat :=
  (l.filterMap fun d => match d with
    | .kick q _ => some q
    | _ => none).eraseDups

/-- QUEUE_CORE_TAKEOVER: the standby is active. Every decision of the journal is in force, so the replay finds nothing missing;
QTAIL is read for every pending or journalled kick, which the journal notes; from then on the held completion events are released. -/
def execQueueCoreTakeover (s : State) : Out :=
  .next (match s.hub.takeover with
    | none => s
    | some _ => s.updHub fun h =>
      let qs := h.kicks ++ journalKicks h.journal
      let h := qs.foldl (fun h q => h.updQueue q fun x => { x with seen := x.tail }) h
      { h with
        kicks := [], takeover := none, active := 1 - h.active, journal := h.journal ++ qs.map fun q => .kick q (h.queue q).tail })

end Sys2Proof.Machine
end

