-- ==== Sys2Proof/Machine/Pages.lean ====
section
/-!
DEFINITION. Invalidations, answers to faults, the edits of the home directory, and the move of a page (R396, R397, R400 to R405).
-/

namespace Sys2Proof.Machine

open Sys2Proof

/-! Edits of the home directory (R400). -/

/-- Records a directory can hold. -/
def dirRoom : Nat := 16384

/-- What a record becomes when one of its pages gets records of its own. -/
def splitRecord (r page : Nat) (new : List Nat) : List Nat :=
  let top := r / 2 ^ 96 * 2 ^ 96
  let below := page - dirPage r
  let above := dirPage r + dirPages r - page - 1
  (if below = 0 then [] else [dirPage r + below * 2 ^ 64 + top]) ++ new ++
    if above = 0 then [] else [page + 1 + above * 2 ^ 64 + top]

/-- The directory with one page homed at a package; none where it would not fit. A page that no record covers is homed here. -/
def Hub.rehomed (h : Hub) (f page home : Nat) : Option (List Nat) :=
  let rs := h.dirList f
  let new := if home = h.pkg then [] else [page + 2 ^ 64 + home * 2 ^ 96]
  let l := if rs.any fun r => dirCovers r page then rs.flatMap fun r => if dirCovers r page then splitRecord r page new else [r]
    else rs.filter (fun r => dirPage r < page) ++ new ++ rs.filter fun r => !(dirPage r < page)
  if l.length ≤ dirRoom then some l else none

/-- Writes a directory back. -/
def Hub.writeDir (h : Hub) (f : Nat) (l : List Nat) : Hub :=
  (h.writeHbm (h.func f).dirbase.toNat (l.flatMap fun r => wordBytes r 16) []).updFunc f fun v => { v with dircnt := l.length }

/-- Rehomes a page, where the directory has room. -/
def Hub.rehome (h : Hub) (f page home : Nat) : Hub :=
  match h.rehomed f page home with
  | some l => h.writeDir f l
  | none => h

/-! Invalidations (R396, R397). -/

/-- The places that an operation in flight reaches. -/
def Flight.places (f : Flight) : List (Loc × Nat) :=
  match f.op with
  | .operand _ _ _ _ l spans => spans.map fun x => (l.advance x.1, x.2)
  | .sync _ l _ _ => [(l, 8)]
  | _ => match f.extent with
    | some (l, n, _) => [(l, n)]
    | none => []

/-- Whether a place shares a byte with one of some extents of HBM. -/
def inExtents (pas : List (Nat × Nat)) (l : Loc) (n : Nat) : Bool :=
  match l with
  | .hbm a => pas.any fun x => decide (x.1 < a + n) && decide (a < x.1 + x.2)
  | _ => false

/-- Accesses of a core in flight that reach extents of HBM. -/
def Core.usersOf (c : Core) (pas : List (Nat × Nat)) : List Nat :=
  (c.flight.filter fun f => f.stage != .done && f.places.any fun x => inExtents pas x.1 x.2).map (·.id) ++
  (c.cmds.filter fun k => (k.srcs ++ k.dests).any fun x => inExtents pas x.1 x.2).map (·.id) ++
  (c.sae.filter fun t => inExtents pas t.target t.extent).map (·.id)

/-- Accesses of a core in flight whose translation, as they latched it, an invalidation covers (R51, R396). A page request is none: it
waits for the driver, who invalidates first (R405). -/
def Core.usersVia (c : Core) (f : Nat) (r : Cover) : List Nat :=
  if !(c.task.any fun t => t.fn = f) then []
  else
    (c.flight.filter fun x => !x.over && (x.hnd.any fun v => r.via v.2) && match x.op with
      | .pgreq .. => false
      | _ => true).map (·.id) ++
    (c.cmds.filter fun k => k.hs.any fun v => r.via v.2).map (·.id) ++ (c.sae.filter fun t => t.hnd.any fun v => r.via v.2).map (·.id)

/-- Operations at the sync unit, but those of cores, whose translation an invalidation covers. -/
def Hub.syncsVia (h : Hub) (f : Nat) (r : Cover) : List SyncWait :=
  h.syncWait.filter fun w => w.func = f && w.via.any r.via && match w.who with
    | .core .. => false
    | _ => true

/-- A core whose handles of covered translations of a context are no longer valid. -/
def Core.forget (c : Core) (f : Nat) (r : Cover) : Core :=
  if c.task.any fun t => t.fn = f then
    { c with hnd := c.hnd.map fun q => if r.hnd q.2 then (q.1, q.2.clearValid) else q }
  else c

/-- Drops the covered translations everywhere. -/
def State.forget (s : State) (f : Nat) (r : Cover) : State :=
  let s := s.dropCached f r
  { s with
    core := s.core.forget f r, parked := s.parked.map fun c => c.forget f r
    hub := { s.hub with saved := s.hub.saved.map fun x => { x with core := x.core.forget f r } } }

/-- Starts an invalidation: translations are dropped at once, and it waits for the accesses that use them. -/
def State.startInval (s : State) (f stage : Nat) (r : Cover) : State :=
  let waits := s.cores.flatMap fun c => (c.usersVia f r).map fun i => (c.id, i)
  (s.forget f r).updHub fun h =>
    { h.updFunc f fun v => if stage = 1 then { v with s1req := (v.s1req + 1) % 2 ^ 32 } else { v with s2req := (v.s2req + 1) % 2 ^ 32 } with
      invals := h.invals ++ [⟨h.nextId, f, stage, waits, h.syncsVia f r⟩], nextId := h.nextId + 1 }

/-- The page that an invalidation's value names: none where the write is to be discarded. -/
def invPage (v : Word) (top : Nat) : Option (Nat × Nat) :=
  let w := v.toNat
  let n := pageBytes (w / 2 % 4)
  if w / 2 % 4 = 3 || w / 8 % 2 ^ 13 != 0 || w / 2 ^ top != 0 || w / 2 ^ 16 * 2 ^ 16 % n != 0 then none else some (w / 2 ^ 16 * 2 ^ 16, n)

/-- S1INV_PAGE. -/
def execS1invPage (f : Nat) (v : Word) (s : State) : Out :=
  .next (match invPage v 57 with
    | some (a, n) => if v.getLsbD 0 then s else s.startInval f 1 (.va a n)
    | none => s)

/-- S1INV_ALL. -/
def execS1invAll (f : Nat) (v : Word) (s : State) : Out :=
  .next (if v.getLsbD 0 && (invPage v 57).isSome then s.startInval f 1 .all else s)

/-- S2INV_PAGE, for the context `f`. -/
def execS2invPage (f : Nat) (v : Word) (s : State) : Out :=
  .next (match invPage v 52 with
    | some (a, n) => if v.getLsbD 0 then s else s.startInval f 2 (.ipa a n)
    | none => s)

/-- S2INV_ALL. -/
def execS2invAll (f : Nat) (v : Word) (s : State) : Out :=
  .next (if v.getLsbD 0 && (invPage v 52).isSome then s.startInval f 2 .all else s)

/-- Whether an access that an invalidation waits for is still on its way. -/
def State.stillOut (s : State) (w : Nat × Nat) : Bool :=
  match s.coreAt w.1 with
    | some c => (c.flight.any fun f => f.id = w.2 && !f.over) || (c.cmds.any fun k => k.id = w.2) || c.sae.any fun t => t.id = w.2
    | none => false

/-- Whether an invalidation may complete: it is the oldest of its kind, and nothing it waits for is on its way.
Log entry 39 (DEDUCED). -/
def State.invalReady (s : State) (i : Inval) : Bool :=
  (s.hub.invals.find? fun j => j.func = i.func && j.stage = i.stage) = some i && (i.waits.all fun w => !s.stillOut w) &&
    i.syncs.all fun w => !(s.hub.syncWait.contains w && s.awaits w)

/-- INVALIDATION_COMPLETE. -/
def execInvalidationComplete (n : Nat) (s : State) : Out :=
  .next (match s.hub.invals.find? fun i => i.id = n with
    | some i =>
      if s.invalReady i then s.updHub fun h =>
        { h.updFunc i.func fun v =>
            if i.stage = 1 then { v with s1done := (v.s1done + 1) % 2 ^ 32 } else { v with s2done := (v.s2done + 1) % 2 ^ 32 } with
          invals := h.invals.filter fun j => j.id != n }
      else s
    | none => s)

/-! Answers to faults (R405). -/

/-- A page request that is resolved or refused at the home. -/
def State.answerHolder (s : State) (tenant : BitVec 20) (ok : Bool) (w : Holder) : State :=
  match w with
  | .core d cl k id => s.updCoreId (coreId d cl k) fun c =>
      c.updFlight id fun f => if f.stage = .away then { f with stage := if ok then .done else .refused, due := c.pulse } else f
  | .remote pkg tag va => s.updHub fun h =>
      h.send { h.answerPacket pkg tenant va 0 (if ok then .none else .retry 0 h.pkg) with tag := tag, status := if ok then 0 else 1 }

/-- Closes a function's fault record. -/
def State.resolveFault (s : State) (f : Nat) (v : Word) (ok : Bool) : State :=
  if v.toNat / 2 ^ 33 ≠ 0 then s
  else match s.hub.faults.find? fun r => r.func = f && r.token = low v 32 with
    | none => s
    | some r =>
      let s := s.updHub fun h => { h with faults := h.faults.filter fun q => q.token != r.token }
      let s := if ok then s.refillHandles else s
      r.holders.foldl (fun s w => s.answerHolder r.tenant ok w) s

/-- FRESOLVE_RESOLVE. -/
def execFresolveResolve (f : Nat) (v : Word) (s : State) : Out := .next (if v.getLsbD 32 then s else s.resolveFault f v true)

/-- FRESOLVE_REFUSE. -/
def execFresolveRefuse (f : Nat) (v : Word) (s : State) : Out := .next (if v.getLsbD 32 then s.resolveFault f v false else s)

/-! The pool, and MIGCLR (R393, R403). -/

/-- MIGPOOL_WRITE. -/
def execMigpoolWrite (f : Nat) (v : Word) (s : State) : Out :=
  .next (if v.toNat % 2 ^ 16 = 0 ∧ v.toNat / 2 ^ 52 = 0 then
      s.updHub fun h => h.updFunc f fun x => if x.pool.length < 4096 then { x with pool := x.pool ++ [v.toNat] } else x
    else s)

/-- The place of the 64 KiB leaf of a page that is there; none where stage 1 is off or has no such leaf. -/
def Hub.pageLeaf (h : Hub) (f va : Nat) : Option Nat :=
  if !(h.func f).s1root.getLsbD 0 || !(h.walk f va).present then none
  else match h.stage1 f va with
    | .leaf _ 0 addr => (h.paOf f addr).toOption
    | _ => none

/-- MIGCLR_PAGE, for the context `f`: no cached copy of the translation says MIG or SETTLED any more. -/
def execMigclrPage (f : Nat) (v : Word) (s : State) : Out :=
  let va := v.toNat / 2 ^ 16 % 2 ^ 41 * 2 ^ 16
  .next (if v.getLsbD 0 then s
    else
      let x := s.hub.walk f va
      match s.hub.paOf f x.entry with
      | .ok pa =>
        if x.present && (s.hub.func f).s1root.getLsbD 0 && s.hub.homeOf f va = .own then
          (s.updHub fun h => h.clearMig pa).dropCached f (.va va 65536)
        else s
      | .error _ => s)

/-- MIGCLR_ALL. -/
def execMigclrAll (f : Nat) (v : Word) (s : State) : Out :=
  .next (if v.getLsbD 0 then (s.updHub fun h => h.clearAllMig f).dropCached f .all else s)

/-! Packets to this package, as events (R407). -/

/-- The event of a packet that this package receives. -/
def Packet.event (p : Packet) : Option Instr :=
  match p.kind.toNat with
  | 1 => some (.read p)
  | 2 => some (.write p)
  | 3 => some (.answer p)
  | 4 => some (.sync p)
  | 5 => some (.ordered p)
  | 6 => some (.fsigPacket p)
  | 7 => some (.pgreqPacket p)
  | 8 => match p.body with
    | .hello .. => some (.hello p)
    | .payload .. => some (.chainPayloadLanded p)
    | .slotFree .. => some (.slotFree p)
    | _ => none
  | 9 => some (.mcwrite p)
  | 10 => some (.migrate p)
  | 11 => some (.mgmt p)
  | _ => none

/-- Hands packets to their events. -/
def State.receive (s : State) (ps : List Packet) : State := { s with agenda := s.agenda ++ ps.filterMap Packet.event }

/-! The move of a page (R401, R402). -/

/-- The one context of a tenant; the local tenant has none (R398). -/
def Hub.contextOf (h : Hub) (t : BitVec 20) : Option Nat :=
  if t = 0 then none else (List.range 64).find? fun f => (h.func f).tenant = t

/-- Starts to move a page to a package. -/
def State.startMove (s : State) (f va pa dest : Nat) : State :=
  let t := s.freeTime
  let marks := t.2.cores.foldl (fun m c => AMap.set 0 m c.id c.nextId) []
  t.2.updHub fun h =>
    { h with
      migrations := h.migrations ++ [⟨h.nextId, f, va / 65536 * 65536, pa / 65536 * 65536, dest, t.2.tick + 1 + t.1, none, [], marks⟩]
      nextId := h.nextId + 1 }

/-- The move of a page of a context. -/
def Hub.moving (h : Hub) (f va : Nat) : Option Migration := h.migrations.find? fun m => m.func = f && m.va = va / 65536 * 65536
def Hub.updMove (h : Hub) (n : Nat) (g : Migration → Migration) : Hub :=
  { h with migrations := h.migrations.map fun m => if m.id = n then g m else m }
def Hub.dropMove (h : Hub) (n : Nat) : Hub := { h with migrations := h.migrations.filter fun m => m.id != n }

/-- Whether accesses to a page that came before its move are still on their way, or streams of the SAE. -/
def State.moveWaits (s : State) (m : Migration) : Bool :=
  (s.cores.any fun c =>
    (c.usersOf [(m.pa, 65536)]).any fun i => decide (i < AMap.get 0 m.marks c.id) || c.sae.any fun t => t.id = i) ||
  s.hub.arrivals.any fun p => p.tenant = (s.hub.func m.func).tenant && p.va / 65536 * 65536 = m.va

/-- PAGE_MIGRATION: the page is copied to the new home, in parts that a packet carries, each with the leaf's PERM and MIG (R402). A
page that is no longer there moves nowhere.
Log entry 38 (DEDUCED); log entry 89 (DESIGN CHOICE). -/
def execPageMigration (n : Nat) (s : State) : Out :=
  .next (match s.hub.migrations.find? fun m => m.id = n with
    | none => s
    | some m =>
      if m.tags.isSome || s.tick < m.due || s.moveWaits m then s
      else
        match s.hub.pageLeaf m.func m.va with
        | none => (s.updHub fun h => h.dropMove n).receive m.held
        | some pa =>
          let e := s.hub.entryAt pa
          let sent := (List.range (65536 / packetBytes)).foldl (fun (acc : State × List Nat) i =>
            let a := packetBytes * i
            let body := Body.page (leafPerm e) (e / 2 ^ 52 % 8) (s.hub.readHbm (m.pa + a) packetBytes) (s.hub.readMarks (m.pa + a) packetBytes)
            (acc.1.request none (s.hub.packet 10 0 m.dest (s.hub.func m.func).tenant (m.va + a) packetBytes 0 body),
              acc.2 ++ [acc.1.requestTag])) (s, [])
          sent.1.updHub fun h => h.updMove n fun m => { m with tags := some sent.2 })

/-- A place in a page that has moved. -/
def Loc.moved (pa va dest : Nat) (l : Loc) : Loc :=
  match l with
  | .hbm a => if pa ≤ a ∧ a < pa + 65536 then .remote (BitVec.ofNat 10 dest) (va + a - pa) else l
  | l => l

/-- An operation of a core that waited for a page now goes to its new home. -/
def Flight.moved (pa va dest pulse : Nat) (f : Flight) : Flight :=
  let go (l : Loc) (op : Loc → Op) : Flight :=
    if Loc.moved pa va dest l = l then f
    else { f with op := op (Loc.moved pa va dest l), stage := .commit, due := if f.stage = .commit then f.due else pulse }
  if f.stage = .done then f
  else match f.op with
    | .load d l n t pf ab => go l fun l => .load d l n t pf ab
    | .store l bs => go l fun l => .store l bs
    | .operand a b g r l n => go l fun l => .operand a b g r l n
    | .ordLoad d l n sx => go l fun l => .ordLoad d l n sx
    | .ordStore l bs => go l fun l => .ordStore l bs
    | _ => f

/-- So does a command of its engine. -/
def EngineCmd.moved (pa va dest : Nat) (k : EngineCmd) : EngineCmd :=
  let go := Loc.moved pa va dest
  { k with
    srcs := k.srcs.map fun x => (go x.1, x.2), dests := k.dests.map fun x => (go x.1, x.2)
    writes := k.writes.map fun w => { w with loc := go w.loc }
    kind := match k.kind with
      | .copy a b n d l cv => .copy (go a) (go b) n d l cv
      | .send u a sl n l => .send u (go a) sl n l
      | q => q }

/-- The new home has the page: the old one gives up its leaf, rehomes the page and answers what it held. -/
def State.moveDone (s : State) (m : Migration) : State :=
  let s := match s.hub.pageLeaf m.func m.va with
    | some pa => s.updHub fun h => h.writeHbm pa [memGet h.hbm pa &&& 0xFE] []
    | none => s
  let s := s.forget m.func (.va m.va 65536)
  let go (c : Core) : Core :=
    { c with flight := c.flight.map (Flight.moved m.pa m.va m.dest c.pulse), cmds := c.cmds.map (EngineCmd.moved m.pa m.va m.dest) }
  { s with
    core := go s.core, parked := s.parked.map go
    hub := m.held.foldl (fun h p => h.send (h.answerTo p 2 false (.moved m.dest))) ((s.hub.rehome m.func (m.va / 65536) m.dest).dropMove m.id) }

/-- Nothing moves: what was held is performed here. -/
def State.moveFailed (s : State) (m : Migration) : State := (s.updHub fun h => h.dropMove m.id).receive m.held

/-- The physical address of the level-0 entry for a virtual address, down from a table; none without a level-0 table. -/
def Hub.leafSlot (h : Hub) (f va : Nat) : Nat → Nat → Option Nat
  | 0, table => match h.paOf f (table + 8 * walkIndex va false 0) with
    | .ok pa => some pa
    | .error _ => none
  | k + 1, table => match h.paOf f (table + 8 * walkIndex va false (k + 1)) with
    | .ok pa =>
      let e := h.entryAt pa
      if e % 4 = 1 && tableOk e k then h.leafSlot f va k (e / 2 ^ 8 % 2 ^ 44 * 2 ^ 8) else none
    | .error _ => none

/-- Where a page that arrives can go: its leaf entry, its frame, that frame's physical address, and the directory. -/
def Hub.roomForPage (h : Hub) (f va : Nat) : Option (Nat × Nat × Nat × List Nat) :=
  let root := (h.func f).s1root
  if !root.getLsbD 0 then none
  else match h.leafSlot f va 4 (root.toNat / 2 ^ 12 % 2 ^ 40 * 2 ^ 12), (h.func f).pool, h.rehomed f (va / 65536) h.pkg with
    | some slot, frame :: _, some dir => match h.paOf f frame with
      | .ok pa => some (slot, frame, pa, dir)
      | .error _ => none
    | _, _, _ => none

/-- The leaf of a page that has arrived (R402). -/
def movedLeaf (perm : BitVec 10) (frame mig : Nat) : Nat :=
  3 + perm.toNat * 4 + frame + (mig + 1) * 2 ^ 52 + if mig + 1 = 6 then 2 ^ 55 else 0

/-- A part of a page joins those that came before it, from the page's first on; none where it does not follow them. -/
def Hub.joinPart (h : Hub) (p : Packet) (bs : List Byte) (marks : List Nat) : Option Incoming :=
  let page := p.va / 65536 * 65536
  let before := if p.va = page then some ⟨p.src, p.tenant, page, [], []⟩
    else h.incoming.find? fun w => w.src = p.src && w.tenant = p.tenant && w.va = page && w.bytes.length = p.va - page
  before.map fun w => { w with bytes := w.bytes ++ bs, marks := w.marks ++ marks.map (· + (p.va - page)) }

/-- MIGRATE: a part of a page is kept; with the last the new home installs the page, or denies it, so that nothing moves, and tells its
driver.
Log entry 90 (DESIGN CHOICE). -/
def execMigrate (p : Packet) (s : State) : Out :=
  .next (match p.body, s.hub.contextOf p.tenant with
    | .page perm mig bs marks, some f =>
      match s.hub.joinPart p bs marks with
      | none => s.updHub fun h => h.send (h.answerTo p 3 false .none)
      | some w =>
        let others := s.hub.incoming.filter fun x => !(x.src = w.src && x.tenant = w.tenant && x.va = w.va)
        if w.bytes.length < 65536 then s.updHub fun h => { h with incoming := others ++ [w] }.send (h.answerTo p 0 false .none)
        else match s.hub.roomForPage f w.va with
          | some (slot, frame, pa, dir) => s.updHub fun h =>
            let h := { h with incoming := others }.updFunc f fun v => { v with pool := v.pool.drop 1 }
            let h := ((h.writeHbm pa w.bytes w.marks).writeHbm slot (wordBytes (movedLeaf perm frame mig) 8) []).writeDir f dir
            h.send (h.answerTo p 0 false .none)
          | none =>
            (s.fault f w.va 3 0 false p.src none).2.updHub fun h => { h with incoming := others }.send (h.answerTo p 3 false .none)
    | _, _ => s.updHub fun h => h.send (h.answerTo p 3 false .none))

end Sys2Proof.Machine
end

