-- ==== Sys2Proof/Machine/Home.lean ====
section
/-!
DEFINITION. What a home package does with the requests of others (R276, R398 to R403, R414, R420).
-/

namespace Sys2Proof.Machine

open Sys2Proof

/-! The ingress translator (R398). -/

/-- How the ingress translator answers for an address: another home, a denial, a page that is not there (`true` after a walk
error), or the translation. -/
inductive Ingress where
  | moved (pkg : Nat)
  | denied
  | absent (err : Bool)
  | ok (x : Xl)
  deriving DecidableEq, Repr

/-- The bit of PERM for a path and direction (R391). -/
def permBit (path : BitVec 3) (write : Bool) : Nat := 2 * path.toNat + if write then 1 else 0

/-- The translation of an address with the tables of a context, through the ingress translator's cache. -/
def Hub.ingressXl (h : Hub) (f va : Nat) : Xl × Hub :=
  match cacheHit h.ingress f va with
  | some x => (x, h)
  | none =>
    let x := h.walk f va
    (x, if x.present then { h with ingress := cachePut 16384 h.ingress ⟨f, va / pageBytes x.psize * pageBytes x.psize, x⟩ } else h)

/-- Looks an address up for an access that needs a PERM bit, or none, on a page of type SYNC or not; `mc` for a multicast write. -/
def Hub.lookUp (h : Hub) (f va : Nat) (bit : Option Nat) (sync mc : Bool) : Ingress × Hub :=
  let here : Ingress × Hub :=
    let t := h.ingressXl f va
    if !t.1.present then (.absent t.1.error, t.2)
    else if (bit.all fun b => t.1.perm.getLsbD b) && t.1.sync = sync then (.ok t.1, t.2)
    else (.denied, t.2)
  match h.homeOf f va with
  | .broken => (.denied, h)
  | .pkg n => (.moved n, h)
  | .group _ => if mc then here else (.denied, h)
  | .own => here

/-- Looks every piece of an access up: their physical addresses, or the first failure with its address. -/
def Hub.lookUpAll (h : Hub) (f : Nat) (bit : Nat) (mc : Bool) : List (Nat × Nat) → Except (Ingress × Nat) (List Nat) × Hub
  | [] => (.ok [], h)
  | (va, _) :: rest =>
    match h.lookUp f va (some bit) false mc with
    | (.ok x, h) =>
      let pa := x.pa + va % pageBytes x.psize
      let r := h.lookUpAll f bit mc rest
      (r.1.map (pa :: ·), r.2)
    | (i, h) => (.error (i, va), h)

/-- Answers a request. -/
def State.answerNow (s : State) (p : Packet) (status : BitVec 3) (settled : Bool) (body : Body) : State :=
  s.updHub fun h => h.send (h.answerTo p status settled body)

/-- Answers a request that was not performed; a page that is not there is handed to its driver. -/
def State.refuse (s : State) (p : Packet) (f va : Nat) (write : Bool) (i : Ingress) : State :=
  match i with
  | .moved n => s.answerNow p 2 false (.moved n)
  | .absent err =>
    let t := s.fault f va (faultKind err true) p.path.toNat write p.src none
    t.2.answerNow p 1 false (.retry (t.1.getD 0) s.hub.pkg)
  | _ => s.answerNow p 3 false .none

def State.deny (s : State) (p : Packet) : State := s.answerNow p 3 false .none

/-- Whether a page is settled, as its leaf says now. -/
def Hub.settledNow (h : Hub) (f va : Nat) : Bool := (h.walk f va).settled

/-! Migration counts (R401). -/

/-- Whether a page of a context may move. -/
def Hub.mayMove (h : Hub) (f va : Nat) : Bool :=
  (h.func f).migen && (h.func f).s1root.getLsbD 0 &&
    match h.stage1 f va with
    | .leaf e 0 _ => e / 2 ^ 12 % 2 == 0 && e / 2 ^ 55 % 2 == 0
    | _ => false

/-- Counts an access of a package to a page; the one that reaches the threshold starts the move. -/
def State.countRemote (s : State) (f va pa src : Nat) : State :=
  let page := pa / 65536
  let others := s.hub.migCount.filter fun x => x.2.1 != page
  let n := match s.hub.migCount.find? fun x => x.2.1 = page with
    | some (_, _, pkg, n) => if pkg = src then n + 1 else 1
    | none => 1
  if !s.hub.mayMove f va || src = s.hub.pkg then s.updHub fun h => { h with migCount := others }
  else if (s.hub.func f).migthr ≤ n then (s.updHub fun h => { h with migCount := others }).startMove f va pa src
  else s.updHub fun h => { h with migCount := others ++ [(f, page, src, n)] }

/-! Accesses. -/

/-- The page of an access is on its way to another package: the request is held (R402). -/
def State.holdFor (s : State) (m : Migration) (p : Packet) : State := s.updHub fun h => h.updMove m.id fun m => { m with held := m.held ++ [p] }

/-- The page of one of some addresses that is moving. -/
def Hub.movingAny (h : Hub) (f : Nat) (vas : List Nat) : Option Migration := vas.findSome? (h.moving f)

/-- READ. -/
def execRead (p : Packet) (s : State) : Out :=
  .next (match p.body, s.hub.contextOf p.tenant with
    | .reads l, some f =>
      let ps := l.flatMap fun x => pieces x.1 x.2
      match s.hub.movingAny f (ps.map (·.1)) with
      | some m => s.holdFor m p
      | none =>
        let r := s.hub.lookUpAll f (permBit p.path false) false ps
        let s := { s with hub := r.2 }
        match r.1 with
        | .error (i, va) => s.refuse p f va false i
        | .ok pas =>
          let got := (pas.zip ps).map fun x => (s.hub.readHbm x.1 x.2.2, s.hub.readMarks x.1 x.2.2)
          let all := got.foldl (fun (acc : List Byte × List Nat) x => (acc.1 ++ x.1, acc.2 ++ x.2.map (· + acc.1.length))) ([], [])
          let s := s.answerNow p 0 (s.hub.settledNow f p.va) (.data all.1 all.2)
          match pas, ps with
          | pa :: _, (va, _) :: _ => s.countRemote f va pa p.src
          | _, _ => s
    | _, _ => s.deny p)

/-- Performs a write of another package. -/
def State.writeFor (s : State) (p : Packet) (mc : Bool) : State :=
  match p.body, s.hub.contextOf p.tenant with
  | .writes l, some f =>
    let ws := l.flatMap cutWrite
    match s.hub.movingAny f (ws.map (·.off)) with
    | some m => s.holdFor m p
    | none =>
      let r := s.hub.lookUpAll f (permBit p.path true) mc (ws.map fun w => (w.off, w.bytes.length))
      let s := { s with hub := r.2 }
      match r.1 with
      | .error (i, va) => s.refuse p f va true i
      | .ok pas =>
        let s := s.updHub fun h => (pas.zip ws).foldl (fun h x => h.writeHbm x.1 x.2.bytes x.2.marks) h
        let s := s.answerNow p 0 (s.hub.settledNow f p.va) .none
        match pas, ws with
        | pa :: _, w :: _ => if mc then s else s.countRemote f w.off pa p.src
        | _, _ => s
  | _, _ => s.deny p

/-- WRITE. -/
def execWrite (p : Packet) (s : State) : Out := .next (s.writeFor p false)

/-- MCWRITE: this package's copy of a multicast write. -/
def execMcwrite (p : Packet) (s : State) : Out := .next (s.writeFor p true)

/-- SYNC: the operation is performed as it arrives, or held (R112, R406). One that binds or unbinds a region and may not is
answered without data. -/
def execSync (p : Packet) (s : State) : Out :=
  .next (match p.body, s.hub.contextOf p.tenant with
    | .sync k, some f =>
      match s.hub.lookUp f p.va none true false with
      | (.ok x, h) =>
        let s := { s with hub := h }
        let pa := x.pa + p.va % pageBytes x.psize
        if pa % 8 ≠ 0 then s.deny p
        else
          let t := s.syncArrive ⟨.packet p, k, pa, p.src, 0, f, some (makeHnd h f p.va x), 0⟩
          match t.1 with
          | .done .. => t.2
          | .refused => t.2.answerNow p 0 false .none
          | .waits => t.2.answerNow p 4 false .none
      | (i, h) => { s with hub := h }.refuse p f p.va true i
    | _, _ => s.deny p)

/-- An ordered request takes the wheel's position: it is performed. -/
def State.orderedNow (s : State) (p : Packet) (f : Nat) (write : Bool) (n : Nat) : State :=
  match s.hub.lookUp f p.va (some (permBit 0 write)) false false with
  | (.ok x, h) =>
    let s := { s with hub := h }
    let pa := x.pa + p.va % pageBytes x.psize
    let s := match p.body with
      | .ordStore bs => (s.updHub fun h => h.writeHbm pa bs []).answerNow p 0 (s.hub.settledNow f p.va) .none
      | _ => s.answerNow p 0 (s.hub.settledNow f p.va) (.data (s.hub.readHbm pa n) (s.hub.readMarks pa n))
    s.countRemote f p.va pa p.src
  | (i, h) => { s with hub := h }.refuse p f p.va write i

/-- ORDERED: a request arrives; the first that waits is performed at a reserved position (R420). -/
def execOrdered (p : Packet) (s : State) : Out :=
  .next (match s.hub.contextOf p.tenant with
    | none => s.deny p
    | some f =>
      if s.hub.arrivals.contains p then
        if s.hub.arrivals.head? = some p && wheelReserved (s.tick % 1024) then
          let s := s.updHub fun h => { h with arrivals := h.arrivals.drop 1 }
          match p.body with
          | .ordLoad n => s.orderedNow p f false n
          | .ordStore _ => s.orderedNow p f true 0
          | _ => s.deny p
        else s
      else match s.hub.moving f p.va with
        | some m => s.holdFor m p
        | none => s.updHub fun h => { h with arrivals := h.arrivals ++ [p] })

/-- FSIG_PACKET: refused where the target core runs no task of the tenant (R276). -/
def execFsigPacket (p : Packet) (s : State) : Out :=
  .next (match p.body with
    | .fsig core addr v =>
      if p.tenant = 0 then s.deny p
      else match s.sigWrite core addr v p.tenant with
        | some t => t.answerNow p 0 false .none
        | none => s.deny p
    | _ => s.deny p)

/-- PGREQ_PACKET: a page that is there is answered at once; else the request joins the page's fault record, or is refused
where there can be none (R399, R404). -/
def execPgreqPacket (p : Packet) (s : State) : Out :=
  .next (match s.hub.contextOf p.tenant with
    | none => s.deny p
    | some f =>
      match s.hub.moving f p.va with
      | some m => s.holdFor m p
      | none =>
        match s.hub.lookUp f p.va none (s.hub.walk f p.va).sync false with
        | (.ok _, h) => { s with hub := h }.answerNow p 0 (s.hub.settledNow f p.va) .none
        | (.absent err, h) =>
          let t := { s with hub := h }.fault f p.va (faultKind err true) p.path.toNat false p.src (some (.remote p.src p.tag p.va))
          match t.1 with
          | some _ => t.2
          | none => t.2.answerNow p 1 false (.retry 0 s.hub.pkg)
        | (i, h) => { s with hub := h }.refuse p f p.va false i)

/-- MGMT: the spec states no effect of a management packet. -/
def execMgmt (_ : Packet) (s : State) : Out := .next s

end Sys2Proof.Machine
end

