-- ==== Sys2Proof/Machine/Requester.lean ====
section
/-!
DEFINITION. What a requester does with the answers to its requests, and their time-outs (R121, R122, R228, R248, R273, R278, R399,
R402, R406, R418, R419).
-/

namespace Sys2Proof.Machine

open Sys2Proof

/-! Data that comes in pieces. -/

/-- The bytes of an answer over the extents that were asked for. -/
def spreadData : List (Nat × Nat) → List Byte → List Nat → List Span
  | [], _, _ => []
  | (va, n) :: rest, bs, marks =>
    ⟨va, bs.take n, marks.filter (· < n)⟩ :: spreadData rest (bs.drop n) ((marks.filter (n ≤ ·)).map (· - n))

/-- Bytes from an address on, with those of a piece. -/
def overlay (base : Nat) (data : List Byte) (w : Span) : List Byte :=
  data.mapIdx fun i b => if w.off ≤ base + i ∧ base + i < w.off + w.bytes.length then w.bytes.getD (base + i - w.off) b else b

/-- Marks of the pieces in an extent, from its start. -/
def pieceMarks (ws : List Span) (base n : Nat) : List Nat :=
  ws.flatMap fun w => (w.marks.filter fun m => base ≤ w.off + m && w.off + m < base + n).map (w.off + · - base)

/-- The bytes of an extent, from pieces. -/
def assemble (ws : List Span) (base n : Nat) : List Byte × List Nat :=
  (ws.foldl (overlay base) (List.replicate n 0), pieceMarks ws base n)

/-- What a copy whose source lies in another package writes (R261), burst by burst. -/
def remoteBursts (k : EngineCmd) (ws : List Span) : List ((Loc × Nat) × (Loc × Nat)) → BitVec 32 → List MemWrite
  | [], _ => []
  | ((sl, n), (dl, _)) :: rest, r =>
    let rd := assemble ws sl.space.2 n
    let out := burstOut (endFmt k.bf sl.viaHandle sl.space.2) (endFmt k.bf dl.viaHandle dl.space.2) k.arith r rd.1 rd.2
    ⟨dl, out.1, out.2.1⟩ :: remoteBursts k ws rest out.2.2

/-- The pieces a command has received so far. -/
def EngineCmd.received (k : EngineCmd) : List Span := k.writes.map fun w => ⟨w.loc.addr, w.bytes, w.marks⟩

/-- The source of a command is in hand: what it writes enters the commit buffer. -/
def EngineCmd.sourceDone (k : EngineCmd) (pulse : Nat) : EngineCmd :=
  match k.kind with
  | .send .. =>
    { k with
      stage := .commit, due := pulse + commitDelay
      writes := (k.srcs.zip k.dests).map fun x =>
        let r := assemble k.received x.1.1.space.2 x.1.2
        ⟨.spad x.2.2, r.1, r.2⟩ }
  | _ => { k with stage := .commit, due := pulse + commitDelay, writes := remoteBursts k k.received (k.srcs.zip k.dests) k.seed }

/-! An answer to an operation of a core. -/

/-- Where an operation in flight reads from. -/
def Flight.base (f : Flight) : Nat :=
  match f.op with
  | .operand _ _ _ _ l _ => l.addr
  | _ => match f.places with
    | (l, _) :: _ => l.addr
    | [] => 0

/-- A request of an operation was performed; `more` says that others of it are still out. -/
def Flight.answered (f : Flight) (r : Request) (p : Packet) (more : Bool) (pulse : Nat) : Flight :=
  let f := { f with due := pulse }
  let last := if more then f.stage else .done
  match r.packet.body, p.body with
  | .reads l, .data bs marks =>
    let ws := spreadData l bs marks
    { f with data := ws.foldl (overlay f.base) f.data, marks := f.marks ++ pieceMarks ws f.base f.data.length, stage := last }
  | .sync _, .none => { f with data := [1], stage := .refused }
  | _, .data bs marks => { f with data := bs, marks := marks, stage := last }
  | _, _ => { f with stage := last }

/-- A request of a command of the engine was performed. -/
def EngineCmd.answered (k : EngineCmd) (r : Request) (p : Packet) (more : Bool) (pulse : Nat) : EngineCmd :=
  match r.packet.body, p.body with
  | .reads l, .data bs marks =>
    let k := { k with writes := k.writes ++ (spreadData l bs marks).map fun w => ⟨.remote 0 w.off, w.bytes, w.marks⟩ }
    if more then k else k.sourceDone pulse
  | _, _ => if more then k else { k with stage := .done, due := pulse }

/-- Changes the operation or command of an identity. -/
def Core.updUser (c : Core) (n : Nat) (g : Flight → Flight) (h : EngineCmd → EngineCmd) : Core :=
  { c with
    flight := c.flight.map fun f => if f.id = n && f.stage = .away then g f else f
    cmds := c.cmds.map fun k => if k.id = n && k.stage = .away then h k else k }

/-- Whether more requests of an owner are out. -/
def Hub.moreOf (h : Hub) (o : Owner) : Bool := h.requests.any fun r => r.owner = some o

/-! Requests of the package itself, by tag: a queue's, the chain engine's, a page's. -/

/-- Whether a command or the engine waits for the request with a tag. -/
def QRun.waitsFor (r : QRun) (tag : Nat) : Bool :=
  match r with
  | .remote t => t = tag
  | _ => false

/-- The queue whose command waits for the request with a tag. -/
def Hub.queueOf (h : Hub) (tag : Nat) : Option Nat := (h.queues.find? fun q => q.2.cur.any fun c => c.run.waitsFor tag).map (·.1)

/-- The end of a request for a queue's command. -/
def Hub.queueAnswered (h : Hub) (tag : Nat) (ok : Bool) : Hub :=
  match h.queueOf tag with
  | some q => h.endCommand q (if ok then CmdStatus.ok else CmdStatus.fault) 0 0xFFFF
  | none => h

/-- The end of a request for the chain engine's SYNC entry. -/
def Hub.chainAnswered (h : Hub) (tag : Nat) (ok : Bool) : Hub :=
  if h.chain.sync.any fun r => r.waitsFor tag then
    h.updChain fun c => { c with sync := some (.over (if ok then CmdStatus.ok else CmdStatus.chainBroken) 0 0xFFFF) }
  else h

/-- What a read of a queue or the chain engine came back with (R371); marked bytes cannot be read. -/
def Hub.fetched (h : Hub) (tag : Nat) (body : Body) : Hub :=
  let got : Option (List Byte) := match body with
    | .data bs [] => some bs
    | _ => none
  { h with fetches := h.fetches.map fun t => if t.tag = tag && t.got.isNone then { t with got := some got } else t }

/-- The end of a request of the package itself: performed, with what its answer brings, or not. -/
def State.tagEnded (s : State) (tag : Nat) (ok : Bool) (body : Body) : State :=
  let s := s.updHub fun h => ((h.queueAnswered tag ok).chainAnswered tag ok).fetched tag body
  match s.hub.migrations.find? fun m => m.tags.any fun l => l.contains tag with
  | some m =>
    if !ok then s.moveFailed m
    else
      let left := (m.tags.getD []).filter (· != tag)
      if left = [] then s.moveDone m else s.updHub fun h => h.updMove m.id fun m => { m with tags := some left }
  | none => s

/-! ANSWER (R399). -/

/-- A region that a core of this package has bound to, or detached from, an object homed elsewhere (R114). -/
def State.noteBinding (s : State) (r : Request) (p : Packet) : State :=
  let core := (r.owner.bind fun o => (s.cores.find? o.on).map Core.id).getD 0
  match r.packet.body, p.body, s.hub.contextOf r.packet.tenant with
  | .sync (.bind base len scope), .data .., some f =>
    s.updHub fun h => { h with boundAway := h.boundAway ++ [⟨r.packet.va, base, len, scope, h.pkg, core, f⟩] }
  | .sync (.unbind base), .data .., some f =>
    s.updHub fun h => { h with boundAway := h.boundAway.filter fun b => !(b.func = f && b.obj = r.packet.va && b.base = base) }
  | _, _, _ => s

/-- OK. -/
def State.answerOk (s : State) (r : Request) (p : Packet) : State :=
  let s := (s.noteBinding r p).endRequest r
  match r.owner with
  | none => s.tagEnded r.tag true p.body
  | some o =>
    let more := s.hub.moreOf o
    s.updOwner o fun c =>
      (c.updRemote r.packet.va fun v => { v with bits := setBit v.bits 16 p.settled }).updUser o.id
        (fun f => f.answered r p more c.pulse) fun k => k.answered r p more c.pulse

/-- RETRY or DENIED. -/
def State.answerNo (s : State) (r : Request) (bit : Nat) (g : Hnd → Hnd) : State :=
  let s := s.endRequest r
  match r.owner with
  | none => s.tagEnded r.tag false .none
  | some o => s.updOwner o fun c =>
      ((c.updRemote r.packet.va g).noteFstat bit).updUser o.id (fun f => f.refusedBy c.pulse) fun k => k.refusedBy r.packet.va

/-- MOVED: the access is sent again to the new home, and the directory and the handle are corrected. -/
def State.answerMoved (s : State) (r : Request) (home : Nat) : State :=
  let p := { r.packet with dst := home }
  let s := s.updHub fun h =>
    let h := match h.contextOf p.tenant with
      | some f => h.rehome f (p.va / 65536) home
      | none => h
    { h.send p with requests := h.requests.map fun q => if q.tag = r.tag then { q with packet := p, sent := none } else q }
  match r.owner with
  | none => s
  | some o => s.updOwner o fun c => (c.updRemote p.va fun v => { v with home := BitVec.ofNat 10 home }).noteFstat 2

/-- The request that an answer answers: one that has been sent and has not ended. -/
def Hub.answeredBy (h : Hub) (p : Packet) : Option Request := h.requests.find? fun r => r.tag = p.tag && r.sent.isSome

/-- ANSWER: one to no request, or with a status that is none of its request's, is discarded (R406, R418). -/
def execAnswer (p : Packet) (s : State) : Out :=
  .next (match s.hub.answeredBy p with
    | none => s
    | some r =>
      match p.status.toNat, p.body with
      | 0, _ => s.answerOk r p
      | 1, .retry token _ => s.answerNo r 1 fun v => { v with token := some token }
      | 1, _ => s.answerNo r 1 id
      | 2, .moved home => s.answerMoved r home
      | 3, _ => s.answerNo r 3 fun v => { v with denied := true }
      | 4, _ =>
        if r.packet.kind = 4 then s.updHub fun h =>
          { h with requests := h.requests.map fun q => if q.tag = r.tag then { q with held := true } else q }
        else s
      | _, _ => s)

/-! REMOTE_TIMEOUT (R278, R418). -/

/-- Ticks of a time-out of so many µs. -/
def ftoTicks (fto : Nat) : Nat := fto * 1250

/-- Whether a request has waited for its answer for too long. -/
def Hub.timedOut (h : Hub) (tick : Nat) (r : Request) : Bool :=
  !r.held && match r.sent with
    | some t => t + ftoTicks h.fto ≤ tick
    | none => false

/-- REMOTE_TIMEOUT, of the request with a tag. -/
def execRemoteTimeout (n : Nat) (s : State) : Out :=
  .next (match s.hub.requests.find? fun r => r.tag = n with
    | none => s
    | some r =>
      if !s.hub.timedOut s.tick r then s
      else
        let s := s.endRequest r
        match r.owner with
        | none => s.tagEnded r.tag false .none
        | some o => s.updOwner o fun c =>
            (c.noteTimeout r.packet.dst).updUser o.id (fun f => { f with stage := .timedOut, due := c.pulse })
              fun k => { k with stage := .timedOut })

end Sys2Proof.Machine
end

