-- ==== Sys2Proof/Machine/Router.lean ====
section
/-!
DEFINITION. This package's router and links (R406 to R417, R427).
-/

namespace Sys2Proof.Machine

open Sys2Proof

/-! Ports (R409, R416). -/

/-- Fabric ports, and the number of local injection. -/
def portTotal : Nat := 24

def Hub.link (h : Hub) (port : Nat) : Link := h.links.getD port Link.reset
def Hub.updLink (h : Hub) (port : Nat) (g : Link → Link) : Hub := { h with links := h.links.mapIdx fun i l => if i = port then g l else l }

/-- Counts a discarded packet at a port; local injection has none. -/
def Hub.drop (h : Hub) (port : Nat) : Hub := h.updLink port fun l => { l with drops := min (l.drops + 1) (2 ^ 21 - 1) }

/-- A packet leaves by a port; on a link that is not up it is lost. -/
def Hub.emit (h : Hub) (port : Nat) (p : Packet) : Hub := if (h.link port).state = 2 then { h with wire := h.wire ++ [(port, p)] } else h

/-- Whether a router takes a packet (R407). -/
def packetSound (p : Packet) : Bool := p.ver = 1 && decide (1 ≤ p.kind.toNat) && decide (p.kind.toNat ≤ 0x0B) && !p.reserved

/-! Delivery. -/

/-- An answer whose status its request does not allow (R406). -/
def Hub.badAnswer (h : Hub) (p : Packet) : Bool :=
  p.kind = 3 && (decide (5 ≤ p.status.toNat) || (p.status = 4 && match h.answeredBy p with
    | some r => r.packet.kind != 4
    | none => false))

/-- A packet for this package. -/
def State.arrive (s : State) (input : Nat) (p : Packet) : State :=
  if s.hub.badAnswer p then s.updHub fun h => h.drop input else s.receive [p]

/-- Where a packet that is not a multicast one goes: HPTR past its last hop delivers it (R409). -/
def State.follow (s : State) (input : Nat) (p : Packet) : State :=
  if p.nhop < p.hptr then (if p.dst = s.hub.pkg then s.arrive input p else s.updHub fun h => h.drop input)
  else
    let port := p.ports.getD p.hptr 31
    if portTotal ≤ port then s.updHub fun h => h.drop input
    else s.updHub fun h => h.emit port { p with hptr := p.hptr + 1 }

/-! Multicast (R414, R415). -/

/-- Replicates a multicast packet as its group's entry stands. -/
def State.replicate (s : State) (input : Nat) (p : Packet) : State :=
  let e := AMap.get 0 s.hub.groups p.group
  if !e.getLsbD 25 then s.updHub fun h => h.drop input
  else
    let all := (List.range portTotal).filter fun o => e.getLsbD o
    let able := all.filter fun o => (s.hub.link o).feat / 2 % 2 = 1
    let s := s.updHub fun h => (all.filter fun o => !able.contains o).foldl Hub.drop h
    let waits := able ++ if e.getLsbD 24 then [portTotal] else []
    let s := s.updHub fun h =>
      able.foldl (fun h o => h.emit o p) { h with combos := if waits = [] then h.combos else h.combos ++ [⟨p.src, p.tag, waits, []⟩] }
    if e.getLsbD 24 then s.receive [p] else s

/-- The one answer that a multicast write gets: the first that failed in port order, or OK.
Log entry 35 (DEDUCED). -/
def combined (l : List (Nat × Packet)) : Option (Nat × Packet) :=
  let at_ (ok : Bool) : Option (Nat × Packet) :=
    (List.range (portTotal + 1)).findSome? fun o => l.find? fun x => x.1 = o && (x.2.status = 0) = ok
  match at_ false with
  | some x => some x
  | none => at_ true

/-- The combination that an answer belongs to. -/
def Hub.comboOf (h : Hub) (input : Nat) (p : Packet) : Option Combo :=
  if p.kind = 3 then h.combos.find? fun c => c.src = p.dst && c.tag = p.tag && c.waits.contains input else none

/-- A packet of one destination: an answer may have to wait for others (R414). -/
def State.unicast (s : State) (input : Nat) (p : Packet) : State :=
  let go (s : State) (input : Nat) (p : Packet) : State :=
    if input = portTotal && p.dst = s.hub.pkg then s.arrive input p else s.follow input p
  match s.hub.comboOf input p with
  | none => go s input p
  | some c =>
    let c' := { c with waits := c.waits.filter (· != input), got := c.got ++ [(input, p)] }
    let rest := s.hub.combos.filter fun x => !(x.src = c.src && x.tag = c.tag)
    if c'.waits ≠ [] then s.updHub fun h => { h with combos := rest ++ [c'] }
    else
      let s := s.updHub fun h => { h with combos := rest }
      match combined c'.got with
      | some (i, q) => go s i q
      | none => s

/-! Injection (R411, R413, R427, R428). -/

/-- Whether the route of a request still out has been replaced. -/
def Hub.routeGone (h : Hub) (p : Packet) : Bool :=
  h.routes p.dst != [] && !(h.routes p.dst).any fun r => routePorts r = p.ports && routeHops r = p.nhop

/-- A packet of this package with its route as the tables stand; none where no valid route leads on. -/
def Hub.routed (h : Hub) (p : Packet) : Option Packet :=
  if p.kind = 9 || p.dst = h.pkg then some p
  else (h.routeTo p.kind p.dst p.va p.circuit).map fun r => { p with ports := routePorts r, nhop := routeHops r, hptr := 0 }

/-- The ports by which a packet of this package leaves. -/
def Hub.exits (h : Hub) (p : Packet) : List Nat :=
  if p.kind = 9 then (List.range portTotal).filter fun o => (AMap.get 0 h.groups p.group).getLsbD o
  else if p.dst = h.pkg then []
  else match h.routed p with
    | some q => q.ports.take 1
    | none => []

/-- Whether a packet of this package may be injected in this tick: a slotted one in slots reserved for it, any other in slots that are
not reserved at its ports (R413), and, but for answers, in so many of every eight ticks as their level allows; and none but an
answer for a destination while requests are out on a route that has been replaced. -/
def State.mayInject (s : State) (p : Packet) : Bool :=
  let now := s.hub.slotEntries s.tick
  let slotted := (s.hub.circuitRoute p.circuit p.dst).isSome
  let room (o : Nat) : Bool :=
    if slotted then now.contains (o, portTotal)
    else now.all (fun e => e.1 != o) && (p.kind = 3 || decide (s.tick % 8 < s.hub.injection o))
  (s.hub.exits p).all room &&
    (p.kind = 3 || p.kind = 9 || p.dst = s.hub.pkg ||
      s.hub.requests.all fun r => r.sent.isNone || r.packet.dst != p.dst || r.packet.kind = 9 || !s.hub.routeGone r.packet)

/-- The time of a request runs from its injection (R418). -/
def State.noteSent (s : State) (p q : Packet) : State :=
  s.updHub fun h =>
    { h with
      out := h.out.erase p
      requests := h.requests.map fun r => if r.packet = p && p.kind != 3 then { r with packet := q, sent := some s.tick } else r }

/-- PACKET_FORWARD: input 24 injects a packet of this package. -/
def execPacketForward (input : Nat) (p : Packet) (s : State) : Out :=
  .next (if s.hub.well.halted then s
    else if input < portTotal then
      (if (s.hub.link input).state ≠ 2 then s
      else if !packetSound p then s.updHub fun h => h.drop input
      else if p.kind = 9 then s.replicate input p
      else s.unicast input p)
    else if !(s.hub.out.contains p && s.mayInject p) then s
    else match s.hub.routed p with
      | none => s.noteSent p p
      | some q =>
        let s := s.noteSent p q
        if q.kind = 9 then s.replicate portTotal q else s.unicast portTotal q)

/-! Links (R416, R417). -/

/-- The kindling step of a port's quad (R425). -/
def quadUnit (port : Nat) : Nat := 50 + port / 4

/-- Whether a port's quad has started. -/
def Hub.quadOpen (h : Hub) (port : Nat) : Bool := (h.power.unitLevel.getD (quadUnit port) none).isSome

/-- A link that is not up begins its training. -/
def Link.trains (l : Link) : Link := if l.state = 2 then l else { l with state := 1, version := 0, feat := 0, lanes := 0 }

/-- A link sends some beats again: seen as latency, and counted. -/
def Link.resends (l : Link) (n : Nat) : Link := { l with crcerr := (l.crcerr + n) % 2 ^ 32 }

/-- LINK_TRAINING: the training ends. The partner offers versions, features and lanes; this Henut supports version 1, slotting and
multicast. -/
def execLinkTraining (port vmin vmax feat lanes : Nat) (s : State) : Out :=
  .next (if s.hub.well.halted || !s.hub.quadOpen port then s
    else s.updHub fun h => h.updLink port fun l =>
      if vmin ≤ 1 ∧ 1 ≤ vmax ∧ 1 ≤ lanes then { l with state := 2, version := 1, feat := feat % 4, lanes := min lanes 4 }
      else { l with state := 0, version := 0, feat := 0, lanes := 0 })

/-- LINK_FAILURE: a beat has been sent 16 times more; the management firmware invalidates the routes that begin with the link. -/
def execLinkFailure (port : Nat) (s : State) : Out :=
  .next (if (s.hub.link port).state != 2 then s
    else s.updHub fun h =>
      { h.updLink port (fun l => { l.resends 16 with state := 3, lanes := 0 }) with
        paths := (h.paths.filter fun x => (routePorts x.2).head? = some port).foldl (fun m x => AMap.set 0 m x.1 (setBit x.2 84 false)) h.paths })

/-! Slot tables (R412). -/

/-- The pairs of output and input of one slot. -/
def slotPairs (w : Nat) : List (Nat × Nat) :=
  ((List.range portTotal).filter fun o => w / 2 ^ (6 * o + 5) % 2 = 1).map fun o => (o, w / 2 ^ (6 * o) % 32)

/-- Whether one slot obeys R412. -/
def slotWordOk (w : Nat) : Bool :=
  w / 2 ^ 144 == 0 && ((List.range portTotal).all fun o => decide (w / 2 ^ (6 * o) % 32 ≤ portTotal)) &&
    ((slotPairs w).map (·.2)).Nodup

/-- A circuit entry of a record: circuit, destination, route and VALID; none where a bit that must be zero is set. -/
def readCircuit (v : Nat) : Option ((Nat × Nat × Nat) × Bool) :=
  if v / 2 ^ 29 ≠ 0 ∨ v % 2 ^ 16 = 0 ∧ v / 2 ^ 28 % 2 = 1 then none
  else some ((v % 2 ^ 16, v / 2 ^ 16 % 2 ^ 10, v / 2 ^ 26 % 4), v / 2 ^ 28 % 2 = 1)

/-- Reads a slot-table record in HBM; none where it is refused. -/
def Hub.readSlotTable (h : Hub) (tick pa : Nat) : Option SlotTable :=
  let head := h.readHbm pa 8256
  let n := fieldAt head 6 2
  let ws := (List.range 256).map fun i => fieldAt head (64 + 32 * i) 32
  let slots := ws.map slotPairs
  let busy (o : Nat) : Nat := (slots.filter fun l => l.any fun x => x.1 = o).length
  let start := fieldAt head 8 8
  if fieldAt head 0 4 != 0x53484347 || fieldAt head 4 2 != 1 || 4095 < n || start % 1024 != 0 || start < tick || !ws.all slotWordOk ||
      (List.range portTotal).any fun o => 204 < busy o then none
  else match ((List.range n).mapM fun i => readCircuit (leNat (h.readHbm (pa + 8256 + 8 * i) 8))) with
    | none => none
    | some cs => some ⟨start, BitVec.ofNat 384 (fieldAt head 16 48), slots, (cs.filter (·.2)).map (·.1)⟩

/-- STLOAD. -/
def execStload (v : Word) (s : State) : Out :=
  .next (s.updHub fun h => match h.readSlotTable s.tick v.toNat with
    | some t => { h with slotNext := some t, ststat := 0 }
    | none => { h with ststat := 2 })

/-- SLOT_TABLE_START. -/
def execSlotTableStart (s : State) : Out :=
  .next (match s.hub.slotNext with
    | some t => if t.start ≤ s.tick then s.updHub fun h => { h with slotNow := some t, slotNext := none, ststat := 1 } else s
    | none => s)

/-- MCDATA_WRITE. -/
def execMcdataWrite (v : Word) (s : State) : Out :=
  .next (s.updHub fun h => { h with groups := AMap.set 0 h.groups h.mcsel (v &&& 0x3FFFFFF) })

end Sys2Proof.Machine
end

