-- ==== Sys2Proof/Machine/ChainEngine.lean ====
section
/-!
DEFINITION. The chain schedule engine (R343 to R361).
-/

namespace Sys2Proof.Machine

open Sys2Proof

/-! The table (R344, R345). -/

def readChainHeader (bs : List Byte) : ChainHeader :=
  { up := fieldAt bs 8 2, down := fieldAt bs 10 2, s := fieldAt bs 12 1, ra := fieldAt bs 13 1, rg := fieldAt bs 14 1,
    dnra := fieldAt bs 15 1, uprg := fieldAt bs 36 1, stbase := fieldAt bs 16 8, ssz := fieldAt bs 24 4, asz := fieldAt bs 28 4,
    gsz := fieldAt bs 32 4, abase := fieldAt bs 40 8, gbase := fieldAt bs 48 8, cirdn := fieldAt bs 56 2, cirup := fieldAt bs 58 2 }

/-- Whether a header obeys R344, apart from what a command that breaks it completes with BAD_RECORD for. -/
def chainHeaderOk (bs : List Byte) : Bool :=
  let t := readChainHeader bs
  let pkg (n : Nat) : Bool := n == 0xFFFF || decide (n < 1024)
  pkg t.up && pkg t.down && decide (t.s ≤ 64) && decide (t.ra ≤ 16) && decide (t.rg ≤ 16) && decide (t.dnra ≤ 16) &&
    decide (t.uprg ≤ 16) && [t.stbase, t.ssz, t.asz, t.gsz, t.abase, t.gbase].all (fun a => a % 4096 == 0) && zerosAt bs 37 3 && zerosAt bs 60 4

def readChainEntry (bs : List Byte) : ChainEntry :=
  let b := fieldAt bs 0 1
  { kind := b % 4, stash := b / 4 % 4, nact := b / 16 % 2 == 1, ngrad := b / 32 % 2 == 1, sdown := b / 64 % 2 == 1,
    sup := b / 128 % 2 == 1, mb := fieldAt bs 1 2 % 4096, prio := fieldAt bs 3 1 % 4, step := fieldAt bs 3 1 / 4 % 2 == 1,
    addr := fieldAt bs 8 8, target := BitVec.ofNat 64 (fieldAt bs 16 8) }

/-- Whether an entry obeys R345. -/
def chainEntryOk (bs : List Byte) : Bool :=
  let e := readChainEntry bs
  e.stash != 3 && fieldAt bs 1 2 / 4096 == 0 && fieldAt bs 3 1 / 8 == 0 && zerosAt bs 4 4 && zerosAt bs 24 8 &&
    if e.kind = 3 then e.stash == 0 && !e.nact && !e.ngrad && !e.sdown && !e.sup && e.mb == 0
    else !e.step && e.target == 0 && e.addr % 64 == 0

/-! The safety check (R355). -/

/-- Whether some entry from `lo` on, below `hi`, meets a condition. -/
def entryIn (es : List ChainEntry) (lo hi : Nat) (p : ChainEntry → Bool) : Bool := ((es.take hi).drop lo).any p

/-- How many of the first `n` entries meet a condition. -/
def entryCount (es : List ChainEntry) (n : Nat) (p : ChainEntry → Bool) : Nat := ((es.take n).filter p).length

/-- Whether entry `i` breaks a condition of R355 on kinds, packages and partners. -/
def entryBreaks (t : ChainHeader) (es : List ChainEntry) (i : Nat) (e : ChainEntry) : Bool :=
  let n := es.length
  let same (k : Nat) (m : ChainEntry) : Bool := m.kind == k && m.mb == e.mb
  ((e.nact || e.sup) && t.up == 0xFFFF) || ((e.ngrad || e.sdown) && t.down == 0xFFFF) ||
    ((e.nact || e.sdown) && e.kind != 0) || ((e.ngrad || e.sup) && e.kind != 1) ||
    (e.nact && t.ra == 0) || (e.ngrad && t.rg == 0) || (e.sup && t.uprg == 0) ||
    (e.kind != 3 && entryIn es 0 i (same e.kind)) || (e.kind == 1 && !entryIn es 0 i (same 0)) || (e.kind == 2 && !entryIn es 0 i (same 1)) ||
    (e.stash == 1 && e.kind != 0) || (e.stash == 2 && e.kind != 1 && e.kind != 2) ||
    (e.stash == 1 && !entryIn es (i + 1) n fun m => m.stash == 2 && m.mb == e.mb) ||
    (e.stash == 2 && decide (entryCount es i (fun m => m.stash == 1 && m.mb == e.mb) ≤ entryCount es i fun m => m.stash == 2 && m.mb == e.mb)) ||
    (e.sdown && !entryIn es (i + 1) n fun m => m.ngrad && m.mb == e.mb)

/-- Whether the loop of R355 finds entry `i` unsafe. -/
def entryUnsafe (t : ChainHeader) (es : List ChainEntry) (i : Nat) (e : ChainEntry) : Bool :=
  (e.stash == 1 && decide (t.s + entryCount es (i + 1) (fun m => m.stash == 2) < entryCount es (i + 1) fun m => m.stash == 1)) ||
    (e.sdown && decide (t.dnra < entryCount es (i + 1) fun m => m.sdown && entryIn es (i + 1) es.length fun k => k.ngrad && k.mb == m.mb))

/-- The first offending entry of a table, from its bytes.
Log entry 36 (DEDUCED). -/
def firstOffender (head : List Byte) (recs : List (List Byte)) : Option Nat :=
  let t := readChainHeader head
  let es := recs.map readChainEntry
  if !chainHeaderOk head then some 0
  else (List.range recs.length).find? fun i =>
    match recs[i]?, es[i]? with
    | some r, some e => !chainEntryOk r || entryBreaks t es i e || entryUnsafe t es i e
    | _, _ => false

/-! Starting (R343, R347, R355, R358). -/

/-- Sends the hellos. -/
def Hub.sendHellos (h : Hub) : Hub :=
  let t := h.chain.header
  let h := if t.up = 0xFFFF then h else h.send (h.chainPacket true (.hello true t.ra t.abase t.asz))
  let h := if t.down = 0xFFFF then h else h.send (h.chainPacket false (.hello false t.rg t.gbase t.gsz))
  h.updChain fun c => { c with helloSent := true }

/-- The engine stops, and the command of its queue completes.
Log entry 37 (DEDUCED). -/
def Hub.stopChain (h : Hub) (status cause head : Nat) : Hub :=
  let q := h.chain.owner
  let h := h.updChain fun c => { c with stopped := true, held := false, head := head, status := status, wait := 0, sync := none, acq := false }
  match q with
  | some q => h.endCommand q status cause 0xFFFF
  | none => h

/-- The hello that a neighbour has sent. -/
def Chain.helloOf (c : Chain) (pkg : Nat) (act : Bool) : Option Hello := c.hellos.find? fun x => x.pkg = pkg && x.act = act

/-- Starts a chain that is loaded and whose neighbours' hellos are all in and agree; a disagreement stops the engine.
Log entry 36 (DEDUCED). -/
def Hub.tryStart (h : Hub) (tick : Nat) : Hub :=
  let c := h.chain
  let t := c.header
  let up := c.helloOf t.up false
  let down := c.helloOf t.down true
  let here (pkg : Nat) (x : Option Hello) : Bool := pkg == 0xFFFF || x.isSome
  let agrees (x : Option Hello) (n : Nat) : Bool := x.all fun x => x.tenant == c.tenant && x.slots == n
  if !c.held || c.entries = [] || c.started || c.stopped || !here t.up up || !here t.down down then h
  else if !(agrees up t.uprg && agrees down t.dnra) then h.stopChain CmdStatus.tableUnsafe 0 0
  else h.updChain fun c =>
    { c with
      started := true, upHello := up, downHello := down, last := tick
      hellos := c.hellos.filter fun x => x.pkg != t.up && x.pkg != t.down }

/-- A chain that has a table loaded and has issued nothing (R346, R353, R354). -/
def Chain.loaded (old : Chain) (q f : Nat) (tenant : BitVec 20) (t : ChainHeader) (es : List ChainEntry) : Chain :=
  { Chain.reset with
    owner := some q, held := true, func := f, tenant := tenant, header := t, entries := es, stash := List.replicate t.s none,
    act := List.replicate t.ra none, grad := List.replicate t.rg none, dview := List.replicate t.dnra true,
    uview := List.replicate t.uprg true, hellos := old.hellos }

/-- What a CHAIN command reads: the header and the entries as bytes. -/
def Hub.readTable (h : Hub) (who f va : Nat) : Except NotRead (List Byte × List (List Byte)) :=
  if va % 64 ≠ 0 then .error (.fails CmdStatus.badRecord none)
  else do
    let hd := (← h.readVa who f va 64).2
    let n := fieldAt hd 6 2
    if !(fieldAt hd 0 4 == 0x54484347 && fieldAt hd 4 2 == 1 && decide (1 ≤ n) && decide (n ≤ 1024)) then .error (.fails CmdStatus.badRecord none)
    else
      let bs := (← h.readVa who f (va + 64) (32 * n)).2
      .ok (hd, (List.range n).map fun i => (bs.drop (32 * i)).take 32)

/-- The engine as a CHAIN command with RESUME 0 takes it: what a previous chain left is gone (R343). -/
def Chain.taken (q : Nat) (old : Chain) : Chain := { Chain.reset with owner := some q, held := true, hellos := old.hellos }

/-- CHAIN: the engine is held from the command's start, also while its table comes from another package. -/
def execChain (q : Nat) (s : State) : Out :=
  .next (match s.hub.starting q 5 with
    | none => s
    | some bs =>
      if fieldAt bs 24 1 ≠ 0 then s
      else if s.hub.chain.held && s.hub.chain.owner != some q then s.updHub fun h => h.endCommand q CmdStatus.badRecord 0 0xFFFF
      else
        let x := s.hub.queue q
        let table := s.hub.readTable q x.func (fieldAt bs 16 8)
        let s := if s.hub.chain.held then s else s.updHub fun h => h.updChain (Chain.taken q)
        match table with
        | .error (.waits l) => s.fetch q x.func l
        | .error (.fails st w) => (s.reportRead x.func w).updHub fun h =>
          ((h.dropFetches q).endCommand q st 0 0xFFFF).updChain fun c => { c with owner := none, held := false }
        | .ok (hd, recs) =>
          let s := s.updHub fun h => h.dropFetches q
          match firstOffender hd recs with
          | some i => s.updHub fun h =>
            let h := h.endCommand q CmdStatus.tableUnsafe 0 0xFFFF
            h.updChain fun c =>
              { c.loaded q x.func x.tenant (readChainHeader hd) (recs.map readChainEntry) with
                owner := none, held := false, stopped := true, head := i, status := CmdStatus.tableUnsafe }
          | none => s.updHub fun h =>
            let h := h.setRun q .chain
            ((h.updChain fun c => c.loaded q x.func x.tenant (readChainHeader hd) (recs.map readChainEntry)).sendHellos).tryStart s.tick)

/-- CHAIN_RESUME: only on the queue that last ran the stopped chain. -/
def execChainResume (q : Nat) (s : State) : Out :=
  .next (match s.hub.starting q 5 with
    | none => s
    | some bs =>
      if fieldAt bs 24 1 ≠ 1 then s
      else if s.hub.chain.held || !s.hub.chain.stopped || s.hub.chain.owner != some q then
        s.updHub fun h => h.endCommand q CmdStatus.badRecord 0 0xFFFF
      else s.updHub fun h =>
        let h := (h.setRun q .chain).updChain fun c => { c with held := true, stopped := false, status := 0, last := s.tick }
        if h.chain.started then h else h.sendHellos.tryStart s.tick)

/-- HELLO: discarded while a chain runs. -/
def execHello (p : Packet) (s : State) : Out :=
  .next (match p.body with
    | .hello act slots base size =>
      let c := s.hub.chain
      if c.started && !c.done && !c.stopped then s
      else s.updHub fun h =>
        (h.updChain fun c =>
          { c with hellos := (c.hellos.filter fun x => !(x.pkg = p.src && x.act = act)) ++ [⟨p.src, act, p.tenant, slots, base, size⟩] }).tryStart s.tick
    | _ => s)

/-! Issuing (R348, R352). -/

/-- Whether the engine examines its head in this cycle. -/
def Chain.examines (c : Chain) (tick : Nat) : Bool :=
  c.held && c.started && !c.stopped && !c.done && c.running.isNone && decide (c.last < tick)

/-- The head entry. -/
def Chain.headEntry (c : Chain) : Option ChainEntry := c.entries[c.head]?

/-- The first condition of R348 that fails, as CHEAD.WAIT reports it. -/
def Chain.blockedBy (c : Chain) (e : ChainEntry) : Option Nat :=
  if e.nact && !c.act.contains (some e.mb) then some 1
  else if e.ngrad && !c.grad.contains (some e.mb) then some 2
  else if e.stash = 1 && !c.stash.contains none then some 3
  else if e.sdown && !c.dview.contains true then some 4
  else if e.sup && !c.uview.contains true then some 4
  else none

/-- Charges the cycle to one counter. -/
def Chain.charge (c : Chain) (w tick : Nat) : Chain :=
  let c := { c with wait := w, last := tick }
  match w with
  | 2 => { c with bubDown := c.bubDown + 1 }
  | 3 => { c with bubStash := c.bubStash + 1 }
  | 4 => { c with bubSlot := c.bubSlot + 1 }
  | _ => { c with bubUp := c.bubUp + 1 }

/-- The place of a value in a list of slots. -/
def slotIndex {α : Type} [DecidableEq α] (l : List α) (a : α) : Option Nat := l.findIdx? (· = a)

/-- The buffers fixed at an entry's issue. -/
def Chain.context (c : Chain) (e : ChainEntry) : ChainCtx :=
  { stash := if e.stash = 1 then slotIndex c.stash none else none
    act := if e.nact then slotIndex c.act (some e.mb) else none
    grad := if e.ngrad then slotIndex c.grad (some e.mb) else none
    unstash := if e.stash = 2 then slotIndex c.stash (some e.mb) else none
    down := if e.sdown then slotIndex c.dview true else none
    up := if e.sup then slotIndex c.uview true else none }

/-- A list with one place changed, where there is one. -/
def setAt {α : Type} (l : List α) (i : Option Nat) (a : α) : List α :=
  match i with
  | some i => l.set i a
  | none => l

/-- The engine after an entry has issued as graph `g`. -/
def Chain.issued (c : Chain) (e : ChainEntry) (g tick : Nat) : Chain :=
  let x := c.context e
  { c with
    stash := setAt c.stash x.stash (some e.mb), dview := setAt c.dview x.down false, uview := setAt c.uview x.up false,
    running := some g, entry := c.head, head := c.head + 1, ctx := x, sentDown := false, sentUp := false, freedAct := false,
    freedGrad := false, wait := 0, last := tick }

/-- The number of the chain engine among those that read other packages. -/
def chainReader : Nat := 1024

/-- The engine as it was before an entry whose graph failed, but for the sends and frees that its tasks made. -/
def Chain.reverted (c : Chain) : Chain :=
  { c with
    running := none, stash := setAt c.stash c.ctx.stash none
    dview := if c.sentDown then c.dview else setAt c.dview c.ctx.down true
    uview := if c.sentUp then c.uview else setAt c.uview c.ctx.up true }

/-- What the launch record of an entry holds. -/
def Hub.entryRecord (h : Hub) (e : ChainEntry) : Except (NotRead × Nat) (List NodeRec) := h.readLaunch chainReader h.chain.func e.addr

/-- The launch record of the entry that has issued as graph `g` has been read: its graph is there, or the engine stops (R348, R358). What
another package has to send is waited for, the graph running. -/
def State.launchEntry (s : State) (e : ChainEntry) (g : Nat) (read : Except (NotRead × Nat) (List NodeRec)) : State :=
  let c := s.hub.chain
  let q := c.owner.getD 0
  let n := ((s.hub.command q).map (·.n)).getD 0
  match read with
  | .error (.waits l, _) => s.fetch chainReader c.func l
  | .error (.fails st w, _) => (s.reportRead c.func w).updHub fun h =>
    ((h.dropFetches chainReader).updChain fun c => { c.reverted with last := s.tick }).stopChain st 0 c.entry
  | .ok rs => s.updHub fun h =>
    { h.dropFetches chainReader with
      graphs := h.graphs ++ [newGraph g q (n % 2 ^ 32) (h.queue q) e.prio s.tick (some c.ctx) rs] }

/-- The entry whose launch record is still on its way, with its graph's number. -/
def Hub.launching (h : Hub) : Option (ChainEntry × Nat) :=
  match h.chain.running, h.chain.entries[h.chain.entry]? with
  | some g, some e => if (h.graphOf g).isNone then some (e, g) else none
  | _, _ => none

/-- CHAIN_ENTRY_ISSUE: the head F, B or W entry issues, or its cycle is charged; the launch record of one that has issued is read. -/
def execChainEntryIssue (s : State) : Out :=
  .next (match s.hub.launching, s.hub.chain.headEntry with
    | some x, _ => s.launchEntry x.1 x.2 (s.hub.entryRecord x.1)
    | none, none => s
    | none, some e =>
      if e.kind = 3 || !s.hub.chain.examines s.tick then s
      else match s.hub.chain.blockedBy e with
        | some w => s.updHub fun h => h.updChain fun c => c.charge w s.tick
        | none =>
          (s.updHub fun h => { h.updChain (fun c => c.issued e h.nextGraph s.tick) with nextGraph := h.nextGraph + 1 }).launchEntry e
            s.hub.nextGraph (s.hub.entryRecord e))

/-- The chain is over: every entry has issued and nothing runs. -/
def Hub.chainDone (h : Hub) : Hub :=
  if h.chain.head < h.chain.entries.length then h
  else
    let q := h.chain.owner
    let h := h.updChain fun c => { c with done := true, held := false }
    match q with
    | some q => h.endCommand q CmdStatus.ok 0 0xFFFF
    | none => h

/-! SYNC entries (R350). -/

/-- Performs an operation of a SYNC entry: at this package's sync unit or by a request; CHAIN_BROKEN where the object is not
there. -/
def State.chainSync (s : State) (va : Nat) (k : SyncKind) : State :=
  let c := s.hub.chain
  let fail : State := s.updHub fun h => h.stopChain CmdStatus.chainBroken 0 h.chain.head
  let set (s : State) (r : QRun) : State := s.updHub fun h => h.updChain fun c => { c with sync := some r }
  if 2 ^ 57 ≤ va || va % 8 ≠ 0 then fail
  else match s.hub.homeOf c.func va with
    | .own =>
      let t := s.hub.walk c.func va
      if t.present && t.sync then
        let pa := t.pa + va % pageBytes t.psize
        ((set s (.sync k pa)).syncArrive ⟨.chain, k, pa, s.hub.pkg, 512, c.func, some (makeHnd s.hub c.func va t), 0⟩).2
      else if t.error then (fail.fault c.func va (faultKind true false) 0 true s.hub.pkg none).2
      else fail
    | .pkg n =>
      let tag := s.requestTag
      set (s.request none (s.hub.packet 4 0 n c.tenant va 0 0 (.sync k))) (.remote tag)
    | _ => fail

/-- CHAIN_SYNC_ENTRY_ISSUE: REL.I on the object. -/
def execChainSyncEntryIssue (s : State) : Out :=
  .next (match s.hub.chain.headEntry with
    | none => s
    | some e =>
      if e.kind != 3 || !s.hub.chain.examines s.tick || s.hub.chain.sync.isSome then s
      else (s.updHub fun h => h.updChain fun c => { c.charge 5 s.tick with acq := false }).chainSync e.addr .relI)

/-- CHAIN_SYNC_COMPLETE: every cycle until the ACQ.G has completed is charged, that one too; then the head advances. -/
def execChainSyncComplete (s : State) : Out :=
  .next (match s.hub.chain.headEntry, s.hub.chain.sync with
    | some e, some r =>
      if e.kind != 3 || !s.hub.chain.examines s.tick then s
      else
        let s := s.updHub fun h => h.updChain fun c => c.charge 5 s.tick
        match r with
        | .over 0 _ _ =>
          if s.hub.chain.acq then s.updHub fun h =>
            (h.updChain fun c => { c with head := c.head + 1, sync := none, acq := false, wait := 0 }).chainDone
          else (s.updHub fun h => h.updChain fun c => { c with acq := true }).chainSync e.addr (.acqG e.target)
        | .over _ _ _ => s.updHub fun h => h.stopChain CmdStatus.chainBroken 0 h.chain.head
        | .sync _ pa => s.settled pa
        | _ => s
    | _, _ => s)

/-! Completion and stops (R349, R358). -/

/-- A graph that completed with OK: slots are freed; a send that was declared and not made breaks the chain. -/
def Hub.chainGraphOk (h : Hub) (e : ChainEntry) (tick : Nat) : Hub :=
  let c := h.chain
  let h := h.updChain fun c => { c with stash := setAt c.stash c.ctx.unstash none, running := none, last := tick, graphEnd := tick }
  let h := match c.ctx.act with
    | some k => if c.freedAct then h else h.freeSlot false k
    | none => h
  let h := match c.ctx.grad with
    | some k => if c.freedGrad then h else h.freeSlot true k
    | none => h
  if (e.sdown && !c.sentDown) || (e.sup && !c.sentUp) then h.stopChain CmdStatus.chainBroken 0 c.entry else h.chainDone

/-- STATUS, CAUSE and NODE of a graph that is over and whose every write has been made: no core that ran its tasks still drains (R362,
R373). -/
def State.graphOver (s : State) (g : Nat) : Option (Nat × Nat × Nat) :=
  if s.cores.any fun c => c.task.any fun t => t.graph = g then none else (s.hub.graphOf g).bind Graph.over

/-- CHAIN_GRAPH_COMPLETE. -/
def execChainGraphComplete (s : State) : Out :=
  .next (match s.hub.chain.running with
    | none => s
    | some g =>
      match s.graphOver g, s.hub.chain.entries[s.hub.chain.entry]? with
      | some (status, cause, _), some e => s.updHub fun h =>
        let h := { h with graphs := h.graphs.filter fun x => x.id != g }
        if status = 0 then h.chainGraphOk e s.tick
        else
          let h := (h.updChain fun c => { c.reverted with last := s.tick }).stopChain status cause h.chain.entry
          if status = CmdStatus.killed then h.updChain fun c => { Chain.reset with hellos := c.hellos } else h
      | _, _ => s)

/-! Messages (R346, R351). -/

/-- SLOT_FREE: a slot of a neighbour may be written again. -/
def execSlotFree (p : Packet) (s : State) : Out :=
  .next (match p.body with
    | .slotFree grad slot =>
      let t := s.hub.chain.header
      if p.tenant != s.hub.chain.tenant || p.src != (if grad then t.up else t.down) then s
      else s.updHub fun h => h.updChain fun c =>
        if grad then { c with uview := c.uview.set slot true } else { c with dview := c.dview.set slot true }
    | _ => s)

/-- Whether a packet carries a part of the same payload as another. -/
def samePayload (p q : Packet) : Bool :=
  match p.body, q.body with
  | .payload up slot _ _ _, .payload up' slot' _ _ _ => up = up' && slot = slot' && p.src = q.src
  | _, _ => false

/-- The move of a page that a part of a payload waits for: that of a page it reaches, or one that an earlier part waits for. -/
def Hub.movingPayload (h : Hub) (f : Nat) (vas : List Nat) (p : Packet) : Option Migration :=
  match h.migrations.find? fun m => m.held.any (samePayload p) with
  | some m => some m
  | none => h.movingAny f vas

/-- CHAIN_PAYLOAD_LANDED: a part of a payload is written into the slot, which is full from the cycle after its last part on; one that no slot
here takes is denied. -/
def execChainPayloadLanded (p : Packet) (s : State) : Out :=
  .next (match p.body with
    | .payload up slot mb ws last =>
      let c := s.hub.chain
      let slots := if up then c.grad else c.act
      if p.tenant = 0 || p.tenant != c.tenant || p.src != (if up then c.header.down else c.header.up) || slots.length ≤ slot then s.deny p
      else
        let base := (if up then c.header.gradBase slot else c.header.actBase slot).toNat
        let vs := ws.flatMap fun w => cutWrite { w with off := base + w.off }
        match s.hub.movingPayload c.func (vs.map (·.off)) p with
        | some m => s.holdFor m p
        | none =>
          let r := s.hub.lookUpAll c.func (permBit 2 true) false (vs.map fun w => (w.off, w.bytes.length))
          let s := { s with hub := r.2 }
          match r.1 with
          | .error (i, va) => s.refuse p c.func va true i
          | .ok pas =>
            let s := s.updHub fun h => (pas.zip vs).foldl (fun h x => h.writeHbm x.1 x.2.bytes x.2.marks) h
            (s.updHub fun h => h.updChain fun c =>
              if !last then c
              else if up then { c with grad := c.grad.set slot (some mb) } else { c with act := c.act.set slot (some mb) }).answerNow p 0 false .none
    | _ => s)

end Sys2Proof.Machine
end

