-- ==== Sys2Proof/Machine/Power.lean ====
section
/-!
DEFINITION. Power, the ember save and reset (R424 to R433).
-/

namespace Sys2Proof.Machine

open Sys2Proof

/-! The level in force and the kindling order (R425 to R429). -/

/-- The units of the kindling order. -/
def unitTotal : Nat := 56

/-- Ticks between two steps: 48 ns. -/
def kindlingTicks : Nat := 60

/-- What a level gives a unit: a cluster's clock at its priority, a stack's bandwidth, a port quad's injection. -/
def State.unitShare (s : State) (u l : Nat) : Nat :=
  let e := s.hub.power.table.getD l []
  if u < 42 then e.getD (6 - s.clusterPriority (u % 2) (u / 2)) 8
  else if u < 50 then e.getD 2 8
  else e.getD 1 8

/-- The next step from unit `u` on: a unit that has not started, or whose level is not the one in force. -/
def Power.nextUnit (p : Power) (u : Nat) : Option Nat :=
  (List.range unitTotal).find? fun i => decide (u ≤ i) && p.unitLevel.getD i none != some p.inforce

def State.updPower (s : State) (f : Power → Power) : State := s.updHub fun h => { h with power := f h.power }

/-- The level that is to be in force: the larger of LEVEL and the pins, or 15 in an ember save. -/
def Power.wanted (p : Power) : Nat := if p.ember then 15 else max p.level p.pins

/-- Puts the wanted level in force: restrictions at once, what is lifted through the kindling order; vector 255 tells every
function whose protocol is agreed. -/
def State.applyLevel (s : State) : State :=
  let old := s.hub.power.inforce
  let new := s.hub.power.wanted
  if new = old then s
  else
    let units := (List.range unitTotal).map fun u =>
      match s.hub.power.unitLevel.getD u none with
      | none => none
      | some l => if old < new || s.unitShare u l = s.unitShare u new then some new else some l
    let s := s.updPower fun p =>
      let p := { p with inforce := new, unitLevel := units }
      { p with next := match p.nextUnit 0 with
          | some u => some (u, match p.next with
            | some (_, t) => t
            | none => s.tick + 1)
          | none => none }
    s.updHub fun h => (List.range 64).foldl (fun h f => if (h.func f).agreed then h.raiseMsix f 255 else h) h

/-- PSTEP_WRITE. -/
def execPstepWrite (v : Word) (s : State) : Out := .next (s.updPower fun p => { p with level := low v 4 }).applyLevel

/-- PSTEP_PINS: a sample of the pins; a value read twice in a row takes effect. -/
def execPstepPins (v : BitVec 4) (s : State) : Out :=
  .next (s.updPower fun p => { p with pins := if v.toNat = p.pinRead then v.toNat else p.pins, pinRead := v.toNat }).applyLevel

/-- KINDLING_STEP: the unit of the step starts, or takes the level in force; the next step is that of the next unit to change. -/
def execKindlingStep (s : State) : Out :=
  .next (match s.hub.power.next with
    | none => s
    | some (u, t) =>
      if s.tick < t then s
      else s.updPower fun p =>
        let p := { p with unitLevel := p.unitLevel.set u (some p.inforce) }
        { p with next := (p.nextUnit (u + 1)).map fun v => (v, t + kindlingTicks) })

/-! The ember save (R430, R431). -/

/-- 1 ms in ticks. -/
def emberDrainTicks : Nat := 1250000

/-- PFAIL: PFAIL_N goes low or high. -/
def execPfail (isLow : Bool) (s : State) : Out :=
  let s := s.updPower fun p => { p with pfail := isLow }
  .next (if !isLow || s.hub.power.ember then s
    else
      let s := (s.updPower fun p => { p with ember := true }).applyLevel
      let ids := (s.cores.filter fun c => c.task.isSome).map Core.id
      { s with
        agenda := s.agenda ++ ids.map fun i => .preemptRequest i
        hub := { s.hub with
          emberEnd := some (s.tick + emberDrainTicks)
          image := some ⟨⟨0, 0, 0, 0, 0, 0, 0, 0⟩, ⟨[], [], [], [], [], Chain.reset, []⟩, [], s.hub.saved.length⟩ } })

/-- An access is abandoned: its destination is poisoned, that of a synchronisation operation too. -/
def Core.abandonFlight (c : Core) (f : Flight) : Core :=
  match f.op with
  | .load dst .. => c.writeLoad f.q (match dst with
      | .pattern _ => .x 0 8 false
      | d => d) [] true
  | .ordLoad d _ n sx => c.writeLoad f.q (.x d n sx) [] true
  | .sync _ _ _ (some d) => c.updSeq f.q fun v => v.setX d 0 true
  | _ => c

/-- What is outstanding on a core is given up, and its record will say so. -/
def Core.abandon (c : Core) : Core :=
  if c.drained then c
  else
    let out := c.flight.filter fun f => f.stage != .done && f.stage != .timedOut
    let c := out.foldl (fun c f => ((c.abandonFlight f).dropFlight f.id).release f) c
    { c with cmds := c.cmds.filter c.waitsTimed, sae := [], posts := [], done := c.done.filter (·.onCycle), lost := true }

/-- EMBER_DRAIN_TIMEOUT. -/
def execEmberDrainTimeout (s : State) : Out :=
  .next (match s.hub.emberEnd with
    | none => s
    | some t =>
      if s.tick < t then s
      else
        let go (c : Core) : Core :=
          if c.task.isSome && (c.status = .halted || c.status = .halting || c.status = .killed) then c.abandon else c
        { s with core := go s.core, parked := s.parked.map go, hub := { s.hub with emberEnd := none } })

/-- Whether a record's node has EMBER set. -/
def emberNode (gs : List Graph) (r : Saved) : Bool := gs.any fun g => g.id = r.graph && (g.nodes[r.node]?).any fun n => n.rec_.ember

/-- A core record of the image: without ACC rows and scratchpad, which are kept for EMBER nodes only. -/
def emberRecord (gs : List Graph) (r : Saved) : Saved :=
  if emberNode gs r then r else { r with core := { r.core with acc := [], spad := [], spadUe := [] } }

/-- The version of ember images that this Henut writes and reads (R431, R442). -/
def emberVersion : Nat := 1

/-- The digest of an image without its header. -/
def emberDigest (b : HubSave) (rs : List Saved) : BitVec 384 := sha384 (Config.emberImage b rs)

/-- The hub section of the image of a package as it stands. -/
def Hub.saveSection (h : Hub) : HubSave := ⟨h.queues, h.kicks, h.journal, h.graphs, h.round, h.chain, h.ckpt.marks⟩

/-- The whole image of a package at a time, with the core records that have been saved since it began. -/
def Hub.emberImage (h : Hub) (time : Word) (before : Nat) : Ember :=
  let b := h.saveSection
  let rs := (h.saved.drop before).map (emberRecord h.graphs)
  { head :=
      { magic := 0x45484347, ever := emberVersion, specimen := h.specimen, time := time, nrec := rs.length,
        total := 256 + (Config.emberImage b rs).length, digest := emberDigest b rs, complete := 0xA5 }
    hub := b, records := rs, before := 0 }

/-- EMBER_IMAGE_WRITTEN: every core has been saved, and the image is whole, its TIME free.
Log entry 43 (DEDUCED). -/
def execEmberImageWritten (s : State) : Out :=
  .next (match s.hub.image with
    | none => s
    | some e =>
      if e.whole || !s.hub.power.ember || s.cores.any (fun c => c.task.isSome) then s
      else { s with free := s.free + 1 }.updHub fun h => { h with image := some (h.emberImage (Config.word s.free) e.before), emberEnd := none })

/-! Reset (R424, R425, R433). -/

/-- Whether the firmware uses an image that it finds in flash (R433, R442). -/
def Hub.imageUsable (h : Hub) (e : Ember) : Bool :=
  e.whole && e.head.digest == emberDigest e.hub e.records && e.head.specimen == h.specimen && e.head.ever == emberVersion

/-- What of the package outlives a reset: its place, its identity, its firmware and maps, the wellhead's record, the translated images
where the power has not failed (R440), the host's memory and the board flash.
Log entry 42 (DEDUCED). -/
def Hub.afterReset (h : Hub) (tick : Nat) : Hub :=
  let image := h.image.filter h.imageUsable
  { Hub.reset with
    pkg := h.pkg, host := h.host, hostUe := h.hostUe, specimen := h.specimen, firmware := h.firmware, map0 := h.map0, map1 := h.map1,
    oldMaps := h.oldMaps, cache := if h.power.ember then [] else h.cache, hubMap := h.hubMap, oldHubs := h.oldHubs, well := { h.well with alarms := 0, halted := false },
    power := { Power.reset with table := h.power.table, pfail := h.power.pfail, next := some (0, tick), inw := h.power.inw },
    image := image, embstat := image.isSome, nextId := h.nextId }

/-- A core after a reset. -/
def Core.afterReset (c : Core) (h : Hub) : Core := { Core.idle c.die c.cluster c.core with map := (h.map c.die).coreMap (c.cluster * 8 + c.core) }

/-- RESET: the package resets, and the kindling order runs.
Log entry 42 (DEDUCED). -/
def execReset (s : State) : Out :=
  let h := s.hub.afterReset s.tick
  .next { s with core := s.core.afterReset h, parked := s.parked.map fun c => c.afterReset h, agenda := [], hub := h }

/-! EMBSTAT (R432, R433). -/

/-- A chain at a step boundary (R361). -/
def Chain.atBoundary (c : Chain) : Bool := c.done || (c.running.isNone && c.sync.isNone && c.headEntry.any fun e => e.kind == 3 && e.step)

/-- Whether a queue of the image is at a step boundary. -/
def Ember.atBoundary (e : Ember) (q : Nat) (x : Queue) : Bool :=
  let marks := e.hub.marks
  let mine := e.records.filter fun r => e.hub.graphs.any fun g => g.id = r.graph && g.queue = q
  match x.cur with
  | none => x.op = some 4 && (marks.any fun m => m.queue = q && m.whole) && mine.all fun r => emberNode e.hub.graphs r && !r.core.lost
  | some c => match c.run with
    | .chain => e.hub.chain.atBoundary && marks.any fun m => m.tenant = x.tenant && decide (e.hub.chain.graphEnd ≤ m.start) && m.whole
    | _ => false

/-- A queue that is not at a boundary: its command completes with KILLED, or the queue is torn down. -/
def Queue.killed (x : Queue) : Queue :=
  match x.cur with
  | some c => { x with cur := some { c with run := .over CmdStatus.killed 0 0xFFFF } }
  | none => if x.state = 0 then x else { x with state := 2 }

/-- A graph of the image on a queue that goes on: its tasks wait to be restored. -/
def Graph.restored (g : Graph) (tick : Nat) : Graph :=
  { g with nodes := g.nodes.map fun n => if n.state = .running then { n with state := .saved, since := tick } else n }

/-- The queues that come back from an image.
Log entry 43 (DEDUCED). -/
def Hub.resumeQueues (h : Hub) (e : Ember) (tick : Nat) : Hub :=
  let good (q : Nat) : Bool := e.atBoundary q (AMap.get Queue.reset e.hub.queues q)
  let gs := (e.hub.graphs.filter fun g => good g.queue).map fun g => g.restored tick
  let chain := match e.hub.chain.owner with
    | some q => if good q then { e.hub.chain with last := tick } else Chain.reset
    | none => Chain.reset
  { h with
    queues := e.hub.queues.map fun x => (x.1, if good x.1 then x.2 else x.2.killed)
    kicks := e.hub.kicks, journal := e.hub.journal, graphs := gs, round := e.hub.round, chain := chain
    saved := e.records.filter fun r => gs.any fun g => g.id = r.graph
    nextGraph := (e.hub.graphs.map fun g => g.id + 1).foldl max 0
    nextGang := (e.records.filterMap fun r => r.core.task.map fun t => t.gang + 1).foldl max 0
    image := none, embstat := false }

/-- EMBSTAT_RESUME. -/
def execEmbstatResume (s : State) : Out :=
  .next (match s.hub.image with
    | some e => if s.hub.embstat then s.updHub fun h => h.resumeQueues e s.tick else s
    | none => s)

/-- EMBSTAT_DISCARD. -/
def execEmbstatDiscard (s : State) : Out :=
  .next (if s.hub.embstat then s.updHub fun h => { h with image := none, embstat := false } else s)

end Sys2Proof.Machine
end

