-- ==== Sys2Proof/Machine/Fleet.lean ====
section
/-!
DEFINITION. Soundings, maps for the host, checkpoints, the wellhead, quotes and uncorrectable errors (R295, R311, R312, R329, R387,
R434 to R441).
-/

namespace Sys2Proof.Machine

open Sys2Proof

/-! Soundings (R311, R312, R434). -/

/-- The clusters in kindling order, by their numbers in MASK. -/
def clusterOrder : List Nat := (List.range 42).map fun i => maskBit (i % 2) (i / 2)

/-- The cores of a cluster of MASK. -/
def State.clusterCores (s : State) (c : Nat) : List Core := s.cores.filter fun k => maskBit k.die k.cluster = c

/-- Whether a cluster holds no task. -/
def State.clusterIdle (s : State) (c : Nat) : Bool := (s.clusterCores c).all fun k => k.task.isNone && k.status = .free

def State.updSounding (s : State) (f : Sounding → Sounding) : State := s.updHub fun h => { h with sounding := f h.sounding }

/-- SOUNDING_WINDOW_ARM: a write to SNDWIN1. A sounding of the window before goes on, as one of no window.
Log entry 96 (DESIGN CHOICE). -/
def execSoundingWindowArm (v : Word) (s : State) : Out :=
  .next (s.updSounding fun w =>
    { w with start := v, armed := true, opened := false, todo := [], cur := w.cur.map fun x => (x.1, x.2.1, false) })

/-- SOUNDING_WINDOW_OPEN: the window's clusters take no task from now on, and theirs are pre-empted. -/
def execSoundingWindowOpen (s : State) : Out :=
  let w := s.hub.sounding
  .next (if !w.armed || w.opened || s.tick < w.start.toNat then s
    else
      let todo := clusterOrder.filter fun c => w.mask / 2 ^ c % 2 = 1
      let ids := (s.cores.filter fun k => todo.contains (maskBit k.die k.cluster) && k.task.isSome).map Core.id
      let s := s.updSounding fun w =>
        { w with
          opened := todo != [], armed := todo != [], todo := todo, soundings := 0
          cur := match w.cur with
            | some (c, _, _) => if todo.contains c then none else w.cur
            | none => none }
      s.orderPreempts ids)

/-- 12 ms, 1 s and an hour in ticks of 0.8 ns. -/
def soundingTicks : Nat := 15000000
def secondTicks : Nat := 1250000000
def hourTicks : Nat := 3600 * secondTicks

/-- Whether a cluster may be sounded outside windows. -/
def State.mayIdleSound (s : State) (c : Nat) : Bool :=
  let w := s.hub.sounding
  w.idle != 0 && s.clusterIdle c && (s.hub.power.unitLevel.getD (2 * (c % 21) + c / 21) none).isSome &&
    (match AMap.get 0 w.freeAt c with
     | 0 => false
     | t + 1 => decide (t + secondTicks ≤ s.tick)) &&
    decide (AMap.get 0 w.last c + w.idle * hourTicks ≤ s.tick)

/-- The cluster to be sounded next, and whether for a window. -/
def State.nextSounding (s : State) : Option (Nat × Bool) :=
  let w := s.hub.sounding
  if w.cur.isSome || s.hub.well.halted || s.hub.power.ember then none
  else match w.opened, w.todo with
    | true, c :: _ => if s.clusterIdle c then some (c, true) else none
    | _, _ => (clusterOrder.find? s.mayIdleSound).map fun c => (c, false)

/-- SOUNDING_START. -/
def execSoundingStart (s : State) : Out :=
  .next (match s.nextSounding with
    | some (c, window) => s.updSounding fun w => { w with cur := some (c, s.tick + soundingTicks, window) }
    | none => s)

/-- The map record that a sounding of cluster `cl` of a die comes to: none where nothing it finds differs from the map in force. Its
figures and the time are free. -/
def Hub.soundedMap (h : Hub) (n die cl : Nat) (window : Bool) : Option (List Byte) :=
  let old := h.map die
  let new := afterSounding n cl old.coreMap
  if (List.range coresPerDie).any fun k => (new k).differs (old.coreMap k) then
    some (mapBytes h.specimen die (Config.word n).toNat window old new)
  else none

/-- SOUNDING_END: the cluster is released; a new map is signed where the results differ from the map in force, and the wellhead has
its key (R312, R440). -/
def execSoundingEnd (s : State) : Out :=
  .next (match s.hub.sounding.cur with
    | none => s
    | some (c, t, window) =>
      if s.tick < t then s
      else
        let found := s.hub.soundedMap s.free (c / 21) (c % 21) window
        let s := { s with free := s.free + 1 }
        let s := s.updSounding fun w =>
          let w := { w with cur := none, last := AMap.set 0 w.last c s.tick }
          if window then
            { w with soundings := w.soundings + 1, todo := w.todo.drop 1, opened := 1 < w.todo.length, armed := 1 < w.todo.length }
          else w
        match found with
        | none => s
        | some bs =>
          if s.hub.well.erased then s else s.updHub fun h => { h with newMap := h.newMap ++ [(c / 21, bs ++ sign (sha384 bs))] })

/-- MAPREQ: the signed record in force is copied to the host.
Log entry 45 (DEDUCED). -/
def execMapreq (v : Word) (s : State) : Out :=
  let die := v.toNat % 2
  let a := v.toNat / 16 * 16
  .next (s.updHub fun h => { h.writeSide false a (h.map die).bytes with mapDone := setBit h.mapDone die true })

/-! Checkpoints (R436 to R438). -/

/-- 64 KiB pages of HBM (R1, R436). -/
def hbmPages : Nat := 12582912

def State.updCkpt (s : State) (f : Ckpt → Ckpt) : State := s.updHub fun h => { h with ckpt := f h.ckpt }

/-- CKPTCTL_WRITE: with EN rising every page is dirty; with EN 0 nothing is tracked or copied. -/
def execCkptctlWrite (v : Word) (s : State) : Out :=
  .next (s.updCkpt fun c =>
    let c := { c with ctl := BitVec.ofNat 64 (low v 12) }
    if !v.getLsbD 0 then { c with all := [], dirty := [], pages := [], staged := [] }
    else if s.hub.ckpt.ctl.getLsbD 0 then c
    else { c with all := List.range 8, dirty := [] })

/-- The dirty pages of a base die. -/
def Ckpt.dirtyAt (c : Ckpt) (d : Nat) : List Nat :=
  if c.all.contains d then (List.range hbmPages).filter fun p => baseDieOf p = d else c.dirty.filter fun p => baseDieOf p = d

/-- The MARK commands of a number complete. -/
def Hub.endMarks (h : Hub) (n : Nat) : Hub :=
  (h.queues.filter fun q => match q.2.cur with
    | some c => match c.run with
      | .mark m => m = n
      | _ => false
    | none => false).foldl (fun h q => h.endCommand q.1 CmdStatus.ok 0 0xFFFF) h

/-- A mark whose copy has finished. -/
def Ckpt.settle (c : Ckpt) : Ckpt :=
  if c.pages = [] && c.asked.isNone then
    { c with marks := c.marks.map fun m => if m.no = c.markNo && !c.ue then { m with whole := true } else m }
  else c

/-- MARK_RECORD: a base die that has started takes its dirty set as the mark's pages, the copy of the previous mark being finished.
Log entry 41 (DESIGN CHOICE). -/
def execMarkRecord (d : Nat) (s : State) : Out :=
  .next (match s.hub.ckpt.asked with
    | none => s
    | some (n, dies) =>
      if !dies.contains d || !s.hub.stackOpen d || (dies.length = 8 && s.hub.ckpt.pages != []) then s
      else
        let left := dies.filter (· != d)
        let s := s.updCkpt fun c =>
          let c := if dies.length = 8 then { c with markNo := n, ue := false, place := 0 } else c
          { c with
            pages := c.pages ++ c.dirtyAt d, all := c.all.filter (· != d), dirty := c.dirty.filter fun p => baseDieOf p != d
            asked := if left = [] then none else some (n, left) }
        if left = [] then (s.updHub fun h => h.endMarks n).updCkpt Ckpt.settle else s)

/-- Writes bytes of a checkpoint to its area: the host's memory, or another package by requests with the tenant of function 0. -/
def State.writeArea (s : State) (off : Nat) (bs : List Byte) : State :=
  let c := s.hub.ckpt
  let a := c.dst.toNat + off
  if c.ctl.getLsbD 1 then
    let pkg := c.ctl.toNat / 4 % 1024
    (bodiesOf a (.writes [⟨a, bs, []⟩])).foldl (fun s b =>
      s.request none (s.hub.packet 2 2 pkg (s.hub.func 0).tenant b.1 (bodyLen b.2) 0 b.2)) s
  else s.updHub fun h => h.writeSide false a bs

/-- The content of a page at the mark: as staged, or as it stands. -/
def Hub.markContent (h : Hub) (p : Nat) : List Byte × Bool :=
  match h.ckpt.staged.find? fun x => x.1 = p with
  | some (_, bs, marks) => (bs, marks != [])
  | none => (memRead h.hbm (p * 65536) 65536, marksIn h.hbmUe (p * 65536) 65536 != [])

/-- A record head. -/
def recordHead (p n : Nat) (skip : Bool) : List Byte := wordBytes p 8 ++ wordBytes n 4 ++ [if skip then 1 else 0, 0, 0, 0]

/-- CHECKPOINT_PAGE_COPY.
Log entry 41 (DESIGN CHOICE). -/
def execCheckpointPageCopy (s : State) : Out :=
  .next (match s.hub.ckpt.pages with
    | [] => s
    | p :: rest =>
      if !s.hub.ckpt.ctl.getLsbD 0 then s
      else
        let r := s.hub.markContent p
        let bs := recordHead p s.hub.ckpt.markNo r.2 ++ if r.2 then [] else r.1
        (s.writeArea s.hub.ckpt.place bs).updCkpt fun c =>
          { c with pages := rest, staged := c.staged.filter (·.1 != p), ue := c.ue || r.2, place := c.place + bs.length }.settle)

/-- Whether a held write can be performed: it has room, and no earlier one that it overlaps is held.
Log entry 41 (DESIGN CHOICE). -/
def Hub.admits (h : Hub) (w : HeldWrite) : Bool :=
  let new := h.unstaged w.pa w.bytes.length
  ((h.heldWrites.takeWhile fun x => x.id != w.id).all fun x =>
    !(decide (x.pa < w.pa + w.bytes.length) && decide (w.pa < x.pa + x.bytes.length))) &&
  !h.stagingFull new

/-- STAGED_WRITE_ADMIT: the first held write that can be is performed. -/
def execStagedWriteAdmit (s : State) : Out :=
  .next (match s.hub.heldWrites.find? s.hub.admits with
    | none => s
    | some w => s.updHub fun h => { h with heldWrites := h.heldWrites.filter fun x => x.id != w.id }.takeIn w.pa w.bytes w.marks)

/-! The wellhead (R439, R440). -/

def State.updWell (s : State) (f : Wellhead → Wellhead) : State := s.updHub fun h => { h with well := f h.well }

/-- SENSOR_EVENT: by the policy of the sensor's class. -/
def execSensorEvent (c : Nat) (s : State) : Out :=
  .next (if 5 ≤ c then s
    else match s.hub.well.policy.getD c 0 with
      | 0 => s.updWell fun w => { w with alarms := setBit w.alarms c true }
      | 1 => s.updWell fun w => { w with halted := true }
      | _ => (s.updWell fun w => { w with halted := true, erased := true }).updHub fun h => { h with translations := [] })

/-- The fields of a damper entry (R439). -/
def readDamper (bs : List Byte) (l : Nat) : List Nat := (List.range 7).map fun i => fieldAt bs (40 + 8 * l + i) 1

/-- Whether a damper table is valid. -/
def damperOk (bs : List Byte) : Bool :=
  let at_ (l i : Nat) : Nat := (readDamper bs l).getD i 0
  ((List.range 16).all fun l =>
    decide (35 ≤ at_ l 0 ∧ at_ l 0 ≤ 140) && decide (at_ l 1 ≤ 8) && (fieldAt bs (47 + 8 * l) 1 == 0) &&
      ((List.range 5).all fun i => decide (1 ≤ at_ l (i + 2) ∧ at_ l (i + 2) ≤ 8)) &&
      (l == 15 || (List.range 7).all fun i => decide (at_ (l + 1) i ≤ at_ l i))) && decide (at_ 15 0 ≤ 35)

/-- CFGLOAD: the wellhead accepts a newer signed record for this specimen.
Log entry 45 (DEDUCED). -/
def execCfgload (v : Word) (s : State) : Out :=
  let bs := s.hub.readHbm v.toNat 264
  let ok := fieldAt bs 0 4 == 0x43484347 && fieldAt bs 4 2 == 1 && zerosAt bs 6 2 && BitVec.ofNat 128 (fieldAt bs 8 16) == s.hub.specimen &&
    decide (s.hub.well.seqNo < fieldAt bs 24 4) && ((List.range 5).all fun i => decide (fieldAt bs (28 + i) 1 ≤ 2)) && zerosAt bs 33 7 &&
    damperOk bs && verifies 1 (sha384 (bs.take 168)) (bs.drop 168)
  .next (if !ok then s
    else
      (s.updWell fun w =>
        { w with policy := (List.range 5).map fun i => fieldAt bs (28 + i) 1, seqNo := fieldAt bs 24 4, cfg := sha384 bs }).updPower
          fun p => { p with table := (List.range 16).map (readDamper bs) })

/-! Quotes (R441). -/

/-- What a quote says, before its signature. -/
def Hub.quote (h : Hub) (f time : Nat) : List Byte :=
  wordBytes 0x51484347 4 ++ wordBytes 1 2 ++ [BitVec.ofNat 8 f, 0] ++ wordBytes h.specimen.toNat 16 ++ (h.func f).nonce ++
    wordBytes (Config.codeDigest 0 h.firmware).toNat 48 ++ wordBytes (Config.codeDigest 1 0).toNat 48 ++
    wordBytes (Config.codeDigest 2 0).toNat 48 ++ wordBytes h.map0.digest.toNat 48 ++ wordBytes h.map1.digest.toNat 48 ++
    wordBytes h.hubMap.digest.toNat 48 ++ wordBytes h.well.cfg.toNat 48 ++ wordBytes h.map0.version 4 ++ wordBytes h.map1.version 4 ++
    wordBytes h.well.seqNo 4 ++ wordBytes (h.func f).tenant.toNat 4 ++ wordBytes time 8

/-- QREQ: after an ERASE it fails. -/
def execQreq (f : Nat) (v : Word) (s : State) : Out :=
  .next (if !v.getLsbD 0 then s
    else if s.hub.well.erased then s.updHub fun h => h.updFunc f fun x => { x with qstat := 2 }
    else
      let time := (Config.word s.free).toNat
      let s := { s with free := s.free + 1 }
      s.updHub fun h =>
        let bs := h.quote f time
        (h.writeSide false (v.toNat / 16 * 16) (bs ++ sign (sha384 bs))).updFunc f fun x => { x with qstat := 1 })

/-! Errors and updates (R295, R329, R387, R440). -/

/-- Marks bytes of the package: of HBM, or of an entry of the translated-image cache.
Log entry 58 (DESIGN CHOICE). -/
def Hub.markBytes (h : Hub) (a n : Nat) : Hub :=
  let set (ue : List Nat) (b : Nat) : List Nat := setMarks ue b n ((List.range n).map (b + ·))
  if a < 2 ^ 52 then { h with hbmUe := set h.hbmUe a }
  else { h with cache := h.cache.map fun e => if e.id = (a - 2 ^ 52) / 2 ^ 32 then { e with ue := set e.ue (a % 2 ^ 32) } else e }

/-- UNCORRECTABLE_ERROR: `n` bytes from `a` on of a core's scratchpad, or of the package, are marked. With no bytes named, the error lies in the
active queue core's instruction memory, and the standby takes over. -/
def execUncorrectableError (core : Option Nat) (a n : Nat) (s : State) : Out :=
  let marks := (List.range n).map (a + ·)
  .next (match core with
    | some c => s.updCoreId c fun k => { k with spadUe := setMarks k.spadUe a n (marks.filter (· < spadSize)) }
    | none =>
      if n = 0 then
        (if s.hub.takeover.isSome then s else s.updHub fun h => { h with takeover := some (s.tick + takeoverTicks) })
      else s.updHub fun h => h.markBytes a n)

/-- FIRMWARE_UPDATE: the translated-image cache is emptied. -/
def execFirmwareUpdate (version : Nat) (s : State) : Out :=
  .next (s.updHub fun h => { h with firmware := version, cache := [], translations := [] })

/-! What the driver and the board do besides (R309, R321, R370, R405, R412). -/

/-- A new hub map is in force, if it is a signed record of this package's with a version greater than that in force (R312, R412). -/
def Hub.installHub (h : Hub) (bs : List Byte) : Hub :=
  let n := fieldAt bs 40 2
  let sig := fieldAt bs 52 4
  let units := (List.range n).map fun i => (bs.drop (128 + 16 * i)).take 16
  let ok := fieldAt bs 0 4 == 0x4D484347 && fieldAt bs 4 2 == 1 && BitVec.ofNat 128 (fieldAt bs 8 16) == h.specimen &&
    fieldAt bs 24 1 == 2 && decide (h.hubMap.version < fieldAt bs 28 4) && decide (128 + 16 * n ≤ sig) && bs.length == sig + 96 &&
    units.all (fun u => fieldAt u 0 1 == 10 || fieldAt u 0 1 == 11) && verifies 0 (sha384 (bs.take sig)) (bs.drop sig)
  if ok then { h with hubMap := ⟨fieldAt bs 28 4, sha384 bs, units⟩, oldHubs := h.oldHubs ++ [h.hubMap] } else h

/-- One thing that the driver or the board does.
Log entry 76 (DESIGN CHOICE). -/
def Hub.poke (h : Hub) : Poke → Hub
  | .hbm pa bs => h.writeHbm pa bs []
  | .host a bs => h.writeSide false a bs
  | .pkg n => { h with pkg := n % 1024 }
  | .hubMap bs => h.installHub bs
  | .train port => if h.quadOpen port then h.updLink port Link.trains else h
  | .resend port n => h.updLink port fun l => l.resends n
  | .inputPower w => { h with power := { h.power with inw := w % 2 ^ 12 } }
  | .flash e => { h with image := e }

/-- Whether one of these lands in this tick; a write to HBM waits for its stack to start (R425). -/
def State.pokeLands (s : State) (x : Nat × Poke) : Bool :=
  decide (x.1 ≤ s.tick) && match x.2 with
    | .hbm pa bs => s.hub.hbmOpen pa bs.length
    | _ => true

/-- What of it lands in this tick. -/
def State.landPokes (s : State) : State :=
  { s.updHub (fun h => (s.pokes.filter s.pokeLands).foldl (fun h x => h.poke x.2) h) with
    pokes := s.pokes.filter fun x => !s.pokeLands x }

/-- RE_PROVISIONING: the key store is back. -/
def execReProvisioning (s : State) : Out := .next (s.updWell fun w => { w with erased := false })

end Sys2Proof.Machine
end

