-- ==== Sys2Proof/Machine/HostRead.lean ====
section
/-!
DEFINITION. What a host's read of BAR0 returns (R366 to R370, R385, R393, R394, R410 to R421, R426, R433 to R441). A read changes
nothing, so that no step makes one. Where the spec gives a register no read, and at addresses that no rule names, the value is free.
-/

namespace Sys2Proof.Machine

open Sys2Proof

/-- Fields of a register: a value and the bit at which it lies. -/
def regOf (fields : List (Nat × Nat)) : Word := BitVec.ofNat 64 (fields.map fun x => x.1 * 2 ^ x.2).sum

/-- A value that no rule states, for the register at an offset.
Log entry 78 (DESIGN CHOICE). -/
def unstated (off : Nat) : Word := Config.word off

/-- A function's own registers (R366, R367, R393, R441). -/
def Func.read (v : Func) (off : Nat) : Word :=
  match off with
  | 0x00 => 0x10001
  | 0x08 => v.hpdrv
  | 0x10 => v.agree
  | 0x18 => 0
  | 0x20 => v.s1root
  | 0x30 => regOf [(v.s1req, 0), (v.s1done, 32)]
  | 0x38 => v.frbase
  | 0x40 => v.frctl
  | 0x48 => regOf [(v.frtail, 0)]
  | 0x50 => regOf [(v.frhead, 0)]
  | 0x68 => regOf [(v.pool.length, 0)]
  | 0x128 => v.qstat
  | _ => unstated off

/-- The bytes of a queue's descriptor (R368). -/
def Queue.descriptor (x : Queue) : List Byte :=
  wordBytes x.cbase 8 ++ wordBytes x.cplbase 8 ++ wordBytes x.log2sz 1 ++ wordBytes x.loc 1 ++ wordBytes x.func 1 ++
    wordBytes (x.prio + 16 * x.weight) 1 ++ wordBytes x.tenant.toNat 3 ++ wordBytes x.vec 1 ++ wordBytes x.state 1 ++ wordBytes 0 39

/-- A context's registers (R394). -/
def Func.readContext (v : Func) (off : Nat) : Word :=
  match off with
  | 0x00 => v.s2root
  | 0x10 => regOf [(v.s2req, 0), (v.s2done, 32)]
  | 0x18 => regOf [(v.tenant.toNat, 0), (v.migen.toNat, 20), (v.migthr, 21)]
  | 0x28 => v.dirbase
  | 0x30 => regOf [(v.dircnt, 0)]
  | _ => unstated off

/-- LINKST (R416). -/
def Link.read (l : Link) : Word := regOf [(l.state, 0), (l.version, 2), (l.feat, 6), (l.lanes, 8), (l.drops, 11), (l.crcerr, 32)]

/-- SNDSTAT (R434). -/
def Sounding.read (w : Sounding) : Word :=
  regOf [((w.armed || w.opened).toNat, 0), ((w.cur.map (·.1)).getD 0, 1), (w.soundings, 7)]

/-- CKPTSTAT (R436). -/
def Ckpt.read (c : Ckpt) : Word := regOf [(c.markNo, 0), ((c.pages != []).toNat, 32), (c.ue.toNat, 33), (c.pages.length, 34)]

/-- PWRSTAT (R426). -/
def Power.read (p : Power) : Word := regOf [(p.pins, 0), (p.inforce, 4), (p.pfail.toNat, 8), (p.ember.toNat, 9), (p.inw, 32)]

/-- EMBSTAT (R433). -/
def Hub.embRead (h : Hub) : Word :=
  let bound := match h.image with
    | some e => if h.embstat then (e.hub.queues.filter fun x => e.atBoundary x.1 x.2).length else 0
    | none => 0
  regOf [(h.embstat.toNat, 0), (bound, 3)]

/-- IDKEY: the device identity public key, zero once the key store is erased (R435, R440). -/
def Hub.idKey (h : Hub) : List Byte :=
  if h.well.erased then List.replicate 96 0
  else match publicKey 0 with
    | some (x, y) => leBytes 48 x ++ leBytes 48 y
    | none => List.replicate 96 0

/-- The package registers of function 0. -/
def Hub.readPackage (h : Hub) (off : Nat) : Word :=
  let path : BitVec 128 := AMap.get 0 h.paths (h.ptsel % 1024 * 4 + h.ptsel / 1024)
  let brk : Comparator := AMap.get ⟨false, 0⟩ (h.queue (h.brksel % 1024)).brk (h.brksel / 1024 % 4 * 8 + h.brksel / 4096 % 8)
  match off with
  | 0x16010 => regOf [(h.ptsel, 0)]
  | 0x16018 => path.setWidth 64
  | 0x16020 => (path >>> 64).setWidth 64
  | 0x16030 => regOf [(h.mcsel, 0)]
  | 0x16038 => AMap.get 0 h.groups h.mcsel
  | 0x16048 => regOf [(h.ststat, 0)]
  | 0x16050 => regOf [(h.fto, 0)]
  | 0x16058 => regOf [(h.brksel, 0)]
  | 0x16060 => regOf [(brk.en.toNat, 0), (brk.addr.toNat, 0)]
  | 0x16080 => regOf [(h.power.level, 0)]
  | 0x16088 => h.power.read
  | 0x16090 => regOf [(h.sounding.mask, 0)]
  | 0x16098 => h.sounding.start
  | 0x160A8 => h.sounding.read
  | 0x160B0 => regOf [(h.sounding.idle, 0)]
  | 0x160B8 => regOf [(h.map0.version, 0), ((h.mapDone.getLsbD 0).toNat, 32)]
  | 0x160C0 => regOf [(h.map1.version, 0), ((h.mapDone.getLsbD 1).toNat, 32)]
  | 0x160D0 => h.ckpt.ctl
  | 0x160D8 => h.ckpt.dst
  | 0x160E0 => h.embRead
  | 0x160E8 => h.ckpt.read
  | 0x16270 => h.well.alarms.setWidth 64
  | _ =>
    if 0x16100 ≤ off ∧ off < 0x161C0 ∧ off % 8 = 0 then (h.link ((off - 0x16100) / 8)).read
    else if 0x16200 ≤ off ∧ off < 0x16260 ∧ off % 8 = 0 then BitVec.ofNat 64 (fieldAt h.idKey (off - 0x16200) 8)
    else unstated off

/-- The error record of the core that ERRSEL selects (R385). -/
def State.errorRead (s : State) : Word := ((s.coreAt (s.hub.errsel.toNat % 512)).map (·.errrec)).getD 0

/-- What function `f` reads at an offset of its BAR0: a virtual function sees nothing from 0x4000 on (R366). -/
def State.hostRead (s : State) (f off : Nat) : Word :=
  let h := s.hub
  if off < 0x1000 then (h.func f).read off
  else if off < 0x2000 then (if off % 4 = 0 then regOf [((h.queue ((off - 0x1000) / 4)).tail, 0)] else unstated off)
  else if off < 0x3000 then
    let x := h.queue ((off - 0x2000) / 4)
    if off % 4 ≠ 0 then unstated off else if x.func = f then regOf [(x.head, 0)] else 0
  else if off < 0x4000 then 0
  else if f ≠ 0 then 0
  else if off < 0x14000 then BitVec.ofNat 64 (fieldAt (h.queue ((off - 0x4000) / 64)).descriptor ((off - 0x4000) % 64) 8)
  else if off = 0x14000 then h.errsel
  else if off = 0x14008 then s.errorRead
  else if 0x15000 ≤ off ∧ off < 0x16000 then (h.func ((off - 0x15000) / 64)).readContext ((off - 0x15000) % 64)
  else h.readPackage off

end Sys2Proof.Machine
end

