-- ==== Sys2Proof/Machine/Runtime.lean ====
section
/-!
DEFINITION. The resident task runtime, to which a trap comes unless the program takes it (R290, R292, R308, R335).
-/

namespace Sys2Proof.Machine

open Sys2Proof

/-- What the runtime acts on: the trap registers of a level, and whether a level-1 handler handed them on by TRAP 0. -/
structure Cure where
  cause : Nat
  late : Bool
  epc : Word
  eaddr : Word
  handed : Bool
  deriving DecidableEq, Repr

/-- Whether the runtime was entered from its own code (R292). -/
def Core.fromRuntime (c : Core) : Bool := c.tl = 2 && inRuntime c.epc2.toNat

/-- The trap that the runtime acts on (R292).
Log entry 26 (DEDUCED). -/
def Core.cureOf (c : Core) : Cure :=
  let swtrap := Cause.swtrap.toNat
  let one (handed : Bool) : Cure := ⟨c.ecause1.toNat % 256, c.ecause1.getLsbD 8, c.epc1, c.eaddr1, handed⟩
  if c.tl = 1 then one false
  else if c.ecause2.toNat % 256 = swtrap && c.eaddr2 = 0 then one true
  else ⟨c.ecause2.toNat % 256, c.ecause2.getLsbD 8, c.epc2, c.eaddr2, false⟩

/-- TRAP n: entry to level 2 from level 1, the kill at level 2 (R291, R292). -/
def State.runtimeTrap (s : State) (n : Nat) : State :=
  (s.updCore fun c => { c with rtWait := .idle }).raise .ct Cause.swtrap false s.core.ct.pc (BitVec.ofNat 64 n)

/-- The runtime's TRET, past the TRAP of a handler that handed the cause on. -/
def State.runtimeReturn (s : State) (handed : Bool) : State :=
  let s := trapReturn (s.updCore fun c => { c with rtWait := .idle, epc2 := if handed then c.epc2 + 4 else c.epc2 })
  if s.core.tl = 0 then s.resumeArray else s

/-- MXRES: the suspended array instruction is armed (R231). -/
def Core.arm (c : Core) : Core := { c with suspended := c.suspended.map fun p => { p with armed := true } }

/-- Requests residency of the page that a locator names: the cure ends at once where there is nothing to request. -/
def State.runtimeRequest (s : State) (t : Cure) (res : Bool) : State :=
  let r := locHandle t.eaddr
  let off := locOffset t.eaddr
  let v := s.core.getH r
  let id := s.core.nextId
  if locKind t.eaddr != 2 || (res && (!v.valid || s.core.suspended.isNone)) then s.runtimeTrap t.cause
  else if !v.valid then s.runtimeReturn t.handed
  else if v.size ≤ off then s.runtimeTrap t.cause
  else if !v.remote && v.resident then (if res then s.updCore Core.arm else s).runtimeReturn t.handed
  else
    (s.pageRequest { q := .ct, pc := s.core.ct.pc, next := s.core.ct.pc, pfx := Pfx.none, sig := 0 } r off).updCore
      fun c => { c with rtWait := .cure id res }

/-- MAP_STALE: the task ends at its safe point and goes on in the re-translated image, once that exists (R332, R334, R335).
Log entry 26 (DEDUCED). -/
def State.restartStale (s : State) (t : Cure) : State :=
  match safeEntry s.core t.epc with
  | some i => s.updCore fun c => { c with tl := 0, rtWait := .idle, status := .swapping i, ct := { c.ct with pc := t.epc + 4 } }
  | none => s.runtimeTrap t.cause

/-- What the runtime does on entry.
Log entry 25 (DESIGN CHOICE). -/
def State.runtimeActs (s : State) : State :=
  let t := s.core.cureOf
  if t.cause = Cause.translationFault.toNat && !t.late && locKind t.eaddr = 2 then s.runtimeRequest t false
  else if t.cause = Cause.remoteFault.toNat then s.runtimeRequest t true
  else if t.cause = Cause.undersizedDelay.toNat && s.core.suspended.isSome then (s.updCore Core.arm).runtimeReturn t.handed
  else if t.cause = Cause.mapStale.toNat then s.restartStale t
  else s.runtimeTrap t.cause

/-- CT is in the runtime's code, in a pulse in which it may issue. A trap from the runtime's own code kills; while a request
waits, and while a late fault of CT is to be taken, CT stands at a boundary. -/
def State.runtimeStep (s : State) : State :=
  let c := s.core
  if c.tl = 0 || c.pend.any (fun p => p.ready c.tl) then s.pass
  else if c.fromRuntime then
    (s.runtimeTrap (if c.ecause2.toNat % 256 = Cause.swtrap.toNat then c.eaddr2.toNat % 256 else c.ecause2.toNat % 256)).pass
  else match c.rtWait with
    | .cure id res =>
      if (c.flightOf id).isSome then s.pass
      else ((if res then s.updCore Core.arm else s).runtimeReturn c.cureOf.handed).pass
    | .idle => s.runtimeActs.pass

end Sys2Proof.Machine
end

