-- ==== Sys2Proof/Machine/HubStep.lean ====
section
/-!
DEFINITION. The package's own turn, once in every reference cycle: what the outside does to it, and what of its units is due (R347,
R349, R370, R372, R380 to R387, R396, R401, R412, R418, R420, R425, R430 to R438).
-/

namespace Sys2Proof.Machine

open Sys2Proof

/-! What the outside does. -/

/-- Whether an event is one that the outside brings about: a host's register write, a packet at a port, a pin, a sensor, a fault of
the hardware.
Log entry 31 (DESIGN CHOICE). -/
def outside : Instr → Bool
  | .packetForward input _ => decide (input < portTotal)
  | .strikeReport .. => true
  | .hpdrvWrite .. => true
  | .kick .. => true
  | .queueDescriptorWrite .. => true
  | .registerWrite .. => true
  | .errselWrite .. => true
  | .errorRecordClear .. => true
  | .s1invPage .. => true
  | .s1invAll .. => true
  | .s2invPage .. => true
  | .s2invAll .. => true
  | .fresolveResolve .. => true
  | .fresolveRefuse .. => true
  | .migpoolWrite .. => true
  | .migclrPage .. => true
  | .migclrAll .. => true
  | .linkTraining .. => true
  | .linkFailure .. => true
  | .stload .. => true
  | .mcdataWrite .. => true
  | .pstepWrite .. => true
  | .pstepPins .. => true
  | .pfail .. => true
  | .soundingWindowArm .. => true
  | .mapreq .. => true
  | .ckptctlWrite .. => true
  | .sensorEvent .. => true
  | .cfgload .. => true
  | .qreq .. => true
  | .uncorrectableError .. => true
  | .firmwareUpdate .. => true
  | .reset .. => true
  | .embstatResume .. => true
  | .embstatDiscard .. => true
  | .reProvisioning .. => true
  | _ => false

/-- Whether an event of the outside reads HBM, whose stacks must have started (R425). -/
def readsHbm : Instr → Bool
  | .stload .. => true
  | .cfgload .. => true
  | .migclrPage .. => true
  | .migclrAll .. => true
  | _ => false

/-- Whether an input is due in this tick. -/
def State.inputDue (s : State) (x : Nat × Instr) : Bool := decide (x.1 ≤ s.tick) && (!readsHbm x.2 || s.hub.stacksOpen)

/-- The events of the outside that land in this tick. -/
def State.landing (s : State) : List Instr := (s.inputs.filter fun x => s.inputDue x && outside x.2).map (·.2)

/-! What a tick settles by itself. -/

/-- Every killed graph has no node that runs. -/
def Hub.settleKills (h : Hub) : Hub := { h.kills.foldl Hub.settleKill h with kills := [] }

/-- The tick from which each cluster has been free (R434), kept one too high, so that 0 says that it is not. -/
def State.noteFree (s : State) : State :=
  s.updSounding fun w =>
    { w with freeAt := clusterOrder.foldl (fun m c =>
        AMap.set 0 m c (if s.clusterIdle c then (if AMap.get 0 m c = 0 then s.tick + 1 else AMap.get 0 m c) else 0)) w.freeAt }

/-- An access of this package's own cores restarts a page's count (R401). -/
def State.restartCounts (s : State) : State :=
  s.updHub fun h => { h with migCount := h.migCount.filter fun x => s.cores.all fun c => c.usersOf [(x.2.1 * 65536, 65536)] = [] }

/-- The command of a queue whose graph is over completes, and the graph is gone. -/
def State.endGraph (s : State) (q : Nat) : State :=
  match s.hub.command q with
  | some c => match c.run with
    | .graph g => match s.graphOver g with
      | some (status, cause, node) => s.updHub fun h =>
        { h.endCommand q status cause node with graphs := h.graphs.filter fun x => x.id != g }
      | none => s
    | _ => s
  | none => s

/-- The queues that are in use. -/
def Hub.inUse (h : Hub) : List Nat := h.queues.map (·.1)

/-- Whether the queue cores and the dispatcher take up new work: not in a takeover or an ember save (R387, R430). -/
def Hub.takesUp (h : Hub) : Bool := h.takeover.isNone && !h.power.ember

/-- The queues take their next commands. -/
def Hub.takeAll (h : Hub) : Hub :=
  if h.takesUp then h.inUse.foldl (fun h q => if h.mayTake q then h.takeCommand q else h) h else h

/-! What is due. -/

/-- The chain engine's events: they see the state as the tick before left it (R347 to R352); a takeover of the queue core or an ember save
leaves the engine alone (R387, R430). -/
def State.chainEvents (s : State) : List Instr :=
  let c := s.hub.chain
  let issue : List Instr :=
    if s.hub.launching.isSome then [.chainEntryIssue]
    else if !c.examines s.tick then []
    else match c.headEntry with
      | none => []
      | some e => if e.kind != 3 then [.chainEntryIssue] else if c.sync.isSome then [.chainSyncComplete] else [.chainSyncEntryIssue]
  issue ++ if (c.running.bind s.graphOver).isSome then [.chainGraphComplete] else []

/-- The event of a command that stands at its start. -/
def commandEvent (q : Nat) (bs : List Byte) : List Instr :=
  match fieldAt bs 0 1 with
  | 0 => [.nopCommand q]
  | 1 => [.launch q]
  | 2 => [.waitobj q]
  | 3 => if fieldAt bs 24 1 = 0 then [.setobjRelI q] else [.setobjRelL q]
  | 4 => [.mark q]
  | 5 => if fieldAt bs 24 1 = 0 then [.chain q] else [.chainResume q]
  | _ => []

/-- The events of a queue. -/
def Hub.queueEvents (h : Hub) (q : Nat) : List Instr :=
  match h.command q with
  | none => []
  | some c => match c.run with
    | .start => if h.takesUp then commandEvent q c.bytes else []
    | .over .. => if h.takeover.isNone then [.completionRecordWrite q] else []
    | .sync .. => [.syncOpPerform (2 * q)]
    | _ => []

/-- Nodes whose wait for a promotion is over (R383). -/
def State.promotions (s : State) : List Instr :=
  s.hub.graphs.flatMap fun g => (List.range g.nodes.length).filterMap fun i =>
    match g.nodes[i]? with
    | some x => if (x.state = .ready || x.state = .saved) && x.level != 0 && x.since + promotionTicks ≤ s.tick then
        some (.nodePromotion g.id i) else none
    | none => none

/-- Host queues and the dispatcher. -/
def State.queueAgenda (s : State) : List Instr :=
  let h := s.hub
  (if h.takeover.any fun t => t ≤ s.tick then [.queueCoreTakeover] else []) ++
  (if h.takesUp then h.kicks.map fun q => .kickService q else []) ++ h.inUse.flatMap h.queueEvents ++
  (if h.takesUp then s.promotions ++ if h.startable != 0 then [.nodeStart] else [] else []) ++
  (if h.takeover.isNone && h.newMap != [] then [.mapInstall] else [])

/-- Translations, invalidations and the moves of pages. -/
def State.pageAgenda (s : State) : List Instr :=
  let h := s.hub
  ((h.translations.filter fun t => t.due ≤ s.tick).map fun t => .translationDone t.id) ++
  ((h.invals.filter s.invalReady).map fun i => .invalidationComplete i.id) ++
  ((h.migrations.filter fun m => m.tags.isNone && m.due ≤ s.tick && !s.moveWaits m).map fun m => .pageMigration m.id)

/-- The sync unit, ordered requests, and the fabric. -/
def State.fabricAgenda (s : State) : List Instr :=
  let h := s.hub
  (h.syncWait.filterMap fun w => match w.who with
    | .packet p => some (.syncOpPerform (2 * remoteWait p + 1))
    | _ => none) ++
  (if wheelReserved (s.tick % 1024) then (h.arrivals.take 1).map .ordered else []) ++
  ((h.out.filter s.mayInject).map fun p => .packetForward portTotal p) ++
  ((h.requests.filter (h.timedOut s.tick)).map fun r => .remoteTimeout r.tag) ++
  (if h.slotNext.any fun t => t.start ≤ s.tick then [.slotTableStart] else [])

/-- Power, soundings and checkpoints. -/
def State.fleetAgenda (s : State) : List Instr :=
  let h := s.hub
  let w := h.sounding
  (if h.power.next.any fun x => x.2 ≤ s.tick then [.kindlingStep] else []) ++
  (if h.emberEnd.any fun t => t ≤ s.tick then [.emberDrainTimeout] else []) ++
  (if h.power.ember && (h.image.any fun e => !e.whole) && s.cores.all (fun c => c.task.isNone) then [.emberImageWritten] else []) ++
  (if w.armed && !w.opened && w.start.toNat ≤ s.tick then [.soundingWindowOpen] else []) ++
  (if w.cur.any fun x => x.2.1 ≤ s.tick then [.soundingEnd] else []) ++
  (if s.nextSounding.isSome then [.soundingStart] else []) ++
  (match h.ckpt.asked with
   | some (_, ds) => ((ds.filter h.stackOpen).take 1).map .markRecord
   | _ => []) ++
  (if h.ckpt.ctl.getLsbD 0 && h.ckpt.pages != [] then [.checkpointPageCopy] else []) ++
  (if h.heldWrites.any h.admits then [.stagedWriteAdmit] else [])

/-! The turn. -/

/-- A tick begins: its events, in order. A halted package answers the outside only (R439). -/
def State.beginTick (s : State) : State :=
  let s := { s with tick := s.tick + 1, turns := s.parked.length + 1 }
  let land := s.landing
  let s := { s with inputs := s.inputs.filter fun x => !s.inputDue x }.landPokes
  if s.hub.well.halted then { s with agenda := land }
  else
    let chain := s.chainEvents
    let s := (s.updHub fun h => (h.releaseEvent s.tick).settleKills).noteFree.restartCounts.refillHandles.sweepCache
    let s := (s.hub.inUse.foldl State.endGraph s).updHub Hub.takeAll
    { s with agenda := chain ++ land ++ s.queueAgenda ++ s.pageAgenda ++ s.fabricAgenda ++ s.fleetAgenda }

/-- The package's turn: a tick begins, or, once its events are over, its cores' pulses.
Log entry 29 (DESIGN CHOICE). -/
def State.hubStep (s : State) : State := if s.turns = 0 then s.beginTick else { s with phase := .begin }

end Sys2Proof.Machine
end

