-- ==== Sys2Proof/Machine/Dispatch.lean ====
section
/-!
DEFINITION. One arm per constructor of `Instr`: each a direct call of its meaning.
-/

namespace Sys2Proof.Machine

def exec (i : Instr) (s : State) : Host.Outcome State Fault Refusal :=
  match i with
  | .add h o => Sys2Proof.Machine.execAdd h o s
  | .sub h o => Sys2Proof.Machine.execSub h o s
  | .and h o => Sys2Proof.Machine.execAnd h o s
  | .or h o => Sys2Proof.Machine.execOr h o s
  | .xor h o => Sys2Proof.Machine.execXor h o s
  | .andn h o => Sys2Proof.Machine.execAndn h o s
  | .shl h o => Sys2Proof.Machine.execShl h o s
  | .shr h o => Sys2Proof.Machine.execShr h o s
  | .sha h o => Sys2Proof.Machine.execSha h o s
  | .rot h o => Sys2Proof.Machine.execRot h o s
  | .min h o => Sys2Proof.Machine.execMin h o s
  | .max h o => Sys2Proof.Machine.execMax h o s
  | .minu h o => Sys2Proof.Machine.execMinu h o s
  | .maxu h o => Sys2Proof.Machine.execMaxu h o s
  | .mul h o => Sys2Proof.Machine.execMul h o s
  | .mulh h o => Sys2Proof.Machine.execMulh h o s
  | .div h o => Sys2Proof.Machine.execDiv h o s
  | .divu h o => Sys2Proof.Machine.execDivu h o s
  | .rem h o => Sys2Proof.Machine.execRem h o s
  | .remu h o => Sys2Proof.Machine.execRemu h o s
  | .clz h o => Sys2Proof.Machine.execClz h o s
  | .popc h o => Sys2Proof.Machine.execPopc h o s
  | .sel h o => Sys2Proof.Machine.execSel h o s
  | .mov h o => Sys2Proof.Machine.execMov h o s
  | .addi h o => Sys2Proof.Machine.execAddi h o s
  | .andi h o => Sys2Proof.Machine.execAndi h o s
  | .ori h o => Sys2Proof.Machine.execOri h o s
  | .xori h o => Sys2Proof.Machine.execXori h o s
  | .shli h o => Sys2Proof.Machine.execShli h o s
  | .shri h o => Sys2Proof.Machine.execShri h o s
  | .shai h o => Sys2Proof.Machine.execShai h o s
  | .li h o => Sys2Proof.Machine.execLi h o s
  | .cmp h o => Sys2Proof.Machine.execCmp h o s
  | .cmpi h o => Sys2Proof.Machine.execCmpi h o s
  | .pand h o => Sys2Proof.Machine.execPand h o s
  | .por h o => Sys2Proof.Machine.execPor h o s
  | .pxor h o => Sys2Proof.Machine.execPxor h o s
  | .pnot h o => Sys2Proof.Machine.execPnot h o s
  | .pmov h o => Sys2Proof.Machine.execPmov h o s
  | .br h o => Sys2Proof.Machine.execBr h o s
  | .bp h o => Sys2Proof.Machine.execBp h o s
  | .bnp h o => Sys2Proof.Machine.execBnp h o s
  | .call h o => Sys2Proof.Machine.execCall h o s
  | .ret h o => Sys2Proof.Machine.execRet h o s
  | .jmpx h o => Sys2Proof.Machine.execJmpx h o s
  | .loop h o => Sys2Proof.Machine.execLoop h o s
  | .endl h => Sys2Proof.Machine.execEndl h s
  | .tkpost h o => Sys2Proof.Machine.execTkpost h o s
  | .tkwait h o => Sys2Proof.Machine.execTkwait h o s
  | .tkcnt h o => Sys2Proof.Machine.execTkcnt h o s
  | .yield h => Sys2Proof.Machine.execYield h s
  | .safept h => Sys2Proof.Machine.execSafept h s
  | .brk h o => Sys2Proof.Machine.execBrk h o s
  | .trap h o => Sys2Proof.Machine.execTrap h o s
  | .tret h => Sys2Proof.Machine.execTret h s
  | .ldx h o => Sys2Proof.Machine.execLdx h o s
  | .stx h o => Sys2Proof.Machine.execStx h o s
  | .rdsr h o => Sys2Proof.Machine.execRdsr h o s
  | .wrsr h o => Sys2Proof.Machine.execWrsr h o s
  | .taskend h => Sys2Proof.Machine.execTaskend h s
  | .nop h => Sys2Proof.Machine.execNop h s
  | .addiL h o => Sys2Proof.Machine.execAddiL h o s
  | .lih h o => Sys2Proof.Machine.execLih h o s
  | .mad h o => Sys2Proof.Machine.execMad h o s
  | .cmpL h o => Sys2Proof.Machine.execCmpL h o s
  | .loopL h o => Sys2Proof.Machine.execLoopL h o s
  | .nopL h => Sys2Proof.Machine.execNopL h s
  | .crgnOpen h o => Sys2Proof.Machine.execCrgnOpen h o s
  | .crgnClose h => Sys2Proof.Machine.execCrgnClose h s
  | .crgnAbort h => Sys2Proof.Machine.execCrgnAbort h s
  | .rotb h o => Sys2Proof.Machine.execRotb h o s
  | .setrb h o => Sys2Proof.Machine.execSetrb h o s
  | .xlate h o => Sys2Proof.Machine.execXlate h o s
  | .hinv h o => Sys2Proof.Machine.execHinv h o s
  | .hqry h o => Sys2Proof.Machine.execHqry h o s
  | .pgreq h o => Sys2Proof.Machine.execPgreq h o s
  | .mxres h => Sys2Proof.Machine.execMxres h s
  | .chkpMrf h o => Sys2Proof.Machine.execChkpMrf h o s
  | .chkpX h o => Sys2Proof.Machine.execChkpX h o s
  | .chkr h o => Sys2Proof.Machine.execChkr h o s
  | .ldg h o => Sys2Proof.Machine.execLdg h o s
  | .ldgP h o => Sys2Proof.Machine.execLdgP h o s
  | .stg h o => Sys2Proof.Machine.execStg h o s
  | .vld h o => Sys2Proof.Machine.execVld h o s
  | .vst h o => Sys2Proof.Machine.execVst h o s
  | .vldg h o => Sys2Proof.Machine.execVldg h o s
  | .vstg h o => Sys2Proof.Machine.execVstg h o s
  | .vldb h o => Sys2Proof.Machine.execVldb h o s
  | .bxld h o => Sys2Proof.Machine.execBxld h o s
  | .pref h o => Sys2Proof.Machine.execPref h o s
  | .ordld h o => Sys2Proof.Machine.execOrdld h o s
  | .ordst h o => Sys2Proof.Machine.execOrdst h o s
  | .waita h o => Sys2Proof.Machine.execWaita h o s
  | .cplv h o => Sys2Proof.Machine.execCplv h o s
  | .cpgo h o => Sys2Proof.Machine.execCpgo h o s
  | .cpacc h o => Sys2Proof.Machine.execCpacc h o s
  | .mxstage h o => Sys2Proof.Machine.execMxstage h o s
  | .bfmt h o => Sys2Proof.Machine.execBfmt h o s
  | .bfmtr h o => Sys2Proof.Machine.execBfmtr h o s
  | .saq h o => Sys2Proof.Machine.execSaq h o s
  | .sadrain h => Sys2Proof.Machine.execSadrain h s
  | .fsig h o => Sys2Proof.Machine.execFsig h o s
  | .acqL h o => Sys2Proof.Machine.execAcqL h o s
  | .acqG h o => Sys2Proof.Machine.execAcqG h o s
  | .relL h o => Sys2Proof.Machine.execRelL h o s
  | .relI h o => Sys2Proof.Machine.execRelI h o s
  | .bind h o => Sys2Proof.Machine.execBind h o s
  | .unbind h o => Sys2Proof.Machine.execUnbind h o s
  | .sycas h o => Sys2Proof.Machine.execSycas h o s
  | .syrd h o => Sys2Proof.Machine.execSyrd h o s
  | .xfence h o => Sys2Proof.Machine.execXfence h o s
  | .cstash h o => Sys2Proof.Machine.execCstash h o s
  | .cunstash h o => Sys2Proof.Machine.execCunstash h o s
  | .csend h o => Sys2Proof.Machine.execCsend h o s
  | .cfree h o => Sys2Proof.Machine.execCfree h o s
  | .vrd h o => Sys2Proof.Machine.execVrd h o s
  | .vwr h o => Sys2Proof.Machine.execVwr h o s
  | .vbcast h o => Sys2Proof.Machine.execVbcast h o s
  | .viota h o => Sys2Proof.Machine.execViota h o s
  | .vadd h o => Sys2Proof.Machine.execVadd h o s
  | .vsub h o => Sys2Proof.Machine.execVsub h o s
  | .vmul h o => Sys2Proof.Machine.execVmul h o s
  | .vfma h o => Sys2Proof.Machine.execVfma h o s
  | .vmin h o => Sys2Proof.Machine.execVmin h o s
  | .vmax h o => Sys2Proof.Machine.execVmax h o s
  | .vabs h o => Sys2Proof.Machine.execVabs h o s
  | .vneg h o => Sys2Proof.Machine.execVneg h o s
  | .vand h o => Sys2Proof.Machine.execVand h o s
  | .vor h o => Sys2Proof.Machine.execVor h o s
  | .vxor h o => Sys2Proof.Machine.execVxor h o s
  | .vnot h o => Sys2Proof.Machine.execVnot h o s
  | .vshl h o => Sys2Proof.Machine.execVshl h o s
  | .vshr h o => Sys2Proof.Machine.execVshr h o s
  | .vsha h o => Sys2Proof.Machine.execVsha h o s
  | .vcmp h o => Sys2Proof.Machine.execVcmp h o s
  | .vsel h o => Sys2Proof.Machine.execVsel h o s
  | .vcvt h o => Sys2Proof.Machine.execVcvt h o s
  | .vclmp h o => Sys2Proof.Machine.execVclmp h o s
  | .vscale h o => Sys2Proof.Machine.execVscale h o s
  | .vqnt h o => Sys2Proof.Machine.execVqnt h o s
  | .vexp2 h o => Sys2Proof.Machine.execVexp2 h o s
  | .vlog2 h o => Sys2Proof.Machine.execVlog2 h o s
  | .vrcp h o => Sys2Proof.Machine.execVrcp h o s
  | .vrsq h o => Sys2Proof.Machine.execVrsq h o s
  | .vtanh h o => Sys2Proof.Machine.execVtanh h o s
  | .vsumr h o => Sys2Proof.Machine.execVsumr h o s
  | .vperm h o => Sys2Proof.Machine.execVperm h o s
  | .vmovdP h o => Sys2Proof.Machine.execVmovdP h o s
  | .vbcastP h o => Sys2Proof.Machine.execVbcastP h o s
  | .viotaP h o => Sys2Proof.Machine.execViotaP h o s
  | .vaddP h o => Sys2Proof.Machine.execVaddP h o s
  | .vsubP h o => Sys2Proof.Machine.execVsubP h o s
  | .vmulP h o => Sys2Proof.Machine.execVmulP h o s
  | .vfmaP h o => Sys2Proof.Machine.execVfmaP h o s
  | .vminP h o => Sys2Proof.Machine.execVminP h o s
  | .vmaxP h o => Sys2Proof.Machine.execVmaxP h o s
  | .vabsP h o => Sys2Proof.Machine.execVabsP h o s
  | .vnegP h o => Sys2Proof.Machine.execVnegP h o s
  | .vandP h o => Sys2Proof.Machine.execVandP h o s
  | .vorP h o => Sys2Proof.Machine.execVorP h o s
  | .vxorP h o => Sys2Proof.Machine.execVxorP h o s
  | .vnotP h o => Sys2Proof.Machine.execVnotP h o s
  | .vshlP h o => Sys2Proof.Machine.execVshlP h o s
  | .vshrP h o => Sys2Proof.Machine.execVshrP h o s
  | .vshaP h o => Sys2Proof.Machine.execVshaP h o s
  | .vcmpP h o => Sys2Proof.Machine.execVcmpP h o s
  | .vselP h o => Sys2Proof.Machine.execVselP h o s
  | .vcvtP h o => Sys2Proof.Machine.execVcvtP h o s
  | .vclmpP h o => Sys2Proof.Machine.execVclmpP h o s
  | .vscaleP h o => Sys2Proof.Machine.execVscaleP h o s
  | .vqntP h o => Sys2Proof.Machine.execVqntP h o s
  | .vexp2P h o => Sys2Proof.Machine.execVexp2P h o s
  | .vlog2P h o => Sys2Proof.Machine.execVlog2P h o s
  | .vrcpP h o => Sys2Proof.Machine.execVrcpP h o s
  | .vrsqP h o => Sys2Proof.Machine.execVrsqP h o s
  | .vtanhP h o => Sys2Proof.Machine.execVtanhP h o s
  | .vsumrP h o => Sys2Proof.Machine.execVsumrP h o s
  | .vpermP h o => Sys2Proof.Machine.execVpermP h o s
  | .tmma h o => Sys2Proof.Machine.execTmma h o s
  | .tmms h o => Sys2Proof.Machine.execTmms h o s
  | .tdist h o => Sys2Proof.Machine.execTdist h o s
  | .ttopk h o => Sys2Proof.Machine.execTtopk h o s
  | .accrd h o => Sys2Proof.Machine.execAccrd h o s
  | .accwr h o => Sys2Proof.Machine.execAccwr h o s
  | .accz h o => Sys2Proof.Machine.execAccz h o s
  | .launchSetupDone => Sys2Proof.Machine.execLaunchSetupDone s
  | .timedCompletion n => Sys2Proof.Machine.execTimedCompletion n s
  | .tokenStall => Sys2Proof.Machine.execTokenStall s
  | .slotResult n => Sys2Proof.Machine.execSlotResult n s
  | .mrfAccessStart n => Sys2Proof.Machine.execMrfAccessStart n s
  | .interlockFreeze => Sys2Proof.Machine.execInterlockFreeze s
  | .interlockThaw => Sys2Proof.Machine.execInterlockThaw s
  | .promisedLoadDue n => Sys2Proof.Machine.execPromisedLoadDue n s
  | .loadValueReturn n => Sys2Proof.Machine.execLoadValueReturn n s
  | .storeAcknowledge n => Sys2Proof.Machine.execStoreAcknowledge n s
  | .timedCopyStart n => Sys2Proof.Machine.execTimedCopyStart n s
  | .orderedCopyStart n => Sys2Proof.Machine.execOrderedCopyStart n s
  | .copyComplete n => Sys2Proof.Machine.execCopyComplete n s
  | .stagedCommandIssue => Sys2Proof.Machine.execStagedCommandIssue s
  | .arrayOperandDue n g => Sys2Proof.Machine.execArrayOperandDue n g s
  | .arrayRowFinal n m => Sys2Proof.Machine.execArrayRowFinal n m s
  | .tableWalkEnd n => Sys2Proof.Machine.execTableWalkEnd n s
  | .waitaSatisfied n => Sys2Proof.Machine.execWaitaSatisfied n s
  | .waitaTimeout n => Sys2Proof.Machine.execWaitaTimeout n s
  | .xfenceComplete n => Sys2Proof.Machine.execXfenceComplete n s
  | .saeUpdateApply n => Sys2Proof.Machine.execSaeUpdateApply n s
  | .sadrainComplete n => Sys2Proof.Machine.execSadrainComplete n s
  | .hinvComplete n => Sys2Proof.Machine.execHinvComplete n s
  | .pgreqComplete n => Sys2Proof.Machine.execPgreqComplete n s
  | .fsigStart n => Sys2Proof.Machine.execFsigStart n s
  | .fsigComplete n => Sys2Proof.Machine.execFsigComplete n s
  | .csendComplete n => Sys2Proof.Machine.execCsendComplete n s
  | .cfreeComplete n => Sys2Proof.Machine.execCfreeComplete n s
  | .orderedOpPerform n => Sys2Proof.Machine.execOrderedOpPerform n s
  | .syncOpPerform n => Sys2Proof.Machine.execSyncOpPerform n s
  | .syncReply n => Sys2Proof.Machine.execSyncReply n s
  | .commitRelease n => Sys2Proof.Machine.execCommitRelease n s
  | .strikeReport c => Sys2Proof.Machine.execStrikeReport c s
  | .lateFault n => Sys2Proof.Machine.execLateFault n s
  | .pendingCauseTaken => Sys2Proof.Machine.execPendingCauseTaken s
  | .preemptRequest c => Sys2Proof.Machine.execPreemptRequest c s
  | .coreHalt => Sys2Proof.Machine.execCoreHalt s
  | .preemptDrainEnd => Sys2Proof.Machine.execPreemptDrainEnd s
  | .contextSaveDone => Sys2Proof.Machine.execContextSaveDone s
  | .contextRestore => Sys2Proof.Machine.execContextRestore s
  | .containmentUnwind => Sys2Proof.Machine.execContainmentUnwind s
  | .continuationStart => Sys2Proof.Machine.execContinuationStart s
  | .taskCompletionEvent => Sys2Proof.Machine.execTaskCompletionEvent s
  | .translationDone n => Sys2Proof.Machine.execTranslationDone n s
  | .soundingStart => Sys2Proof.Machine.execSoundingStart s
  | .soundingWindowOpen => Sys2Proof.Machine.execSoundingWindowOpen s
  | .soundingEnd => Sys2Proof.Machine.execSoundingEnd s
  | .mapInstall => Sys2Proof.Machine.execMapInstall s
  | .hpdrvWrite f v => Sys2Proof.Machine.execHpdrvWrite f v s
  | .kick f v => Sys2Proof.Machine.execKick f v s
  | .kickService q => Sys2Proof.Machine.execKickService q s
  | .queueDescriptorWrite f q bs => Sys2Proof.Machine.execQueueDescriptorWrite f q bs s
  | .registerWrite f off v => Sys2Proof.Machine.execRegisterWrite f off v s
  | .errselWrite v => Sys2Proof.Machine.execErrselWrite v s
  | .errorRecordClear v => Sys2Proof.Machine.execErrorRecordClear v s
  | .nopCommand q => Sys2Proof.Machine.execNopCommand q s
  | .launch q => Sys2Proof.Machine.execLaunch q s
  | .waitobj q => Sys2Proof.Machine.execWaitobj q s
  | .setobjRelI q => Sys2Proof.Machine.execSetobjRelI q s
  | .setobjRelL q => Sys2Proof.Machine.execSetobjRelL q s
  | .mark q => Sys2Proof.Machine.execMark q s
  | .chain q => Sys2Proof.Machine.execChain q s
  | .chainResume q => Sys2Proof.Machine.execChainResume q s
  | .completionRecordWrite q => Sys2Proof.Machine.execCompletionRecordWrite q s
  | .nodeStart => Sys2Proof.Machine.execNodeStart s
  | .nodePromotion g n => Sys2Proof.Machine.execNodePromotion g n s
  | .queueCoreTakeover => Sys2Proof.Machine.execQueueCoreTakeover s
  | .s1invPage f v => Sys2Proof.Machine.execS1invPage f v s
  | .s1invAll f v => Sys2Proof.Machine.execS1invAll f v s
  | .s2invPage f v => Sys2Proof.Machine.execS2invPage f v s
  | .s2invAll f v => Sys2Proof.Machine.execS2invAll f v s
  | .invalidationComplete n => Sys2Proof.Machine.execInvalidationComplete n s
  | .fresolveResolve f v => Sys2Proof.Machine.execFresolveResolve f v s
  | .fresolveRefuse f v => Sys2Proof.Machine.execFresolveRefuse f v s
  | .migpoolWrite f v => Sys2Proof.Machine.execMigpoolWrite f v s
  | .migclrPage f v => Sys2Proof.Machine.execMigclrPage f v s
  | .migclrAll f v => Sys2Proof.Machine.execMigclrAll f v s
  | .read p => Sys2Proof.Machine.execRead p s
  | .write p => Sys2Proof.Machine.execWrite p s
  | .answer p => Sys2Proof.Machine.execAnswer p s
  | .sync p => Sys2Proof.Machine.execSync p s
  | .ordered p => Sys2Proof.Machine.execOrdered p s
  | .fsigPacket p => Sys2Proof.Machine.execFsigPacket p s
  | .pgreqPacket p => Sys2Proof.Machine.execPgreqPacket p s
  | .mcwrite p => Sys2Proof.Machine.execMcwrite p s
  | .migrate p => Sys2Proof.Machine.execMigrate p s
  | .mgmt p => Sys2Proof.Machine.execMgmt p s
  | .packetForward input p => Sys2Proof.Machine.execPacketForward input p s
  | .pageMigration n => Sys2Proof.Machine.execPageMigration n s
  | .remoteTimeout n => Sys2Proof.Machine.execRemoteTimeout n s
  | .linkTraining port vmin vmax feat lanes => Sys2Proof.Machine.execLinkTraining port vmin vmax feat lanes s
  | .linkFailure port => Sys2Proof.Machine.execLinkFailure port s
  | .stload v => Sys2Proof.Machine.execStload v s
  | .slotTableStart => Sys2Proof.Machine.execSlotTableStart s
  | .mcdataWrite v => Sys2Proof.Machine.execMcdataWrite v s
  | .hello p => Sys2Proof.Machine.execHello p s
  | .chainEntryIssue => Sys2Proof.Machine.execChainEntryIssue s
  | .chainSyncEntryIssue => Sys2Proof.Machine.execChainSyncEntryIssue s
  | .chainSyncComplete => Sys2Proof.Machine.execChainSyncComplete s
  | .chainGraphComplete => Sys2Proof.Machine.execChainGraphComplete s
  | .slotFree p => Sys2Proof.Machine.execSlotFree p s
  | .chainPayloadLanded p => Sys2Proof.Machine.execChainPayloadLanded p s
  | .pstepWrite v => Sys2Proof.Machine.execPstepWrite v s
  | .pstepPins v => Sys2Proof.Machine.execPstepPins v s
  | .kindlingStep => Sys2Proof.Machine.execKindlingStep s
  | .pfail low => Sys2Proof.Machine.execPfail low s
  | .emberDrainTimeout => Sys2Proof.Machine.execEmberDrainTimeout s
  | .emberImageWritten => Sys2Proof.Machine.execEmberImageWritten s
  | .reset => Sys2Proof.Machine.execReset s
  | .embstatResume => Sys2Proof.Machine.execEmbstatResume s
  | .embstatDiscard => Sys2Proof.Machine.execEmbstatDiscard s
  | .soundingWindowArm v => Sys2Proof.Machine.execSoundingWindowArm v s
  | .mapreq v => Sys2Proof.Machine.execMapreq v s
  | .ckptctlWrite v => Sys2Proof.Machine.execCkptctlWrite v s
  | .markRecord d => Sys2Proof.Machine.execMarkRecord d s
  | .checkpointPageCopy => Sys2Proof.Machine.execCheckpointPageCopy s
  | .stagedWriteAdmit => Sys2Proof.Machine.execStagedWriteAdmit s
  | .sensorEvent c => Sys2Proof.Machine.execSensorEvent c s
  | .cfgload v => Sys2Proof.Machine.execCfgload v s
  | .qreq f v => Sys2Proof.Machine.execQreq f v s
  | .uncorrectableError core a n => Sys2Proof.Machine.execUncorrectableError core a n s
  | .firmwareUpdate version => Sys2Proof.Machine.execFirmwareUpdate version s
  | .reProvisioning => Sys2Proof.Machine.execReProvisioning s

end Sys2Proof.Machine
end

