-- ==== Sys2Proof/Machine/Run.lean ====
section
/-!
DEFINITION. What the machine does next: the event due, or what its phase asks of the core in hand (R12, R13, R19, R55, R124,
R137, R284 to R286, R288, R295, R296).
-/

namespace Sys2Proof.Machine

open Sys2Proof

/-- The outcome of an instruction or event. -/
abbrev Answer := Host.Outcome State Fault Refusal

/-- A unit whose fetch met marked bytes raises UE_CONSUMED, and the error record notes it (R296, R298). -/
def State.fetchMarked (s : State) (a : Nat) : State :=
  let q := seqCode s.who
  let s := if s.core.yields s.who then s else s.updCore fun c => c.noteError 0 3 q a
  (s.trapAtIssue Cause.ueConsumed (BitVec.ofNat 64 a)).pass

/-- A decoded unit whose must-be-zero bits are as `ok` says issues or stands. -/
def State.unitTurn (s : State) (i : Instr) (ok : Bool) : Answer :=
  if ok then exec i s else issueWith false i s fun _ s => .ok s

/-- The sequencer in turn fetches, decodes and issues. -/
def State.fetchTurn (s : State) : Answer :=
  let code := s.codeAt s.who s.seq.pc.toNat
  match decode code with
  | .bad e =>
    let ps := toParcels code
    if !s.core.deltaDone s.who (badDelta ps) then .next s.pass
    else match s.unitMarked (badLen ps) with
      | some a => .next (s.fetchMarked a)
      | none =>
        let t := badUnit s.seq.pc e
        .next (s.trapAtIssue t.1 t.2).pass
  | .unit i len ok =>
    let delta := match i.info with
      | some f => issueDelta i f
      | none => 0
    if !s.core.deltaDone s.who delta then .next s.pass
    else match s.unitMarked len with
      | some a => .next (s.fetchMarked a)
      | none => s.unitTurn i ok

/-- The turn of a sequencer in a pulse. -/
def State.issueTurn (s : State) : Answer :=
  if !s.core.mayIssue s.who then .next s.pass
  else if s.who = .ct && inRuntime s.seq.pc.toNat then .next s.runtimeStep
  else if s.core.stalls s.who then exec .tokenStall s
  else s.fetchTurn

/-- What the machine does next.
Log entry 2 (DESIGN CHOICE). -/
def State.turn (s : State) : Answer :=
  match s.agenda with
  | i :: rest => exec i { s with agenda := rest }
  | [] =>
    match s.phase with
    | .begin => .next s.beginPulse
    | .issue => s.issueTurn
    | .close => .next s.closePulse
    | .rotate => .next s.rotate
    | .hub => .next s.hubStep

/-! A program placed from outside. -/

/-- The sequencer that a placed instruction runs on: the first that its row allows. -/
def placedSeq (i : Option Instr) : SeqId :=
  match i with
  | none => .ct
  | some i => i.seqs.headD .ct

/-- The image of a placed instruction: every sequencer's window is 64 KiB of HBM at address zero, in a native task. Its code is put in
by `State.place`. -/
def placedImage : Image :=
  { portable := false, copyDriven := false, mrfReq := 32, accReq := 256, spadReq := 0x300000, tokq := [], bankf := [],
    specimen := 0, die := 0, cls := 0, mapVer := 1, mapDig := 0, pdig := 0, variant := 0, use := 0, alat := [], live := 0,
    entry := [0, 0, 0, 0], segs := List.replicate 4 ⟨[0], none, 0, 65536, []⟩, safe := [] }

def placedTask (img : Image) : Task :=
  { image := img, argVa := 0, queue := 0, graph := 0, node := 0, seqNo := 0, fn := 0, tenant := 0, rank := 0, width := 1,
    oneCluster := true, gang := 0, level := 0, chain := none, wheel := [], stale := false, src := [] }

/-- Bytes of HBM from address zero on that hold an instruction of `nbits` bits, its longest continuation zeros. -/
def placedBytes (w : Nat) : List Byte := (List.range 16).map fun k => BitVec.ofNat 8 (w / 2 ^ (8 * k))

/-- The machine with an instruction where the next step fetches it: a core runs a task whose code is the instruction, and the
turn is that of a sequencer which may issue it.
Log entry 32 (DESIGN CHOICE). -/
def State.place (s : State) (nbits w : Nat) : State :=
  let v := w % 2 ^ nbits
  let i := match decode (placedBytes v) with
    | .unit i _ _ => some i
    | .bad _ => none
  let q := placedSeq i
  let port := i.any fun i => match i.info with
    | some f => !formAllows false f
    | none => false
  let array := i.any fun i => match i with
    | .mxstage .. => true
    | _ => false
  let img :=
    { placedImage with portable := port, copyDriven := array, segs := List.replicate 4 ⟨[0], none, 0, 65536, placedBytes v⟩ }
  let c := (s.core.updSeq q fun v => { v with pc := 0, ended := false, hold := none, redo := true, waiting := false })
  { s with
    core := { c with status := .running, task := some (placedTask img), trapped := false, ilk := 0, resuming := false }
    who := q, phase := .issue, agenda := []
    hub := { s.hub with hbm := memWrite s.hub.hbm 0 (placedBytes v), hbmUe := setMarks s.hub.hbmUe 0 16 [] } }

end Sys2Proof.Machine
end

