-- ==== Sys2Proof/Machine/Step.lean ====
section
/-!
DEFINITION. One step of the machine.
-/

namespace Sys2Proof.Machine

open Sys2Proof

/-- One step: the next event, issue or turn. -/
def step (s : State) : Host.Outcome State Fault Refusal := s.turn

/-- `s` with an instruction where the next step fetches it. -/
def State.withFetchWord (s : State) (nbits w : Nat) : State := s.place nbits w

end Sys2Proof.Machine
end

