-- ==== Sys2Proof/Safety.lean ====
section
/-!
DEFINITION. What counts as a safe run, in the machine's own terms. No step of this model stops, so a run is judged by what
it leaves: every memory in its one canonical form, every core at a trap level that exists (R284), and no graph killed (R291).
-/

namespace Sys2Proof.Machine

open Sys2Proof

/-- All cores of the package: the one in hand and the others. -/
def State.everyCore (s : State) : List Core := s.core :: s.parked

/-- Every memory is in its canonical form: HBM, the host's, and the scratchpad of every core and of every saved one. -/
def State.memoryOk (s : State) : Bool :=
  Memory.wf s.hub.hbm && Memory.wf s.hub.host && s.everyCore.all fun c => Memory.wf c.spad

/-- Every core's trap level is 0, 1 or 2: level 3 is never held (R287). -/
def State.levelsOk (s : State) : Bool := s.everyCore.all fun c => decide (c.tl ≤ 2)

/-- No graph has been killed and waits to be torn down (R291). -/
def State.nothingKilled (s : State) : Bool := s.hub.kills.isEmpty

/-- A safe state. -/
def State.safe (s : State) : Bool := s.memoryOk && s.levelsOk && s.nothingKilled

/-- The states of a run: those that steps reach from a state. -/
inductive Reaches : State → State → Prop where
  | refl (s : State) : Reaches s s
  | tail {s t u : State} : Reaches s t → step t = .next u → Reaches s u

/-- A safe run from a state: every state it reaches is safe, and none of its steps stops. -/
def SafeFrom (s : State) : Prop := ∀ t, Reaches s t → t.safe = true ∧ ∃ u, step t = .next u

/-! What the statements about single instructions speak of. -/

/-- Whether the sequencer in turn executes a unit now: it passes the decode checks (R137), its tokens and registers are there
(R12, R15), no comparator matches it (R294), no source is early under UDCHK (R26), and its PRED lets it take effect (R131). -/
def State.executes (s : State) (i : Instr) : Bool :=
  match i.info with
  | none => false
  | some f =>
    (decodeCheck i f true s.core s.who).isNone && canIssue i f s.core s.who && s.seq.breakAt.isNone &&
      !earlyReg (checkedRegs s.seq i f) s.core s.who && !suppressed s.seq f

/-- The SIGNAL byte of a unit (R136). -/
def unitSignal (i : Instr) : BitVec 8 := (i.info.map (·.signal)).getD 0

/-- The prefixes of a unit. -/
def unitPfx (i : Instr) : Pfx := (i.info.map (·.pfx)).getD Pfx.none

/-- The address after a unit of the sequencer in turn (R124, R126). -/
def State.nextPc (s : State) (i : Instr) : Word := s.seq.pc + BitVec.ofNat 64 (4 * (i.info.map unitParcels).getD 0)

/-- A timed instruction that the sequencer in turn issues now: it completes after `lat` cycles with some writes (R16, R157). -/
def State.pending (s : State) (i : Instr) (lat : Nat) (ws : List RegWrite) : Pending :=
  ⟨s.core.nextId, s.who = .mx, s.core.now s.who + lat, s.who, s.seq.pc, ws, unitSignal i⟩

/-- Every byte of memory is as it was: HBM, the host's, and every scratchpad. -/
structure SameMemory (s t : State) : Prop where
  hbm : ∀ a, memGet t.hub.hbm a = memGet s.hub.hbm a
  host : ∀ a, memGet t.hub.host a = memGet s.hub.host a
  spad : ∀ a, memGet t.core.spad a = memGet s.core.spad a
  others : t.parked.map (·.spad) = s.parked.map (·.spad)

/-- Every register of the four sequencers but their PCs and loop stacks is as it was (R10, R20, R76, R168, R256). -/
structure SameRegisters (c d : Core) : Prop where
  x : ∀ q r, (d.seq q).getX r = (c.seq q).getX r
  poison : ∀ q r, (d.seq q).getXP r = (c.seq q).getXP r
  p : ∀ q r, (d.seq q).getP r = (c.seq q).getP r
  level : ∀ q n, (d.seq q).getCl n = (c.seq q).getCl n
  tmask : ∀ q, (d.seq q).tmask = (c.seq q).tmask
  seed : ∀ q, (d.seq q).srseed = (c.seq q).srseed

/-- The vector registers, accumulators, handles, bank formats and patterns of a core are as they were. -/
structure SameStores (c d : Core) : Prop where
  mrf : ∀ k, AMap.get 0 d.mrf k = AMap.get 0 c.mrf k
  acc : ∀ row col, d.getAcc row col = c.getAcc row col
  hnd : ∀ r, d.getH r = c.getH r
  bf : ∀ b, d.getBf b = c.getBf b
  bx : ∀ n, AMap.get [] d.bx n = AMap.get [] c.bx n

/-- The trap registers and the core's other registers are as they were (R20, R26, R178, R230, R287, R300, R419). -/
structure SameSpecials (c d : Core) : Prop where
  tl : d.tl = c.tl
  ecause : d.ecause1 = c.ecause1 ∧ d.ecause2 = c.ecause2
  epc : d.epc1 = c.epc1 ∧ d.epc2 = c.epc2
  eaddr : d.eaddr1 = c.eaddr1 ∧ d.eaddr2 = c.eaddr2
  eseq : d.eseq1 = c.eseq1 ∧ d.eseq2 = c.eseq2
  tvec : d.tvec1 = c.tvec1 ∧ d.tvec2 = c.tvec2
  ret : d.ret1 = c.ret1 ∧ d.ret2 = c.ret2
  chkcfg : d.chkcfg = c.chkcfg
  cycle : d.cycle = c.cycle
  mapver : d.mapver = c.mapver
  rbase : d.rbase = c.rbase
  array : d.bvalid = c.bvalid ∧ d.suspended = c.suspended
  tkwdog : d.tkwdog = c.tkwdog
  fstat : d.fstat = c.fstat
  replays : d.replays = c.replays
  errrec : d.errrec = c.errrec
  regions : d.regions = c.regions

/-- The loop stacks and ends of the four sequencers are as they were. -/
def SameLoops (c d : Core) : Prop := ∀ q, (d.seq q).loops = (c.seq q).loops ∧ (d.seq q).ended = (c.seq q).ended

/-- The other sequencers' PCs are as they were. -/
def OtherPcs (q : SeqId) (c d : Core) : Prop := ∀ p, p ≠ q → (d.seq p).pc = (c.seq p).pc

/-- The tokens that a unit's wait takes are gone from their queue, and every other count is as it was (R15). -/
def TookTokens (i : Instr) (c d : Core) : Prop :=
  ∀ n, (d.getTok n).count =
    (c.getTok n).count - match i.info.bind (tokenWait i) with
      | some (q, k) => if q = n then k else 0
      | none => 0

/-- What an instruction that writes nothing as it issues leaves unchanged. -/
structure Unwritten (i : Instr) (s t : State) : Prop where
  memory : SameMemory s t
  registers : SameRegisters s.core t.core
  stores : SameStores s.core t.core
  specials : SameSpecials s.core t.core
  pcs : OtherPcs s.who s.core t.core
  tokens : TookTokens i s.core t.core

end Sys2Proof.Machine
end

