-- ==== Sys2Proof/Certificates/Slice0/Obligations.lean ====
section
/-!
DEFINITION. The statements for the provers: what the numbered rules of spec/ say of the machine, in the model's own terms.
-/

namespace Sys2Proof.Machine

/-! Traps (R284 to R294). -/

/-- The trap registers of a level (R287), with CT's banked return address (R289). -/
structure TrapSet where
  cause : Word
  epc : Word
  eaddr : Word
  eseq : Word
  ret : Word
  deriving DecidableEq, Repr

def Core.trapSet (c : Core) (n : Nat) : TrapSet :=
  if n = 1 then ⟨c.ecause1, c.epc1, c.eaddr1, c.eseq1, c.ret1⟩ else ⟨c.ecause2, c.epc2, c.eaddr2, c.eseq2, c.ret2⟩

/-- The vector of a level. -/
def Core.tvec (c : Core) (n : Nat) : Word := if n = 1 then c.tvec1 else c.tvec2

/-- A core with the trap level and the trap registers of another. -/
def Core.withTrapsOf (d c : Core) : Core :=
  { d with
    tl := c.tl, ecause1 := c.ecause1, epc1 := c.epc1, eaddr1 := c.eaddr1, eseq1 := c.eseq1, ret1 := c.ret1,
    ecause2 := c.ecause2, epc2 := c.epc2, eaddr2 := c.eaddr2, eseq2 := c.eseq2, ret2 := c.ret2 }

/-- What traps and returns leave alone: memory, registers, stores, every special register that is no trap register, tokens, loop
stacks, and the PCs of LD, MX and ST unless named. -/
structure OutsideTraps (s t : State) : Prop where
  memory : SameMemory s t
  registers : SameRegisters s.core t.core
  stores : SameStores s.core t.core
  specials : SameSpecials s.core (t.core.withTrapsOf s.core)
  loops : SameLoops s.core t.core
  tokens : ∀ n, t.core.getTok n = s.core.getTok n
  work : t.core.flight = s.core.flight ∧ t.core.cmds = s.core.cmds ∧ t.core.done = s.core.done ∧ t.core.posts = s.core.posts
  package : t.hub = s.hub ∧ t.parked = s.parked

/-- TrapEntry of R284 below TL 2, for a cause raised at issue: the registers of the next level name the sequencer, its unit, the cause
and the address; CT's PC is banked where another sequencer traps; CT goes to the vector of the level. -/
structure Entered (s t : State) (q : SeqId) (cause : Cause) (epc eaddr : Word) : Prop where
  level : t.core.tl = s.core.tl + 1
  saved : t.core.trapSet (s.core.tl + 1) =
    ⟨cause.setWidth 64, epc, eaddr, BitVec.ofNat 64 (seqCode q),
      if q = .ct then (s.core.trapSet (s.core.tl + 1)).ret else s.core.ct.pc⟩
  others : s.core.tl = 0 → t.core.trapSet 2 = s.core.trapSet 2
  below : s.core.tl = 1 → t.core.trapSet 1 = s.core.trapSet 1
  vector : t.core.ct.pc = s.core.tvec (s.core.tl + 1)
  pcs : t.core.ld.pc = s.core.ld.pc ∧ t.core.mx.pc = s.core.mx.pc ∧ t.core.st.pc = s.core.st.pc
  rest : OutsideTraps s t

/-- A unit of the sequencer in turn traps at issue: it has no effect, and the trap is entered. -/
def TrapsWith (i : Instr) (s : State) (cause : Cause) (eaddr : Word) : Prop :=
  ∃ t, exec i s = .next t ∧ Entered s t s.who cause s.seq.pc eaddr

/-- No trap was raised this cycle, and no pending cause comes before one of the sequencer in turn (R286); the core is below TL 2. -/
def State.mayEnter (s : State) : Prop := s.core.yields s.who = false ∧ s.core.tl < 2

/-- A core after a kill (R291): its sequencers are idle, nothing timed is in flight, no posts are to be made, and nothing is left in
the commit buffer; what had left the buffer goes on without flag or post, and with nothing left the core has no task. -/
structure StoppedByKill (c d : Core) : Prop where
  killed : d = c.killed
  timed : d.done = [] ∧ d.posts = [] ∧ d.mwr = [] ∧ d.arr = [] ∧ d.drives = [] ∧ d.slotRes = []
  sequencers : ∀ q, d.seq q = Seq.initial
  left : (∀ f ∈ d.flight, f.quiet = true ∧ f.stage ≠ .commit) ∧ (∀ k ∈ d.cmds, k.quiet = true ∧ k.stage = .away) ∧
    ∀ t ∈ d.sae, t.quiet = true ∧ t.fault = none
  task : if d.flight = [] ∧ d.cmds = [] ∧ d.sae = [] then d.status = .free ∧ d.task = none else d.status = .killed ∧ d.task = c.task
  scratchpad : ∀ a, memGet d.spad a = memGet c.spad a

/-- A trap raised at TL 2 kills the graph: every core that runs a task of it stops, the others and memory are as they were, and the
graph is noted as killed with the cause and the node. -/
def Kills (i : Instr) (s : State) (cause : Nat) : Prop :=
  ∀ k, s.core.task = some k → ∃ t, exec i s = .next t ∧ StoppedByKill s.core t.core ∧
    t.parked = s.parked.map (fun c => if c.status ≠ .killed ∧ c.task.any (fun u => u.graph = k.graph) then c.killed else c) ∧
    t.hub = { s.hub with kills := s.hub.kills ++ [(k.graph, cause, k.node)] } ∧ SameMemory s t

end Sys2Proof.Machine

namespace Sys2Proof.Machine

open Sys2Proof

/-! Timed instructions (R16, R157). -/

/-- A unit of the sequencer in turn completes: after `lat` cycles it will make some register writes; its PC moves past it; nothing
else that a program reads has changed as it issues. -/
def Completes (i : Instr) (s : State) (lat : Nat) (ws : List RegWrite) : Prop :=
  ∃ t, exec i s = .next t ∧ t.core.done = s.core.done ++ [s.pending i lat ws] ∧ (t.core.seq s.who).pc = s.nextPc i ∧
    SameLoops s.core t.core ∧ Unwritten i s t ∧ t.hub = s.hub ∧ t.parked = s.parked

/-! The arithmetic of R161 to R163, on natural numbers and integers. -/

/-- A w-bit pattern as a signed number. -/
def signedOf (w a : Nat) : Int := if a < 2 ^ (w - 1) then (a : Int) else (a : Int) - 2 ^ w

/-- An integer narrowed to w bits. -/
def narrow (w : Nat) (x : Int) : Nat := (x % 2 ^ w).toNat

/-- A w-bit result in a register: sign-extended from bit w - 1. -/
def extended (w a : Nat) : Word := BitVec.ofInt 64 (signedOf w a)

/-- What a row of R161 computes: destination, sources, width bit, latency, and the result on w-bit values. -/
structure AluRow where
  d : BitVec 5
  a : BitVec 5
  b : BitVec 5
  w : Bool
  lat : Nat
  f : Nat → Nat → Nat → Nat

def AluRow.of (o : RRR) (lat : Nat) (f : Nat → Nat → Nat → Nat) : AluRow := ⟨o.d, o.a, o.b, o.w, lat, f⟩

/-- The rows of R161 from ADD to MULH, CLZ and POPC. -/
def aluRow : Instr → Option AluRow
  | .add _ o => some (.of o 1 fun w a b => (a + b) % 2 ^ w)
  | .sub _ o => some (.of o 1 fun w a b => narrow w (a - b))
  | .and _ o => some (.of o 1 fun _ a b => a &&& b)
  | .or _ o => some (.of o 1 fun _ a b => a ||| b)
  | .xor _ o => some (.of o 1 fun _ a b => a ^^^ b)
  | .andn _ o => some (.of o 1 fun w a b => a &&& (2 ^ w - 1 - b))
  | .shl _ o => some (.of o 1 fun w a b => a * 2 ^ (b % w) % 2 ^ w)
  | .shr _ o => some (.of o 1 fun w a b => a / 2 ^ (b % w))
  | .sha _ o => some (.of o 1 fun w a b => narrow w (signedOf w a / 2 ^ (b % w)))
  | .rot _ o => some (.of o 1 fun w a b => (a * 2 ^ (b % w) + a / 2 ^ (w - b % w)) % 2 ^ w)
  | .min _ o => some (.of o 1 fun w a b => if signedOf w a ≤ signedOf w b then a else b)
  | .max _ o => some (.of o 1 fun w a b => if signedOf w a ≤ signedOf w b then b else a)
  | .minu _ o => some (.of o 1 fun _ a b => Nat.min a b)
  | .maxu _ o => some (.of o 1 fun _ a b => Nat.max a b)
  | .mul _ o => some (.of o 3 fun w a b => a * b % 2 ^ w)
  | .mulh _ o => some (.of o 3 fun w a b => narrow w (signedOf w a * signedOf w b / 2 ^ w))
  | .clz _ o => some ⟨o.d, o.a, 0, o.w, 1, fun w a _ => if a = 0 then w else w - 1 - a.log2⟩
  | .popc _ o => some ⟨o.d, o.a, 0, o.w, 1, fun w a _ => ((List.range w).filter fun k => a / 2 ^ k % 2 = 1).length⟩
  | _ => none

/-- The width of a .w form, or of a full one. -/
def widthOf (w : Bool) : Nat := if w then 32 else 64

/-- A source of the sequencer in turn: its value, and whether it is poisoned. -/
def State.src (s : State) (r : BitVec 5) : Nat := (s.seq.getX r).toNat
def State.bad (s : State) (r : BitVec 5) : Bool := s.seq.getXP r

/-- The write that a row makes in the end. -/
def AluRow.write (r : AluRow) (s : State) : RegWrite :=
  let w := widthOf r.w
  .x s.who r.d (extended w (r.f w (s.src r.a % 2 ^ w) (s.src r.b % 2 ^ w))) (s.bad r.a || s.bad r.b)

/-- An immediate field of n bits with an optional IMM prefix above it, as a signed number (R130). -/
def immInt' (p : Option (BitVec 25)) (n v : Nat) : Int :=
  match p with
  | none => signedOf n v
  | some q => signedOf (n + 25) (q.toNat * 2 ^ n + v)

/-- What a row of R162 computes from the source and the immediate, as an integer to be narrowed to 64 bits. -/
def immRow : Instr → Option (RI × Option (BitVec 25) × (Nat → Int → Int))
  | .addi h o => some (o, h.pfx.imm, fun a i => a + i)
  | .andi h o => some (o, h.pfx.imm, fun a i => ((a &&& narrow 64 i : Nat) : Int))
  | .ori h o => some (o, h.pfx.imm, fun a i => ((a ||| narrow 64 i : Nat) : Int))
  | .xori h o => some (o, h.pfx.imm, fun a i => ((a ^^^ narrow 64 i : Nat) : Int))
  | .shli h o => some (o, h.pfx.imm, fun a i => a * 2 ^ i.toNat)
  | .shri h o => some (o, h.pfx.imm, fun a i => a / 2 ^ i.toNat)
  | .shai h o => some (o, h.pfx.imm, fun a i => signedOf 64 a / 2 ^ i.toNat)
  | _ => none

/-- Quotient and remainder of R85: truncated towards zero, the remainder with the sign of the dividend; by zero all ones and the
dividend; the most negative number by minus one itself and zero. -/
def quotOf (signed : Bool) (w a b : Nat) : Nat :=
  if b = 0 then 2 ^ w - 1
  else if signed then narrow w ((signedOf w a).tdiv (signedOf w b)) else a / b
def remOf (signed : Bool) (w a b : Nat) : Nat :=
  if b = 0 then a
  else if signed then narrow w ((signedOf w a).tmod (signedOf w b)) else a % b

/-- The rows of R85: whether signed, and the result. -/
def divRow : Instr → Option (RRR × Bool × (Nat → Nat → Nat → Nat))
  | .div _ o => some (o, true, quotOf true)
  | .divu _ o => some (o, false, quotOf false)
  | .rem _ o => some (o, true, remOf true)
  | .remu _ o => some (o, false, remOf false)
  | _ => none

/-- The cause that a divide of two clean w-bit values traps with under a TMASK: DIVZERO for a zero divisor where bit 0 is set, and
INT_OVERFLOW for the most negative number by minus one, signed, where bit 1 is. -/
def divCause (signed : Bool) (w a b : Nat) (tmask : Word) : Option Cause :=
  if b = 0 ∧ tmask.getLsbD 0 then some Cause.divZero
  else if signed ∧ a = 2 ^ (w - 1) ∧ b = 2 ^ w - 1 ∧ tmask.getLsbD 1 then some Cause.intOverflow
  else none

/-- A condition of R147 and R164 on two w-bit values: eq, ne, lt, ge, ltu, geu. -/
def condMet (c w a b : Nat) : Bool :=
  match c with
  | 0 => decide (a = b)
  | 1 => decide (a ≠ b)
  | 2 => decide (signedOf w a < signedOf w b)
  | 3 => decide (signedOf w b ≤ signedOf w a)
  | 4 => decide (a < b)
  | _ => decide (b ≤ a)

/-- What a compare of R164 compares: destination, condition, width bit, the first source, the second operand, and the sources that
must be clean. -/
def cmpRow (s : State) : Instr → Option (BitVec 3 × BitVec 4 × Bool × BitVec 5 × Nat × List (BitVec 5))
  | .cmp _ o => some (o.e, o.c, o.w, o.a, s.src o.b, [o.a, o.b])
  | .cmpi h o => some (o.e, o.c, false, o.a, narrow 64 (immInt' h.pfx.imm 11 o.i.toNat), [o.a])
  | .cmpL _ o => some (o.e, o.c, o.w, o.a, narrow 64 (signedOf 24 o.i.toNat), [o.a])
  | _ => none

/-- The rows of R165: destination, sources, and the result lane by lane. -/
def predRow : Instr → Option (BitVec 3 × BitVec 3 × BitVec 3 × (Bool → Bool → Bool))
  | .pand _ o => some (o.e, o.f, o.g, fun a b => a && b)
  | .por _ o => some (o.e, o.f, o.g, fun a b => a || b)
  | .pxor _ o => some (o.e, o.f, o.g, fun a b => a != b)
  | .pnot _ o => some (o.e, o.f, o.f, fun a _ => !a)
  | .pmov _ o => some (o.e, o.f, o.f, fun a _ => a)
  | _ => none

/-- A predicate word whose lane e holds `f e`. -/
def lanes (f : Nat → Bool) : PWord := BitVec.ofNat 32 ((List.range 32).foldl (fun acc e => acc + if f e then 2 ^ e else 0) 0)

/-- The registers of R10 after one more write lands: only the register named changes, and neither X0 nor P0. -/
def LandsX (q : SeqId) (r : BitVec 5) (v : Word) (poison : Bool) (c d : Core) : Prop :=
  ∀ p t, (d.seq p).getX t = (if p = q ∧ t = r ∧ t ≠ 0 then v else (c.seq p).getX t) ∧
    (d.seq p).getXP t = if p = q ∧ t = r ∧ t ≠ 0 then poison else (c.seq p).getXP t
/-- The SIGNAL post of an instruction that completes (R16). -/
def PostsSignal (p : Pending) (c d : Core) : Prop :=
  d.posts = c.posts ++ match byteTokens p.sig with
    | some (queue, k) => [⟨p.id, p.q, p.pc, queue, k⟩]
    | none => []
def LandsP (q : SeqId) (r : BitVec 3) (v : PWord) (c d : Core) : Prop :=
  ∀ p t, (d.seq p).getP t = if p = q ∧ t = r ∧ t ≠ 0 then v else (c.seq p).getP t

end Sys2Proof.Machine

open Sys2Proof Sys2Proof.Machine

/-- R161 with R157 and R159: ADD to MULH, CLZ and POPC, SEL and MOV, in both widths. The result, with its poison, is written after
the latency; nothing else that a program reads changes. -/
def Obligations.ScalarArithmeticResults : Prop :=
  (∀ i s r, aluRow i = some r → s.executes i = true → Completes i s r.lat [r.write s]) ∧
  (∀ h o s, s.executes (.sel h o) = true → Completes (.sel h o) s 1
    [.x s.who o.d (let w := widthOf o.w
      extended w ((if (s.seq.getP o.t).getLsbD 0 then s.src o.a else s.src o.b) % 2 ^ w)) (s.bad o.a || s.bad o.b)]) ∧
  (∀ h o s, s.executes (.mov h o) = true → Completes (.mov h o) s 1 [.x s.who o.d (s.seq.getX o.a) (s.bad o.a)])

/-- R162 and R163 with R130, R157 and R159: ADDI to LI with their immediates, ADDI.L, LIH and MAD. -/
def Obligations.ScalarImmediateResults : Prop :=
  (∀ i s o p f, immRow i = some (o, p, f) → s.executes i = true → Completes i s 1
    [.x s.who o.d (BitVec.ofInt 64 (f (s.src o.a) (immInt' p 13 o.i.toNat))) (s.bad o.a)]) ∧
  (∀ h o s, s.executes (.li h o) = true → Completes (.li h o) s 1
    [.x s.who o.d (BitVec.ofInt 64 (immInt' h.pfx.imm 13 o.i.toNat)) false]) ∧
  (∀ h o s, s.executes (.addiL h o) = true → Completes (.addiL h o) s 1
    [.x s.who o.d (let w := widthOf o.w
      extended w (narrow w (s.src o.a + signedOf 26 o.i.toNat))) (s.bad o.a)]) ∧
  (∀ h o s, s.executes (.lih h o) = true → Completes (.lih h o) s 1
    [.x s.who o.d (BitVec.ofNat 64 (o.i.toNat * 2 ^ 32 + s.src o.d % 2 ^ 32)) (s.bad o.d)]) ∧
  (∀ h o s, s.executes (.mad h o) = true → Completes (.mad h o) s 3
    [.x s.who o.d (let w := widthOf o.w
      extended w ((s.src o.a * s.src o.b + s.src o.c) % 2 ^ w)) (s.bad o.a || s.bad o.b || s.bad o.c)])

/-- R85 with R157 and R159: DIV, DIVU, REM and REMU give the quotient or remainder after 20 cycles, or 12 with .w, where they do not
trap; a poisoned source never traps. Where TMASK asks for it, a divide by zero and INT_MIN by -1 trap at issue. -/
def Obligations.DivideResults : Prop :=
  (∀ i s o signed f, divRow i = some (o, signed, f) → s.executes i = true →
    (s.bad o.a || s.bad o.b || (let w := widthOf o.w
      (divCause signed w (s.src o.a % 2 ^ w) (s.src o.b % 2 ^ w) s.seq.tmask).isNone)) = true →
    Completes i s (if o.w then 12 else 20)
      [.x s.who o.d (let w := widthOf o.w
        extended w (f w (s.src o.a % 2 ^ w) (s.src o.b % 2 ^ w))) (s.bad o.a || s.bad o.b)]) ∧
  (∀ i s o signed f cause, divRow i = some (o, signed, f) → s.executes i = true → s.mayEnter → (s.bad o.a || s.bad o.b) = false →
    divCause signed (widthOf o.w) (s.src o.a % 2 ^ widthOf o.w) (s.src o.b % 2 ^ widthOf o.w) s.seq.tmask = some cause →
    TrapsWith i s cause 0)

/-- R164 and R165 with R160, R157 and R159: a compare of clean sources writes all ones or all zeros to its predicate register, and the
predicate operations work lane by lane. -/
def Obligations.CompareAndPredicateResults : Prop :=
  (∀ i s e c w a b rs, cmpRow s i = some (e, c, w, a, b, rs) → s.executes i = true → rs.any s.bad = false → Completes i s 1
    [.p s.who e (lanes fun _ => condMet c.toNat (widthOf w) (s.src a % 2 ^ widthOf w) (b % 2 ^ widthOf w))]) ∧
  (∀ i s e f g op, predRow i = some (e, f, g, op) → s.executes i = true → Completes i s 1
    [.p s.who e (lanes fun k => op ((s.seq.getP f).getLsbD k) ((s.seq.getP g).getLsbD k))])

namespace Sys2Proof.Machine

/-! Control transfer (R166 to R173). -/

/-- Timed and untimed work in flight is as it was. -/
structure SameWork (c d : Core) : Prop where
  untimed : d.flight = c.flight ∧ d.cmds = c.cmds ∧ d.sae = c.sae
  row : d.drives = c.drives ∧ d.slotRes = c.slotRes ∧ d.mwr = c.mwr
  array : d.arr = c.arr ∧ d.accWr = c.accWr ∧ d.topk = c.topk ∧ d.staged = c.staged ∧ d.heldB = c.heldB

/-- What a unit of the control families does to its own sequencer: the PC, the loop stack, whether it ends, the instructions that it
adds to those that complete later, and the posts it makes. -/
structure Shape where
  pc : Word
  loops : List LoopEntry
  ended : Bool
  done : List Pending
  posts : List Post

/-- A unit of the sequencer in turn does what a shape says, and changes nothing else that a program reads. -/
def Runs (i : Instr) (s : State) (e : Shape) : Prop :=
  ∃ t, exec i s = .next t ∧
    ((t.core.seq s.who).pc = e.pc ∧ (t.core.seq s.who).loops = e.loops ∧ (t.core.seq s.who).ended = e.ended) ∧
    t.core.done = s.core.done ++ e.done ∧ t.core.posts = s.core.posts ++ e.posts ∧
    (∀ q, q ≠ s.who → (t.core.seq q).loops = (s.core.seq q).loops ∧ (t.core.seq q).ended = (s.core.seq q).ended) ∧
    Unwritten i s t ∧ SameWork s.core t.core ∧ t.hub = s.hub ∧ t.parked = s.parked

/-- A unit that only goes to an address, with the loop stack given. -/
def GoesTo (i : Instr) (s : State) (a : Word) (loops : List LoopEntry) (done : List Pending := []) : Prop :=
  Runs i s ⟨a, loops, s.seq.ended, done, []⟩

/-- The address `off` parcels from the unit (R166). -/
def State.away (s : State) (off : Int) : Word := BitVec.ofInt 64 (s.seq.pc.toNat + 4 * off)

/-- Whether an address lies in the range of a loop. -/
def inLoop (e : LoopEntry) (a : Word) : Prop := e.start.toNat ≤ a.toNat ∧ a.toNat ≤ e.last.toNat

/-- The loop stack after a branch (R170): the entries left from the top on are those that hold the branch and not its target. -/
def IsLeft (pc a : Word) (before after : List LoopEntry) : Prop :=
  ∃ gone, before = gone ++ after ∧ (∀ e ∈ gone, inLoop e pc ∧ ¬ inLoop e a) ∧ ∀ e ∈ after.head?, ¬ (inLoop e pc ∧ ¬ inLoop e a)

/-- A taken branch of R170. -/
def Branches (i : Instr) (s : State) (a : Word) (done : List Pending := []) : Prop :=
  ∃ loops, IsLeft s.seq.pc a s.seq.loops loops ∧ GoesTo i s a loops done

/-- A unit that goes on behind itself. -/
def FallsThrough (i : Instr) (s : State) (done : List Pending := []) : Prop := GoesTo i s (s.nextPc i) s.seq.loops done

/-- The LOOP rows of R168: offset to the ENDL and count. -/
def loopRow (s : State) : Instr → Option (Int × Nat × Bool)
  | .loop _ o => some (o.o.toInt, (s.seq.getX o.a).toNat, s.bad o.a)
  | .loopL _ o => some (o.o.toInt, o.n.toNat, false)
  | _ => none

/-- LOOP.L completes a cycle after it issues (R157). -/
def loopDone (s : State) (i : Instr) : List Pending :=
  match i with
  | .loopL .. => [s.pending i 1 []]
  | _ => []

/-- NOP, YIELD and TKWAIT: what they wait for apart, they only go on. -/
def idleRow : Instr → Bool
  | .nop .. | .yield .. | .tkwait .. => true
  | _ => false

end Sys2Proof.Machine

open Sys2Proof Sys2Proof.Machine

/-- R169 with R168: LOOP and LOOP.L push an entry, or with a count of 0 go on behind the ENDL; ENDL returns to the start with the
count lowered, and pops the entry at the last pass. An offset that is not positive, a fifth loop and an ENDL that is not the top
entry's raise ILLEGAL_FIELD. -/
def Obligations.LoopsRunTheirCount : Prop :=
  (∀ i s off n, loopRow s i = some (off, n, false) → s.executes i = true → 0 < off → 0 < n → s.seq.loops.length < 4 →
    GoesTo i s (s.nextPc i) (⟨s.nextPc i, s.away off, BitVec.ofNat 64 n⟩ :: s.seq.loops) (loopDone s i)) ∧
  (∀ i s off, loopRow s i = some (off, 0, false) → s.executes i = true → 0 < off →
    GoesTo i s (s.away (off + 1)) s.seq.loops (loopDone s i)) ∧
  (∀ h s e es, s.executes (.endl h) = true → s.seq.loops = e :: es → e.last = s.seq.pc →
    if e.remain = 1 then GoesTo (.endl h) s (s.seq.pc + 4) es
    else GoesTo (.endl h) s e.start ({ e with remain := e.remain - 1 } :: es)) ∧
  (∀ i s off n, loopRow s i = some (off, n, false) → s.executes i = true → s.mayEnter →
    (off ≤ 0 ∨ 0 < n ∧ s.seq.loops.length ≥ 4) → TrapsWith i s 0x03 0) ∧
  (∀ h s, s.executes (.endl h) = true → s.mayEnter → (∀ e ∈ s.seq.loops.head?, e.last ≠ s.seq.pc) → TrapsWith (.endl h) s 0x03 0)

/-- R171 and R172 with R174: TKPOST posts in its issue cycle, TKWAIT takes its tokens, TKCNT reads the count as it stood before this
cycle's posts and waits, NOP, YIELD and NOP.L do nothing.
Moreover: R173 and R175: TASKEND ends its sequencer and discards its loop stack; a SAFEPT that is no safe point, or at which the safe point
does not hold, and one of a task that is not stale, does nothing else; what it leads to for a portable task is the next thing the core
does. R331 and R293: one of a stale task at which the safe point holds traps with MAP_STALE. -/
def Obligations.TokenNopAndTaskEndResults : Prop :=
  (
  (∀ h o s, s.executes (.tkpost h o) = true →
    Runs (.tkpost h o) s ⟨s.nextPc (.tkpost h o), s.seq.loops, s.seq.ended, [],
      [⟨s.core.nextId, s.who, s.seq.pc, o.q.toNat, o.n.toNat + 1⟩]⟩) ∧
  (∀ i s, idleRow i = true → s.executes i = true → FallsThrough i s) ∧
  (∀ h o s, s.executes (.tkcnt h o) = true → Completes (.tkcnt h o) s 1
    [.x s.who o.d (BitVec.ofNat 64 ((s.core.getTok o.q.toNat).count + (s.core.getTok o.q.toNat).taken)) false]) ∧
  (∀ h s, s.executes (.nopL h) = true → Completes (.nopL h) s 1 [])) ∧
  (
  (∀ h s, s.executes (.taskend h) = true → (s.who ≠ .ct ∨ s.core.tl = 0 ∧ s.core.regions = []) →
    Runs (.taskend h) s ⟨s.nextPc (.taskend h), [], true, [], []⟩) ∧
  (∀ h s, s.executes (.safept h) = true → (safeEntry s.core s.seq.pc = none ∨
      (∀ i, safeEntry s.core s.seq.pc = some i → s.core.safeHolds i = false) ∨ ∀ t, s.core.task = some t → t.stale = false) →
    FallsThrough (.safept h) s) ∧
  (∀ h s i k, s.executes (.safept h) = true → s.mayEnter → safeEntry s.core s.seq.pc = some i → s.core.task = some k → k.stale = true →
    s.core.safeHolds i = true → TrapsWith (.safept h) s 0x42 0))

/-- R166 and R170 with R167: BR, BP, BNP, CALL, RET and JMPX go to their target, or on; only the branches adjust the loop stack, and
CALL writes its link to X31 without poison.
Moreover: R185 and R186 with R170: CHKP branches on a poison bit and CHKR on a predicate bit, that of another sequencer as it stood when the
cycle began; else they go on. Either way they complete in a cycle and write nothing. -/
def Obligations.BranchesReachTheirTargets : Prop :=
  (
  (∀ h o s, s.executes (.br h o) = true → Branches (.br h o) s (s.away o.o.toInt)) ∧
  (∀ h o s, s.executes (.bp h o) = true →
    if (s.seq.getP o.f).getLsbD 0 then Branches (.bp h o) s (s.away o.o.toInt) else FallsThrough (.bp h o) s) ∧
  (∀ h o s, s.executes (.bnp h o) = true →
    if (s.seq.getP o.f).getLsbD 0 then FallsThrough (.bnp h o) s else Branches (.bnp h o) s (s.away o.o.toInt)) ∧
  (∀ h o s, s.executes (.call h o) = true → GoesTo (.call h o) s (s.away o.o.toInt) s.seq.loops
    [s.pending (.call h o) 1 [.x s.who 31 (s.seq.pc + 4) false]]) ∧
  (∀ h o s, s.executes (.ret h o) = true → s.bad o.a = false → s.src o.a % 4 = 0 →
    GoesTo (.ret h o) s (s.seq.getX o.a) s.seq.loops) ∧
  (∀ h o s, s.executes (.jmpx h o) = true → s.bad o.a = false → s.src o.a % 4 = 0 →
    Branches (.jmpx h o) s (s.seq.getX o.a))) ∧
  (
  (∀ h o s, s.executes (.chkpX h o) = true →
    let done := [s.pending (.chkpX h o) 1 []]
    if s.bad o.a then Branches (.chkpX h o) s (s.away o.o.toInt) done else FallsThrough (.chkpX h o) s done) ∧
  (∀ h o s, s.executes (.chkr h o) = true →
    let done := [s.pending (.chkr h o) 1 []]
    let q := seqOf o.sq.toNat
    if (if q = s.who then s.seq.getP o.pr else s.core.pBefore q o.pr) = 0 then FallsThrough (.chkr h o) s done
    else Branches (.chkr h o) s (s.away o.o.toInt) done) ∧
  (∀ h o s, s.executes (.chkpMrf h o) = true → s.core.udchk = false →
    let m := physOp s.core.rbase o.m
    let done := [s.pending (.chkpMrf h o) 1 []]
    if (s.core.reserve .read m s.core.cycle).1 ≠ s.core.cycle ∨ (readVec s.core.mrf m).poison ≠ 0
    then Branches (.chkpMrf h o) s (s.away o.o.toInt) done else FallsThrough (.chkpMrf h o) s done))

open Sys2Proof Sys2Proof.Machine

/-- R284, R287 and R289 with R137 and R294: a unit that fails a decode check, or that an enabled comparator matches, does nothing; the
trap is entered at the next level with its cause, and takes no tokens. -/
def Obligations.CheckedUnitsEnterTheTrap : Prop :=
  ∀ i f s, i.info = some f → s.mayEnter →
    (∀ cause, decodeCheck i f true s.core s.who = some cause → TrapsWith i s cause 0) ∧
    (∀ n, decodeCheck i f true s.core s.who = none → canIssue i f s.core s.who = true → s.seq.breakAt = some n →
      TrapsWith i s Cause.breakpoint (BitVec.ofNat 64 (0x10000 + n)))

/-- R159, R166, R173 and R177 with R284: what a compare, a computed jump, a poisoned target or count, TRET and TASKEND trap on. That a
poisoned count of LOOP traps before its offset does is the model's choice (log entry 64). -/
def Obligations.OperandTrapsOfControl : Prop :=
  (∀ i s e c w a b rs, cmpRow s i = some (e, c, w, a, b, rs) → s.executes i = true → s.mayEnter → rs.any s.bad = true →
    TrapsWith i s 0x30 0) ∧
  (∀ h o s, s.executes (.jmpx h o) = true → s.mayEnter → s.bad o.a = false → s.src o.a % 4 ≠ 0 →
    TrapsWith (.jmpx h o) s 0x23 (s.seq.getX o.a)) ∧
  (∀ h o s, s.executes (.ret h o) = true → s.mayEnter → s.bad o.a = false → s.src o.a % 4 ≠ 0 →
    TrapsWith (.ret h o) s 0x23 (s.seq.getX o.a)) ∧
  (∀ i s r, (∃ h o, (i = .jmpx h o ∨ i = .ret h o) ∧ r = o.a) ∨ (∃ h o, i = .loop h o ∧ r = o.a) → s.executes i = true → s.mayEnter →
    s.bad r = true → TrapsWith i s 0x30 0) ∧
  (∀ h s, s.executes (.tret h) = true → s.mayEnter → s.core.tl = 0 → TrapsWith (.tret h) s 0x03 0) ∧
  (∀ h s, s.executes (.taskend h) = true → s.mayEnter → s.who = .ct → (s.core.tl ≠ 0 ∨ s.core.regions ≠ []) →
    TrapsWith (.taskend h) s 0x03 0)

/-- R176 with R284: BRK and TRAP enter the trap with BREAKPOINT and SWTRAP, EPC at the unit and the code in EADDR; they run on every
sequencer and accept no prefix.
Moreover: R291 and R292: a trap at TL 2 kills the graph, with its cause, or with the low byte of the code of TRAP. What outlives a kill is
inferred (log entry 56). -/
def Obligations.TrapInstructionsAndKills : Prop :=
  (
  (∀ h o s, s.executes (.brk h o) = true → s.mayEnter → TrapsWith (.brk h o) s 0x40 (o.k.setWidth 64)) ∧
  (∀ h o s, s.executes (.trap h o) = true → s.mayEnter → TrapsWith (.trap h o) s 0x41 (o.k.setWidth 64)) ∧
  (∀ i f c q, (∃ h o, i = .brk h o ∨ i = .trap h o) → i.info = some f → f.p = false →
    (f.pfx.count ≠ 0 → decodeCheck i f true c q = some Cause.orphanPrefix) ∧
    (f.pfx.count = 0 → (q ≠ .mx ∨ c.mxCount < 4 ∧ c.mxOver = none) → c.mxReads ≤ 2 → c.mxWrites ≤ 1 → decodeCheck i f true c q = none))) ∧
  (
  (∀ i f s cause, i.info = some f → s.core.tl = 2 → s.core.yields s.who = false →
    decodeCheck i f true s.core s.who = some cause → cause ≠ Cause.swtrap → Kills i s cause.toNat) ∧
  (∀ h o s, s.executes (.trap h o) = true → s.core.tl = 2 → s.core.yields s.who = false → Kills (.trap h o) s (o.k.toNat % 256)) ∧
  (∀ c : Core, StoppedByKill c c.killed))

/-- R177 with R289: TRET leaves its level; the sequencer that ESEQ names resumes at EPC, or behind that unit where the cause is
TOKEN_OVERFLOW or FP_INVALID, unless it has ended; CT goes back to its banked address where another had trapped. -/
def Obligations.TretResumes : Prop :=
  ∀ h s, s.executes (.tret h) = true → 1 ≤ s.core.tl → s.core.tl ≤ 2 → s.core.suspended = none →
    let r := s.core.trapSet s.core.tl
    let q := seqOf (r.eseq.toNat % 4)
    let a := if r.cause.toNat % 256 = 0x32 ∨ r.cause.toNat % 256 = 0x12 then s.afterUnit q r.epc else r.epc
    ∃ t, exec (.tret h) s = .next t ∧ t.core.tl = s.core.tl - 1 ∧
      ((s.core.seq q).ended = false → (t.core.seq q).pc = a) ∧ (q ≠ .ct → t.core.ct.pc = r.ret) ∧
      (∀ p, p ≠ q → p ≠ .ct → (t.core.seq p).pc = (s.core.seq p).pc) ∧
      t.core.trapSet 1 = s.core.trapSet 1 ∧ t.core.trapSet 2 = s.core.trapSet 2 ∧
      SameMemory s t ∧ SameRegisters s.core t.core ∧ SameStores s.core t.core ∧ SameLoops s.core t.core ∧ t.hub = s.hub ∧
      t.parked = s.parked

/-- R15 and R131: a unit whose tokens are missing stays where it is and takes none; one that PRED suppresses writes nothing, and posts
when it would have completed. -/
def Obligations.WaitingAndSuppressedUnits : Prop :=
  (∀ i f s, i.info = some f → decodeCheck i f true s.core s.who = none → tokensReady i f s.core = false →
    ∃ t, exec i s = .next t ∧ (t.core.seq s.who).pc = s.seq.pc ∧ t.core.done = s.core.done ∧ t.core.posts = s.core.posts ∧
      (∀ n, t.core.getTok n = s.core.getTok n) ∧ SameMemory s t ∧ SameRegisters s.core t.core ∧ SameStores s.core t.core ∧
      SameSpecials s.core t.core ∧ SameLoops s.core t.core ∧ OtherPcs s.who s.core t.core) ∧
  (∀ i f s, i.info = some f → decodeCheck i f true s.core s.who = none → canIssue i f s.core s.who = true →
    s.seq.breakAt = none → earlyReg (predRegs f.pfx) s.core s.who = false → perLane f = false → (predMask s.seq f.pfx).getLsbD 0 = false →
    timedInstr f = true → Completes i s (suppressedLatency i) [])

namespace Sys2Proof.Machine

/-! System registers (R154, R155, R178). -/

/-- The registers that RDSR reads whole; those of a trap of this cycle as they were before it (R284). -/
def srWhole (c : Core) (q : SeqId) (n : Nat) : Option Word :=
  match n with
  | 0x00 => some (BitVec.ofNat 64 c.level)
  | 0x01 => some (c.trapRegs 1).ecause
  | 0x02 => some (c.trapRegs 2).ecause
  | 0x03 => some (c.trapRegs 1).epc
  | 0x04 => some (c.trapRegs 2).epc
  | 0x05 => some (c.trapRegs 1).eaddr
  | 0x06 => some (c.trapRegs 2).eaddr
  | 0x07 => some (c.trapRegs 1).eseq
  | 0x08 => some (c.trapRegs 2).eseq
  | 0x09 => some (c.tvec 1)
  | 0x0A => some (c.tvec 2)
  | 0x0B => some (c.seq q).tmask
  | 0x10 => some c.chkcfg
  | 0x20 => some (BitVec.ofNat 64 c.cycle)
  | 0x30 => some (c.rbase.setWidth 64)
  | 0x32 => some ((c.seq q).srseed.setWidth 64)
  | 0x33 => some c.tkwdog
  | 0x40 => some c.fstat
  | 0x60 => some (c.replays.setWidth 64)
  | _ => if 0x100 ≤ n ∧ n < 0x118 then some ((c.getBf (n - 0x100)).setWidth 64) else none

/-- Bits `lo` and up of a word, as many as `n`. -/
def bitsOf (v : Word) (lo n : Nat) : Nat := v.toNat / 2 ^ lo % 2 ^ n

/-- The fields of CORE_RANK, TASK_ID, CORE_ID, MAPVER and MXPROG (R9, R381, R321, R230). -/
structure SrFields (s : State) (k : Task) (n : Nat) (v : Word) : Prop where
  rank : n = 0x23 → bitsOf v 0 8 = k.rank % 256 ∧ bitsOf v 8 8 = k.width % 256 ∧ v.getLsbD 16 = k.oneCluster ∧ bitsOf v 17 47 = 0
  task : n = 0x24 → bitsOf v 0 10 = k.node % 1024 ∧ bitsOf v 10 10 = k.queue % 1024 ∧ bitsOf v 20 6 = k.fn % 64 ∧
    bitsOf v 32 32 = k.seqNo % 2 ^ 32
  map : n = 0x21 → bitsOf v 0 32 = s.core.mapver.toNat % 2 ^ 32 ∧ v.getLsbD 32 = k.stale ∧ bitsOf v 33 31 = 0
  array : n = 0x31 → v.getLsbD 8 = s.core.bvalid ∧ v.getLsbD 6 = s.core.suspended.isSome ∧
    ∀ p, s.core.suspended = some p → bitsOf v 0 6 = p.group % 64 ∧ v.getLsbD 7 = p.armed ∧ v.getLsbD 11 = p.op.cmd.staged ∧
      bitsOf v 12 2 = seqCode p.op.cmd.q ∧ bitsOf v 16 32 = p.op.cmd.addr.toNat % 2 ^ 32

/-- The level of a trap register by its number (R287): the odd ones are of level 1, the even ones of level 2. -/
def srLevel (n : Nat) : Nat := if n % 2 = 1 then 1 else 2

/-- Whether the field map of a register that WRSR writes allows a value (R26, R77, R83, R20, R287, R419). -/
def srPermits (tl n v : Nat) : Bool :=
  if n = 1 ∨ n = 2 then decide (srLevel n ≤ tl) && (decide (v % 256 = 0) || causeListed (v % 256))
  else if n = 3 ∨ n = 4 then decide (srLevel n ≤ tl ∧ v % 4 = 0)
  else if 5 ≤ n ∧ n ≤ 8 then decide (srLevel n ≤ tl)
  else if n = 9 then decide (v % 4 = 0)
  else if n = 10 then decide (2 ≤ tl ∧ v % 4 = 0)
  else if n = 11 then decide (v < 8)
  else if n = 0x10 then decide (v / 4 % 2 ^ 14 = 0 ∧ v < 2 ^ 32)
  else if n = 0x32 then decide (v % 2 ^ 32 ≠ 0 ∧ v < 2 ^ 32)
  else if n = 0x33 then decide (v < 2 ^ 32)
  else decide (n = 0x40 ∧ v < 16)

/-- What a core register that WRSR wrote reads as afterwards: its writable bits of the value, the rest as before; FSTAT's bits
clear where the value has a 1. -/
def srAfter (n : Nat) (old v : Word) : Word :=
  if n = 1 ∨ n = 2 then v &&& 0x1FF
  else if n = 7 ∨ n = 8 then v &&& 3
  else if n = 0x10 then (v &&& 3) ||| (old &&& 0xFFFF0000)
  else if n = 0x40 then old &&& ~~~(v &&& 0xF)
  else v

/-- The core registers that WRSR writes, TMASK and SRSEED apart. -/
def srLate (n : Nat) : Bool := (1 ≤ n && n ≤ 10) || n = 0x10 || n = 0x33 || n = 0x40

/-- TIMED_COMPLETION of an instruction whose one write is `w`: it leaves the X and P registers, memory and the PCs alone. -/
def Lands (p : Pending) (w : RegWrite) (s : State) (P : State → Prop) : Prop :=
  s.core.done.find? (fun x => x.id = p.id) = some p → s.core.completes p = true → p.writes = [w] →
    ∃ t, exec (.timedCompletion p.id) s = .next t ∧ P t ∧ PostsSignal p s.core t.core ∧ SameMemory s t ∧
      t.core.done = s.core.done.filter (fun x => x.id != p.id) ∧ SameLoops s.core t.core ∧
      ∀ q, (t.core.seq q).pc = (s.core.seq q).pc ∧ (t.core.seq q).x = (s.core.seq q).x ∧ (t.core.seq q).p = (s.core.seq q).p

end Sys2Proof.Machine

open Sys2Proof Sys2Proof.Machine

/-- R178 and R154 with R157, R9, R230, R321, R354 and R381: RDSR gives the register named, after a cycle and without poison; a
sequencer reads its own copies; a package register reads as zero to a task of another tenant. -/
def Obligations.SystemRegistersRead : Prop :=
  ∀ h o s, s.executes (.rdsr h o) = true → ∃ v, Completes (.rdsr h o) s 1 [.x s.who o.d v false] ∧
    (∀ w, srWhole s.core s.who o.r.toNat = some w → v = w) ∧
    (∀ k, s.core.task = some k → SrFields s k o.r.toNat v) ∧
    (o.r.toNat = 0x22 → bitsOf v 0 9 = s.core.id % 512 ∧ bitsOf v 16 8 = s.core.coreClass % 256 ∧ bitsOf v 24 10 = s.hub.pkg % 1024) ∧
    (0x50 ≤ o.r.toNat → o.r.toNat ≤ 0x54 → s.core.tenant ≠ s.hub.chain.tenant → v = 0) ∧
    (s.core.tenant = s.hub.chain.tenant → s.hub.chain.entries ≠ [] →
      (o.r.toNat = 0x50 → v = BitVec.ofNat 64 s.hub.chain.bubUp) ∧ (o.r.toNat = 0x51 → v = BitVec.ofNat 64 s.hub.chain.bubDown) ∧
      (o.r.toNat = 0x52 → v = BitVec.ofNat 64 s.hub.chain.bubStash) ∧ (o.r.toNat = 0x53 → v = BitVec.ofNat 64 s.hub.chain.bubSlot))

/-- R178 and R155: WRSR of TMASK and SRSEED takes effect at once, of a core register from the next cycle; a value that the field map
forbids, or that is poisoned, traps. -/
def Obligations.SystemRegistersWritten : Prop :=
  ∀ h o s, s.executes (.wrsr h o) = true →
    let v := s.src o.a
    let n := o.r.toNat
    (s.bad o.a = true → s.mayEnter → TrapsWith (.wrsr h o) s 0x30 0) ∧
    (s.bad o.a = false → srPermits s.core.tl n v = false → s.mayEnter → TrapsWith (.wrsr h o) s 0x03 0) ∧
    (s.bad o.a = false → srPermits s.core.tl n v = true →
      ∃ t, exec (.wrsr h o) s = .next t ∧ (t.core.seq s.who).pc = s.nextPc (.wrsr h o) ∧ SameMemory s t ∧
        SameStores s.core t.core ∧ SameSpecials s.core t.core ∧ SameLoops s.core t.core ∧ OtherPcs s.who s.core t.core ∧
        (∀ q, (t.core.seq q).x = (s.core.seq q).x ∧ (t.core.seq q).xp = (s.core.seq q).xp ∧ (t.core.seq q).p = (s.core.seq q).p) ∧
        (∀ q, (t.core.seq q).tmask = if n = 0x0B ∧ q = s.who then s.seq.getX o.a else (s.core.seq q).tmask) ∧
        (∀ q, (t.core.seq q).srseed = if n = 0x32 ∧ q = s.who then BitVec.ofNat 32 v else (s.core.seq q).srseed) ∧
        t.core.done = s.core.done ++ if n = 0x0B ∨ n = 0x32 then [] else
          [⟨s.core.nextId, false, s.core.pulse + 1, s.who, s.seq.pc, [.sys o.r (s.seq.getX o.a)], unitSignal (.wrsr h o)⟩])

/-- R155, R178, R184, R256, R46 and R253: how the writes of WRSR, ROTB, SETRB, BFMT, CPLV and BXLD land. A register written reads as
its writable bits of the value, and every other register of the same kind as before; a write lands before the cycle's traps. -/
def Obligations.SpecialWritesLand : Prop :=
  (∀ p n v s, srLate n.toNat = true → s.core.preTrap = none → Lands p (.sys n v) s fun t =>
    SameStores s.core t.core ∧ (∀ q, t.readSr q n.toNat = srAfter n.toNat (s.readSr q n.toNat) v) ∧
      ∀ q m, m ≠ n.toNat → t.readSr q m = s.readSr q m) ∧
  (∀ p v s, Lands p (.rbase v) s fun t => t.core.rbase = v ∧ SameStores s.core t.core ∧ SameRegisters s.core t.core) ∧
  (∀ p b v s, Lands p (.bf b v) s fun t => SameSpecials s.core t.core ∧ SameRegisters s.core t.core ∧
    ∀ m, t.core.getBf m = if m = b then v else s.core.getBf m) ∧
  (∀ p q n v s, Lands p (.cl q n v) s fun t => SameSpecials s.core t.core ∧ SameStores s.core t.core ∧
    ∀ r m, (t.core.seq r).getCl m = if r = q ∧ m = n.toNat then v else (s.core.seq r).getCl m) ∧
  (∀ p n v s, Lands p (.pat n v) s fun t => SameSpecials s.core t.core ∧ SameRegisters s.core t.core ∧
    ∀ m, AMap.get [] t.core.bx m = if m = n.toNat then v else AMap.get [] s.core.bx m)

namespace Sys2Proof.Machine

/-! Untimed operations (R238 to R254). -/

/-- A unit puts one operation in flight, which holds its sequencer where `held` says so; nothing else that a program reads changes but
what `hub` says of the package. -/
def LaunchesIn (hub : Hub → Prop) (i : Instr) (s : State) (path : Nat) (op : Op) (stage : Stage) (held : Bool) : Prop :=
  ∃ t f, exec i s = .next t ∧ t.core.flight = s.core.flight ++ [f] ∧
    (f.id = s.core.nextId ∧ f.q = s.who ∧ f.pc = s.seq.pc ∧ f.path = path ∧ f.op = op ∧ f.stage = stage ∧ f.sig = unitSignal i ∧
      f.cls = ((unitPfx i).mem.map (·.cls)).getD 0 ∧ f.quiet = false ∧ f.level = s.core.level) ∧
    (stage = .commit → f.due = s.core.pulse + 64) ∧
    (t.core.seq s.who).pc = s.nextPc i ∧ (t.core.seq s.who).hold = (if held then some f.id else s.seq.hold) ∧
    t.core.done = s.core.done ∧ t.core.posts = s.core.posts ∧ SameLoops s.core t.core ∧ Unwritten i s t ∧ hub t.hub ∧
    t.parked = s.parked

/-- The package stays as it is. -/
def Launches (i : Instr) (s : State) := LaunchesIn (· = s.hub) i s

/-- A local access of `n` bytes at displacement `disp` from the locator in a register reaches address `x` (R44, R47, R145, R241). -/
structure ReachesLocal (s : State) (a : BitVec 5) (disp : Int) (n align x : Nat) : Prop where
  clean : s.bad a = false
  kind : s.src a < 2 ^ 22
  sum : (x : Int) = s.src a + disp
  fits : x + n ≤ 0x300000
  aligned : x % align = 0

/-- An access of `n` bytes at an offset of a handle is allowed (checks 4 to 7 of R241): `bit` is the permission it needs. -/
structure ReachesHandle (s : State) (h : BitVec 5) (off n align bit : Nat) : Prop where
  valid : (s.core.getH h).valid = true
  allowed : (s.core.getH h).perm bit = true ∧ (s.core.getH h).sync = false
  aligned : off % align = 0
  fits : off + n ≤ (s.core.getH h).size

/-- The page of a handle is here, or in another package. -/
def PageThere (s : State) (h : BitVec 5) : Prop := (s.core.getH h).remote = true ∨ (s.core.getH h).resident = true

/-- The offset of an access with a displacement, modulo 2^64 (log entry 14). -/
def State.offset (s : State) (o : BitVec 5) {w : Nat} (disp : BitVec w) : Nat := (s.seq.getX o + disp.signExtend 64).toNat

/-- A load that leaves the package waits in the commit buffer, another goes at once (R299). -/
def outStage (l : Loc) : Stage := if l.isRemote then .commit else .going

/-- The first schedule cycle from which timed work of a unit counts, once the unit's tokens are taken (R23). -/
def State.baseOf (s : State) (i : Instr) : Nat := ((i.info.map fun f => issued i f s).getD s).baseCycle

/-- When a promised load issued now is due (R248): no portable task has promised loads. -/
def State.promiseDue (s : State) (i : Instr) : Option Nat :=
  if s.core.portable then none else some (s.baseOf i + s.core.classLat 15)

/-- The posts of a SIGNAL byte. -/
def signalPosts (id : Nat) (q : SeqId) (pc : Word) (sig : BitVec 8) : List Post :=
  match byteTokens sig with
  | some (queue, k) => [⟨id, q, pc, queue, k⟩]
  | none => []

/-- An operation is complete (R16, R239): it is no longer in flight, its sequencer goes on if it was held, and its post is made unless
an unwind or a kill withdrew it. -/
structure Finished (f : Flight) (s t : State) : Prop where
  gone : t.core.flight = s.core.flight.filter fun g => g.id != f.id
  hold : ∀ q, (t.core.seq q).hold = if q = f.q ∧ (s.core.seq q).hold = some f.id then none else (s.core.seq q).hold
  posts : t.core.posts = s.core.posts ++ if f.quiet then [] else signalPosts f.id f.q f.pc f.sig
  pcs : ∀ q, (t.core.seq q).pc = (s.core.seq q).pc
  rest : t.core.done = s.core.done ∧ SameLoops s.core t.core ∧ SameSpecials s.core t.core

/-- Bytes written at an address of a memory, and every other byte as before. -/
def Writes (m m' : AMap Byte) (a : Nat) (bs : List Byte) : Prop :=
  ∀ x, memGet m' x = if a ≤ x ∧ x < a + bs.length then bs.getD (x - a) 0 else memGet m x

/-- The vector that a physical operand names holds `v`, and every cell outside it is as it was (R53). -/
def WritesVec (c d : Core) (m : BitVec 12) (v : Vec) : Prop :=
  (∀ e, e < 32 → (readVec d.mrf m).cell e = v.cell e ∧ (readVec d.mrf m).pois e = v.pois e) ∧
    ∀ k, (∀ e, e < 32 → k ≠ mrfKey m e) → AMap.get 0 d.mrf k = AMap.get 0 c.mrf k

/-- An earlier operation of a sequencer, path and class that has not been performed and reads or writes a byte of an access keeps it
waiting (R99, R122). -/
def NothingBefore (s : State) (f : Flight) (l : Loc) (n : Nat) : Prop :=
  ∀ g ∈ s.core.flight, g.id < f.id → g.q = f.q → g.path = f.path → g.cls = f.cls → g.over = false →
    ∀ x ∈ g.extents, overlap l n x.1 x.2 = false

/-- An operation is the one in flight of its identity and has reached its time. -/
def State.due (s : State) (f : Flight) : Prop := s.core.flightOf f.id = some f ∧ f.due ≤ s.core.pulse

/-- A load of this package that can be performed now. -/
structure LoadReady (s : State) (f : Flight) (l : Loc) (n : Nat) : Prop where
  due : s.due f
  stage : f.stage = .going
  place : l.isRemote = false ∧ s.hbmHeld l n f.id = false
  early : s.core.erchk = false
  alone : NothingBefore s f l n

/-- A scalar or pattern load whose bytes `bs`, none of them marked, can be written now: it is performed now, or its bytes have come from
another package. -/
structure LoadHas (s : State) (f : Flight) (l : Loc) (n : Nat) (bs : List Byte) : Prop where
  scalar : f.sideVec = none
  bytes : LoadReady s f l n ∧ s.readLoc l 0 n = (bs, []) ∨ s.due f ∧ f.stage = .done ∧ f.data = bs ∧ f.marks = []

/-- A vector load whose bytes `bs` with marks `ms`, none of them among those it decodes, are there: it is performed now, or they have been
read. -/
def VecHas (s : State) (f : Flight) (dst : LoadDst) (l : Loc) (n : Nat) (bs : List Byte) (ms : List Nat) : Prop :=
  loadMarks dst ms = [] ∧
    (LoadReady s f l n ∧ s.readLoc l 0 n = (bs, ms) ∨ s.due f ∧ f.stage = .done ∧ f.data = bs ∧ f.marks = ms)

/-- The side port is another's, and this vector load's turn has come (R249). -/
def BeginsSide (c : Core) (f : Flight) (m : BitVec 12) : Prop := c.sideNow ≠ some f.id ∧ c.sideTurn f m = true

/-- The pulse is the last in which a vector load holds the side port (R249): it has held it as long as its vector occupies it, or begins
now and occupies it for this pulse alone. -/
def EndsSide (c : Core) (f : Flight) (m : BitVec 12) : Prop :=
  c.sideNow = some f.id ∧ c.sideFree ≤ c.pulse + 1 ∨ BeginsSide c f m ∧ occupancy c.map m ≤ 1

/-- How a vector load leaves the side port: as it was, or taken for as many pulses as its vector occupies it. -/
def TakesSide (c d : Core) (f : Flight) (m : BitVec 12) : Prop :=
  (BeginsSide c f m → d.sideNow = some f.id ∧ d.sideFree = c.pulse + occupancy c.map m) ∧
    (¬ BeginsSide c f m → d.sideNow = c.sideNow ∧ d.sideFree = c.sideFree)

/-- The flag predicate of a load (R248): all ones where the page was absent. -/
def SetsFlag (f : Flight) (pf : Option (BitVec 3)) (absent : Bool) (c d : Core) : Prop :=
  ∀ q r, (d.seq q).getP r =
    if q = f.q ∧ pf = some r ∧ r ≠ 0 then (if absent then BitVec.allOnes 32 else 0) else (c.seq q).getP r

/-- The X registers and their poison are as they were. -/
def SameX (c d : Core) : Prop := ∀ q r, (d.seq q).getX r = (c.seq q).getX r ∧ (d.seq q).getXP r = (c.seq q).getXP r
def SameP (c d : Core) : Prop := ∀ q r, (d.seq q).getP r = (c.seq q).getP r
def SameMrf (c d : Core) : Prop := ∀ k, AMap.get 0 d.mrf k = AMap.get 0 c.mrf k

/-! Accesses whose operands are wrong (R241). -/

/-- A unit traps with the first of a list of checks that fails: each has its cause and the address that EADDR reports. -/
def TrapsInOrder (i : Instr) (s : State) : List (Prop × Cause × Word) → Prop
  | [] => True
  | (bad, cause, ea) :: rest => (bad → TrapsWith i s cause ea) ∧ (¬ bad → TrapsInOrder i s rest)

/-- What an access of the local scratchpad has: its locator's register, the registers of its values, its displacement, bytes and
alignment. -/
structure LocalRow where
  a : BitVec 5
  values : List (BitVec 5)
  disp : Int
  n : Nat
  align : Nat

/-- The local accesses whose vectors are clean and whose pattern is there. -/
def localRow (s : State) : Instr → Option LocalRow
  | .ldx _ o => some ⟨o.a, [], o.o.toInt * (2 ^ o.y.toNat : Nat), 2 ^ o.y.toNat, 2 ^ o.y.toNat⟩
  | .stx _ o => some ⟨o.a, [o.s], o.o.toInt * (2 ^ o.y.toNat : Nat), 2 ^ o.y.toNat, 2 ^ o.y.toNat⟩
  | .vld _ o => if o.deco then none else some ⟨o.a, [], o.disp.toInt, 128, 4⟩
  | .vst _ o => if (readVec s.core.mrf (physOp s.core.rbase o.m)).poison = 0 then some ⟨o.a, [], o.disp.toInt, 128, 4⟩ else none
  | .vldb _ o =>
    let p := AMap.get [] s.core.bx o.n.toNat
    if p = [] then none else some ⟨o.a, [], o.disp.toInt, ceilDiv 32 (patFields p) * patPeriod p, 1⟩
  | .bxld _ o => some ⟨o.a, [], 0, 72, 8⟩
  | .waita _ o => some ⟨o.a, [o.v], 0, 8, 8⟩
  | _ => none

/-- The checks of a local access. -/
def LocalRow.checks (r : LocalRow) (s : State) : List (Prop × Cause × Word) :=
  let x : Int := s.src r.a + r.disp
  [(s.bad r.a = true ∨ r.values.any s.bad = true, 0x30, s.seq.getX r.a + BitVec.ofInt 64 r.disp),
   (2 ^ 22 ≤ s.src r.a, 0x03, s.seq.getX r.a),
   (x % r.align ≠ 0, 0x23, BitVec.ofInt 64 x),
   (x < 0 ∨ 0x300000 < x + r.n, 0x20, BitVec.ofInt 64 x)]

/-- What an access through a handle has: the handle, the registers of its offset and values, its offset, bytes, alignment and permission
bit, and whether its page must be resident. -/
structure HandleRow where
  h : BitVec 5
  o : BitVec 5
  values : List (BitVec 5)
  off : Nat
  n : Nat
  align : Nat
  bit : Nat
  page : Bool

/-- The accesses through a handle whose vectors are clean. -/
def handleRow (s : State) : Instr → Option HandleRow
  | .ldg _ o => some ⟨o.h, o.o, [], s.offset o.o o.disp, 2 ^ o.y.toNat, 2 ^ o.y.toNat, 5, true⟩
  | .ldgP _ o => some ⟨o.h, o.o, [], s.offset o.o o.disp, 2 ^ o.y.toNat, 2 ^ o.y.toNat, 5, false⟩
  | .stg _ o => some ⟨o.h, o.o, [o.s], s.offset o.o o.disp, 2 ^ o.y.toNat, 2 ^ o.y.toNat, 6, true⟩
  | .vldg _ o => some ⟨o.h, o.o, [], s.offset o.o o.disp, 128, 4, 7, false⟩
  | .vstg _ o =>
    if (readVec s.core.mrf (physOp s.core.rbase o.m)).poison = 0 then some ⟨o.h, o.o, [], s.offset o.o o.disp, 128, 4, 8, true⟩
    else none
  | .pref _ o => some ⟨o.h, o.o, [], s.src o.o, 1, 1, 7, false⟩
  | .ordld _ o => some ⟨o.h, o.o, [], s.src o.o, 2 ^ o.y.toNat, 2 ^ o.y.toNat, 5, true⟩
  | .ordst _ o => some ⟨o.h, o.o, [o.s], s.src o.o, 2 ^ o.y.toNat, 2 ^ o.y.toNat, 6, true⟩
  | _ => none

/-- A locator of a handle with an offset, as EADDR reports it (R145, R241). -/
def handleEa (h : BitVec 5) (off : Nat) : Word := BitVec.ofNat 64 (2 ^ 63 + h.toNat * 2 ^ 32 + off % 2 ^ 32)

/-- The checks of an access through a handle; an ordered one needs a wheel position at last (R118). -/
def HandleRow.checks (r : HandleRow) (s : State) (ordered : Bool) : List (Prop × Cause × Word) :=
  let v := s.core.getH r.h
  let ea := handleEa r.h r.off
  [(s.bad r.o = true ∨ r.values.any s.bad = true, 0x30, ea), (v.valid = false, 0x22, ea),
   (v.perm r.bit = false ∨ v.sync = true, 0x21, ea), (r.off % r.align ≠ 0, 0x23, ea), (v.size < r.off + r.n, 0x20, ea),
   (r.page = true ∧ ¬ PageThere s r.h, 0x20, ea), (ordered = true ∧ s.core.holdsWheel = false, 0x21, ea)]

/-- Whether an instruction is an ordered access. -/
def orderedAccess : Instr → Bool
  | .ordld .. | .ordst .. => true
  | _ => false

/-! The ends of a copy (R44, R47, R51, R145, R258). -/

/-- The offset of burst `j` of a nest, CL0 fastest (R258). -/
def nestOffset (f : Level → Int) : List Level → Nat → Int
  | [], _ => 0
  | l :: ls, j => (j % l.count.toNat : Nat) * f l + nestOffset f ls (j / l.count.toNat)

/-- How many bursts a nest has. -/
def nestCount (ls : List Level) : Nat := (ls.map (·.count.toNat)).prod

/-- The levels CL0 to CL(depth - 1) of the sequencer in turn. -/
def State.levels (s : State) (depth : Nat) : List Level := (List.range depth).map s.seq.getCl

/-- A burst length and levels that R258 allows. -/
def NestFits (n : Nat) (ls : List Level) : Prop := 1 ≤ n ∧ n ≤ 65536 ∧ (∀ l ∈ ls, 1 ≤ l.count.toNat) ∧ nestCount ls < 2 ^ 32

/-- The kind of a locator, its handle, and its address field. -/
def endKind (w : Nat) : Nat := w / 2 ^ 62
def endHandle (w : Nat) : BitVec 5 := BitVec.ofNat 5 (w / 2 ^ 32)
def endBase (w : Nat) : Nat := if endKind w = 2 then w % 2 ^ 32 else w % 2 ^ 22

/-- The fields that must be zero are zero (R145): a source names one rank. -/
def EndFields (w : Nat) (source : Bool) : Prop :=
  w < 2 ^ 22 ∨ endKind w = 1 ∧ w / 2 ^ 22 % 2 ^ 29 = 0 ∧ (source = true → w / 2 ^ 54 % 2 ^ 8 = 0) ∨
    endKind w = 2 ∧ w / 2 ^ 37 % 2 ^ 25 = 0

/-- A cluster locator's ranks lie in a gang of one cluster (R47). -/
def EndRanks (s : State) (w : Nat) : Prop :=
  ∃ k, s.core.task = some k ∧ k.oneCluster = true ∧ w / 2 ^ 51 % 8 < k.width ∧ ∀ r < 8, (w / 2 ^ (54 + r)) % 2 = 1 → r < k.width

/-- The bytes that an end may reach, the place of an address of it, and its bank format there: through a handle, RAW (R86). -/
def State.endLimit (s : State) (w : Nat) : Nat := if endKind w = 2 then (s.core.getH (endHandle w)).size else 0x300000
def State.endPlace (s : State) (w x : Nat) : Loc :=
  if endKind w = 2 then handlePlace (s.core.getH (endHandle w)) x
  else if endKind w = 1 then .clus (w / 2 ^ 51 % 8) (BitVec.ofNat 8 (w / 2 ^ 54)) x else .spad x
def State.endFormat (s : State) (w x : Nat) : BitVec 32 := if endKind w = 2 then 0 else s.core.getBf (bankOf x)

/-- Where burst `j` of an end starts. -/
def endStart (w : Nat) (f : Level → Int) (ls : List Level) (j : Nat) : Int := endBase w + nestOffset f ls j

/-- The formats of burst `j` of a copy, and the bytes it writes. -/
def State.copyFormats (s : State) (src dst : Nat) (ls : List Level) (j : Nat) : BitVec 32 × BitVec 32 :=
  (s.endFormat src (endStart src (fun l => l.ss.toInt) ls j).toNat, s.endFormat dst (endStart dst (fun l => l.ds.toInt) ls j).toNat)
def State.copyOut (s : State) (src dst n : Nat) (ls : List Level) (j : Nat) : Nat :=
  burstBytes (s.copyFormats src dst ls j).1 (s.copyFormats src dst ls j).2 n

/-- Every burst of an end lies inside it. -/
def EndInside (s : State) (w : Nat) (f : Level → Int) (ls : List Level) (size : Nat → Nat) : Prop :=
  ∀ j < nestCount ls, 0 ≤ endStart w f ls j ∧ endStart w f ls j + size j ≤ s.endLimit w

/-- The checks of CPGO before those of its extents, in their order (R241, R257 to R259). -/
def cpgoChecks (s : State) (o : Cpgo) : List (Prop × Cause × Word) :=
  let w := s.src o.s
  let d := s.src o.d
  let f := s.src o.f
  let ws := s.seq.getX o.s
  let wd := s.seq.getX o.d
  let wf := s.seq.getX o.f
  let h := s.core.getH (endHandle w)
  let g := s.core.getH (endHandle d)
  [(s.bad o.s = true, 0x30, ws), (s.bad o.d = true, 0x30, wd), (s.bad o.b = true, 0x30, 0),
   (o.fl = true ∧ s.bad o.f = true, 0x30, wf), (o.fl = true ∧ s.bad o.v = true, 0x30, 0),
   (¬ EndFields w true, 0x03, ws), (¬ EndFields d false, 0x03, wd), (o.fl = true ∧ 2 ^ 22 ≤ f, 0x03, wf),
   (o.tm = true ∧ (endKind w = 2 ∨ endKind d = 2 ∨ endKind w = 1 ∧ endKind d = 1), 0x03, ws),
   (¬ NestFits (s.src o.b) (s.levels (o.dep.toNat + 1)), 0x03, 0), (o.mx = true ∧ s.core.staged = none, 0x03, 0),
   (endKind w = 1 ∧ ¬ EndRanks s w, 0x21, ws), (endKind d = 1 ∧ ¬ EndRanks s d, 0x21, wd),
   (endKind w = 2 ∧ h.valid = false, 0x22, ws), (endKind d = 2 ∧ g.valid = false, 0x22, wd),
   (endKind w = 2 ∧ (h.perm 9 = false ∨ h.sync = true), 0x21, ws), (endKind d = 2 ∧ (g.perm 10 = false ∨ g.sync = true), 0x21, wd),
   (o.fl = true ∧ f % 8 ≠ 0, 0x23, wf)]

/-- No check of a list fails. -/
def Passes (l : List (Prop × Cause × Word)) : Prop := ∀ x ∈ l, ¬ x.1

/-- The checks of CPACC before those of its extents (R241, R263). -/
def cpaccChecks (s : State) (o : Cpacc) : List (Prop × Cause × Word) :=
  let d := s.src o.d
  let wd := s.seq.getX o.d
  [(s.bad o.d = true, 0x30, wd), (¬ (endKind d ≠ 2 ∧ EndFields d false), 0x03, wd), (endKind d = 1 ∧ ¬ EndRanks s d, 0x21, wd)]

/-- The format of an ACC word, where row `i` of a CPACC begins, and the bytes it writes (R87, R263). -/
def accSource (o : Cpacc) : BitVec 32 := if o.f32 then 7 else 5
def State.accRow (s : State) (o : Cpacc) (i : Nat) : Nat :=
  let b := s.core.getBf (bankOf (endBase (s.src o.d)))
  endBase (s.src o.d) + i * if bfPitch b ≠ 0 then bfPitch b * 8 else 32 * (o.ncg.toNat + 1) * (if bfFmt b = 0 then 4 else elemBytes b)
def State.accFormat (s : State) (o : Cpacc) (i : Nat) : BitVec 32 := s.core.getBf (bankOf (s.accRow o i))
def State.accOut (s : State) (o : Cpacc) (i : Nat) : Nat := burstBytes (accSource o) (s.accFormat o i) (128 * (o.ncg.toNat + 1))

/-- A format that a CPACC may write. -/
def AccTarget (f : BitVec 32) : Prop := bfFmt f = 0 ∨ bfScale f = false ∧ bfFmt f ≠ 12 ∧ bfSparse f = 0

/-- The checks of SAQ, in their order (R241, R266). -/
def saqChecks (s : State) (o : Saq) : List (Prop × Cause × Word) :=
  let w := s.src o.b
  let i := s.src o.i
  let v := s.src o.v
  let n := s.src o.n
  let wb := s.seq.getX o.b
  let h := s.core.getH (endHandle w)
  [(s.bad o.b = true, 0x30, wb), (s.bad o.i = true, 0x30, s.seq.getX o.i), (s.bad o.v = true, 0x30, s.seq.getX o.v),
   (s.bad o.n = true, 0x30, 0), (¬ (endKind w ≠ 1 ∧ EndFields w false), 0x03, wb), (2 ^ 22 ≤ i, 0x03, s.seq.getX o.i),
   (2 ^ 22 ≤ v, 0x03, s.seq.getX o.v), (2 ^ 24 < n, 0x03, wb), (endKind w = 2 ∧ h.valid = false, 0x22, wb),
   (endKind w = 2 ∧ (h.perm 13 = false ∨ h.perm 14 = false ∨ h.sync = true ∨ h.remote = true), 0x21, wb),
   (i % 4 ≠ 0, 0x23, s.seq.getX o.i), (v % saeBytes o.ty ≠ 0, 0x23, s.seq.getX o.v),
   (endKind w = 2 ∧ h.size < w % 2 ^ 32, 0x20, wb), (0x300000 < i + 4 * n, 0x20, s.seq.getX o.i),
   (0x300000 < v + saeBytes o.ty * n, 0x20, s.seq.getX o.v)]

end Sys2Proof.Machine

open Sys2Proof Sys2Proof.Machine

/-- R246, R250, R253 and R254 with R241: LDX, STX, VLD, VST, VLDB, BXLD and WAITA reach the local address that their locator and
displacement give, and put their access there in flight; BXLD and WAITA hold their sequencer. -/
def Obligations.LocalAccessesReachTheirAddress : Prop :=
  (∀ h o s x, s.executes (.ldx h o) = true → ReachesLocal s o.a (o.o.toInt * (2 ^ o.y.toNat : Nat)) (2 ^ o.y.toNat) (2 ^ o.y.toNat) x →
    Launches (.ldx h o) s 0 (.load (.x o.d (2 ^ o.y.toNat) o.x) (.spad x) (2 ^ o.y.toNat) none none false) .going false) ∧
  (∀ h o s x, s.executes (.stx h o) = true → s.bad o.s = false →
    ReachesLocal s o.a (o.o.toInt * (2 ^ o.y.toNat : Nat)) (2 ^ o.y.toNat) (2 ^ o.y.toNat) x →
    Launches (.stx h o) s 0 (.store (.spad x) (wordBytes (s.src o.s) (2 ^ o.y.toNat))) .going false) ∧
  (∀ h o s x, s.executes (.vld h o) = true → o.deco = false → ReachesLocal s o.a o.disp.toInt 128 4 x →
    Launches (.vld h o) s 1 (.load (.vec (physOp s.core.rbase o.m)) (.spad x) 128 none none false) .going false) ∧
  (∀ h o s x, s.executes (.vst h o) = true → (readVec s.core.mrf (physOp s.core.rbase o.m)).poison = 0 →
    ReachesLocal s o.a o.disp.toInt 128 4 x →
    Launches (.vst h o) s 1 (.store (.spad x) (vecBytes (readVec s.core.mrf (physOp s.core.rbase o.m)))) .going false) ∧
  (∀ h o s x, s.executes (.vldb h o) = true →
    let p := AMap.get [] s.core.bx o.n.toNat
    let n := ceilDiv 32 (patFields p) * patPeriod p
    p ≠ [] → ReachesLocal s o.a o.disp.toInt n 1 x →
    Launches (.vldb h o) s 1 (.load (.fields (physOp s.core.rbase o.m) p) (.spad x) n none none false) .going false) ∧
  (∀ h o s x, s.executes (.bxld h o) = true → ReachesLocal s o.a 0 72 8 x →
    Launches (.bxld h o) s 1 (.load (.pattern o.n) (.spad x) 72 none none false) .going true) ∧
  (∀ h o s x, s.executes (.waita h o) = true → s.bad o.v = false → ReachesLocal s o.a 0 8 8 x →
    Launches (.waita h o) s 2 (.waita o.e x (s.seq.getX o.v) o.lim) .going true)

/-- R251 with R241: a decoded VLD reads the bytes of one block of the bank's format, which must be a format and not sparse. -/
def Obligations.DecodedLoadsReachTheirBlock : Prop :=
  ∀ h o s x, s.executes (.vld h o) = true → o.deco = true →
    let b := s.core.getBf (bankOf x)
    let n := spansEnd (decSpans b o.blk.toNat)
    bfFmt b ≠ 0 → bfSparse b = 0 → (grouped b = false → o.blk = 0) → (o.int = true → ¬ (7 ≤ bfFmt b ∧ bfFmt b ≤ 11)) →
    ReachesLocal s o.a o.disp.toInt n (if grouped b then 1 else elemBytes b) x →
    Launches (.vld h o) s 1 (.load (.dec (physOp s.core.rbase o.m) b o.int o.blk.toNat) (.spad x) n none none false) .going false

/-- R247, R248, R252 and R270 with R241 and R299: the accesses through a handle reach the place of their offset; LDG, STG, ORDLD and
ORDST hold their sequencer, and VSTG does through a REMOTE handle; a promised load carries its due cycle; what leaves the core stands
in the commit buffer for 64 pulses. -/
def Obligations.HandleAccessesReachTheirPlace : Prop :=
  (∀ h o s, s.executes (.ldg h o) = true → s.bad o.o = false → PageThere s o.h →
    let off := s.offset o.o o.disp
    let l := handlePlace (s.core.getH o.h) off
    ReachesHandle s o.h off (2 ^ o.y.toNat) (2 ^ o.y.toNat) 5 →
    Launches (.ldg h o) s 0 (.load (.x o.d (2 ^ o.y.toNat) o.x) l (2 ^ o.y.toNat) none none false) (outStage l) true) ∧
  (∀ h o s, s.executes (.ldgP h o) = true → s.bad o.o = false →
    let off := s.offset o.o o.disp
    let l := handlePlace (s.core.getH o.h) off
    ReachesHandle s o.h off (2 ^ o.y.toNat) (2 ^ o.y.toNat) 5 →
    Launches (.ldgP h o) s 0
      (.load (.x o.d (2 ^ o.y.toNat) o.x) l (2 ^ o.y.toNat) (s.promiseDue (.ldgP h o)) (some o.f) (decide (l = .absent))) (outStage l) false) ∧
  (∀ h o s, s.executes (.stg h o) = true → s.bad o.o = false → s.bad o.s = false → PageThere s o.h →
    let off := s.offset o.o o.disp
    ReachesHandle s o.h off (2 ^ o.y.toNat) (2 ^ o.y.toNat) 6 →
    Launches (.stg h o) s 0 (.store (handlePlace (s.core.getH o.h) off) (wordBytes (s.src o.s) (2 ^ o.y.toNat))) .commit true) ∧
  (∀ h o s, s.executes (.vldg h o) = true → s.bad o.o = false →
    let off := s.offset o.o o.disp
    let l := handlePlace (s.core.getH o.h) off
    ReachesHandle s o.h off 128 4 7 →
    Launches (.vldg h o) s 1
      (.load (.vec (physOp s.core.rbase o.m)) l 128 (s.promiseDue (.vldg h o)) (some o.f) (decide (l = .absent))) (outStage l) false) ∧
  (∀ h o s, s.executes (.vstg h o) = true → s.bad o.o = false → PageThere s o.h →
    (readVec s.core.mrf (physOp s.core.rbase o.m)).poison = 0 →
    let off := s.offset o.o o.disp
    let l := handlePlace (s.core.getH o.h) off
    ReachesHandle s o.h off 128 4 8 →
    Launches (.vstg h o) s 1 (.store l (vecBytes (readVec s.core.mrf (physOp s.core.rbase o.m)))) .commit l.isRemote) ∧
  (∀ h o s, s.executes (.ordld h o) = true → s.bad o.o = false → PageThere s o.h → s.core.holdsWheel = true →
    ReachesHandle s o.h (s.src o.o) (2 ^ o.y.toNat) (2 ^ o.y.toNat) 5 →
    Launches (.ordld h o) s 0
      (.ordLoad o.d (handlePlace (s.core.getH o.h) (s.src o.o)) (2 ^ o.y.toNat) o.x) .commit true) ∧
  (∀ h o s, s.executes (.ordst h o) = true → s.bad o.o = false → s.bad o.s = false → PageThere s o.h → s.core.holdsWheel = true →
    ReachesHandle s o.h (s.src o.o) (2 ^ o.y.toNat) (2 ^ o.y.toNat) 6 →
    Launches (.ordst h o) s 0
      (.ordStore (handlePlace (s.core.getH o.h) (s.src o.o)) (wordBytes (s.src o.s) (2 ^ o.y.toNat))) .commit true) ∧
  (∀ h o s, s.executes (.pref h o) = true → s.bad o.o = false → ReachesHandle s o.h (s.src o.o) 1 1 7 →
    ∃ t, exec (.pref h o) s = .next t ∧ (t.core.seq s.who).pc = s.nextPc (.pref h o) ∧
      t.core.posts = s.core.posts ++ signalPosts s.core.nextId s.who s.seq.pc (unitSignal (.pref h o)) ∧
      t.core.flight = s.core.flight ∧ SameRegisters s.core t.core ∧
      let group := (s.core.getH o.h).remote = true ∧
        ∃ g, s.hub.homeOf s.core.func ((s.core.getH o.h).vaddr + s.src o.o) = .group g
      (group → t.core.fstat = setBit s.core.fstat 3 true ∧ t.hub = s.hub) ∧
      (¬ group → SameStores s.core t.core ∧ SameSpecials s.core t.core) ∧ (¬ group → PageThere s o.h → SameMemory s t))

/-- R241 with R42, R44, R47, R51, R86, R87, R118, R145, R253, R257 to R259, R263, R266 and R284: what an access whose operands are wrong
traps with, by the first check that fails: the local accesses, those through a handle, the decoded VLD, CPGO, CPACC and SAQ. EADDR of a
poisoned count or value is 0, and that of an issue-time BANK_FORMAT of a copy its destination's locator; these two are the model's choice
(log entries 72 and 94). That a local sum does not wrap is inferred (log entry 62), and so is that a handle's sum does (log entry 14). -/
def Obligations.WrongAccessesTrap : Prop :=
  (∀ i s r, s.executes i = true → s.mayEnter → localRow s i = some r → TrapsInOrder i s (r.checks s)) ∧
  (∀ i s r, s.executes i = true → s.mayEnter → handleRow s i = some r → TrapsInOrder i s (r.checks s (orderedAccess i))) ∧
  (∀ h o s, s.executes (.vst h o) = true → s.mayEnter → (readVec s.core.mrf (physOp s.core.rbase o.m)).poison ≠ 0 →
    TrapsWith (.vst h o) s 0x30 (s.seq.getX o.a + BitVec.ofInt 64 o.disp.toInt)) ∧
  (∀ h o s, s.executes (.vstg h o) = true → s.mayEnter → (readVec s.core.mrf (physOp s.core.rbase o.m)).poison ≠ 0 →
    TrapsWith (.vstg h o) s 0x30 (handleEa o.h (s.offset o.o o.disp))) ∧
  (∀ h o s, s.executes (.vldb h o) = true → s.mayEnter → AMap.get [] s.core.bx o.n.toNat = [] →
    TrapsInOrder (.vldb h o) s
      [(s.bad o.a = true, 0x30, s.seq.getX o.a + BitVec.ofInt 64 o.disp.toInt), (2 ^ 22 ≤ s.src o.a, 0x03, s.seq.getX o.a),
       (True, 0x03, BitVec.ofInt 64 (s.src o.a + o.disp.toInt))]) ∧
  (∀ h o s, s.executes (.vld h o) = true → s.mayEnter → o.deco = true →
    let x : Int := s.src o.a + o.disp.toInt
    let b := s.core.getBf (bankOf x.toNat)
    let raw := bfFmt b = 0 ∨ bfSparse b ≠ 0
    TrapsInOrder (.vld h o) s
      [(s.bad o.a = true, 0x30, s.seq.getX o.a + BitVec.ofInt 64 o.disp.toInt), (2 ^ 22 ≤ s.src o.a, 0x03, s.seq.getX o.a),
       (grouped b = false ∧ o.blk ≠ 0 ∧ ¬ raw, 0x03, BitVec.ofInt 64 x),
       (grouped b = false ∧ bfFmt b ≠ 0 ∧ x % elemBytes b ≠ 0, 0x23, BitVec.ofInt 64 x),
       (x < 0 ∨ 0x300000 < x + (if bfFmt b = 0 ∨ bfSparse b ≠ 0 then 1 else spansEnd (decSpans b o.blk.toNat)), 0x20, BitVec.ofInt 64 x),
       (raw ∨ o.int = true ∧ 7 ≤ bfFmt b ∧ bfFmt b ≤ 11, 0x24, BitVec.ofInt 64 x)]) ∧
  (∀ h o s, s.executes (.cpgo h o) = true → s.mayEnter →
    let w := s.src o.s
    let d := s.src o.d
    let n := s.src o.b
    let ls := s.levels (o.dep.toNat + 1)
    let inside := EndInside s w (fun l => l.ss.toInt) ls (fun _ => n) ∧ EndInside s d (fun l => l.ds.toInt) ls (s.copyOut w d n ls) ∧
      (o.fl = true → s.src o.f + 8 ≤ 0x300000)
    TrapsInOrder (.cpgo h o) s (cpgoChecks s o) ∧
    (Passes (cpgoChecks s o) → ¬ inside → ∃ ea, TrapsWith (.cpgo h o) s 0x20 ea) ∧
    (Passes (cpgoChecks s o) → inside → TrapsInOrder (.cpgo h o) s
      [(endKind w = 2 ∧ ¬ PageThere s (endHandle w), 0x20, s.seq.getX o.s), (endKind d = 2 ∧ ¬ PageThere s (endHandle d), 0x20, s.seq.getX o.d),
       (∃ j < nestCount ls, burstOk (s.copyFormats w d ls j).1 (s.copyFormats w d ls j).2 n = false, 0x24, s.seq.getX o.d)])) ∧
  (∀ h o s, s.executes (.cpacc h o) = true → s.mayEnter →
    let inside := ∀ i ≤ o.nr.toNat, s.accRow o i + s.accOut o i ≤ 0x300000
    TrapsInOrder (.cpacc h o) s (cpaccChecks s o) ∧
    (Passes (cpaccChecks s o) → ¬ inside → ∃ ea, TrapsWith (.cpacc h o) s 0x20 ea) ∧
    (Passes (cpaccChecks s o) → inside → (∃ i ≤ o.nr.toNat, ¬ AccTarget (s.accFormat o i)) →
      TrapsWith (.cpacc h o) s 0x24 (s.seq.getX o.d))) ∧
  (∀ h o s, s.executes (.saq h o) = true → s.mayEnter → TrapsInOrder (.saq h o) s (saqChecks s o))

/-- R246, R249 to R254, R31, R98 and R99: LOAD_VALUE_RETURN writes the bytes of a load, extended as the load says, decoded by the latched
format, or cut into the fields of its pattern; its flag says whether the page was absent; memory stays. A vector load
reads what memory holds at its address, takes the side port in its turn, and ends in the last pulse in which its vector occupies it; the
vector lands at the end of that pulse. -/
def Obligations.LoadsBringTheirBytes : Prop :=
  (∀ s f r n sx l pf absent bs, f.op = .load (.x r n sx) l n none pf absent → LoadHas s f l n bs → bs.length = n →
    ∃ t, exec (.loadValueReturn f.id) s = .next t ∧ Finished f s t ∧ SameMemory s t ∧ SetsFlag f pf absent s.core t.core ∧
      SameMrf s.core t.core ∧
      LandsX f.q r (if sx then BitVec.ofInt 64 (signedOf (8 * n) (leNat bs)) else BitVec.ofNat 64 (leNat bs)) false s.core t.core) ∧
  (∀ s f dst l n pf absent m bs ms, f.op = .load dst l n none pf absent → f.sideVec = some m → VecHas s f dst l n bs ms →
    ¬ EndsSide s.core f m →
    ∃ t, exec (.loadValueReturn f.id) s = .next t ∧ SameMemory s t ∧ SameRegisters s.core t.core ∧ SameStores s.core t.core ∧
      t.core.flightOf f.id = some { f with stage := .done, data := bs, marks := ms } ∧ TakesSide s.core t.core f m ∧
      t.core.sideWr = s.core.sideWr) ∧
  (∀ s f dst l n pf absent m v bs ms, f.op = .load dst l n none pf absent → VecHas s f dst l n bs ms → EndsSide s.core f m →
    (dst = .vec m ∧ v = bytesVec bs ∨ (∃ b int blk, dst = .dec m b int blk ∧ v = decVec b int blk bs) ∨
      (∃ p, dst = .fields m p ∧ v = fieldVec p bs)) →
    ∃ t, exec (.loadValueReturn f.id) s = .next t ∧ Finished f s t ∧ SameMemory s t ∧ SetsFlag f pf absent s.core t.core ∧
      SameX s.core t.core ∧ SameMrf s.core t.core ∧ t.core.sideWr = s.core.sideWr ++ [(m, v)]) ∧
  (∀ c : Core, ∀ m v, c.sideWr = [(m, v)] → WritesVec c c.landSide m v ∧ c.landSide.sideWr = []) ∧
  (∀ s f k l n pf absent bs, f.op = .load (.pattern k) l n none pf absent → LoadHas s f l n bs → patOk bs = true →
    ∃ t, exec (.loadValueReturn f.id) s = .next t ∧ Finished f s t ∧ SameMemory s t ∧ SameX s.core t.core ∧ SameMrf s.core t.core ∧
      ∀ j, AMap.get [] t.core.bx j = if j = k.toNat then bs else AMap.get [] s.core.bx j)

/-- R24, R40, R248 and R249: at its due cycle a promised load writes its data where that is there; where it is not, it poisons its
destination and the data that comes later is discarded; one that timed out poisons it and ends. A scalar goes to its register; a vector takes
its side port in this cycle, and one that finds the port held by others is late for it and is poisoned. -/
def Obligations.PromisedLoadsAreDue : Prop :=
  (∀ s f r n sx l due pf absent, s.core.flightOf f.id = some f → f.op = .load (.x r n sx) l n (some due) pf absent → f.late = false →
    due ≤ s.core.cycle →
    ∃ t, exec (.promisedLoadDue f.id) s = .next t ∧ SameMemory s t ∧ SameMrf s.core t.core ∧
      (f.stage = .done → f.marks = [] → Finished f s t ∧ SetsFlag f pf absent s.core t.core ∧
        LandsX f.q r (extendScalar (f.data.take n) sx) false s.core t.core) ∧
      (f.stage = .timedOut → Finished f s t ∧ SetsFlag f pf false s.core t.core ∧ LandsX f.q r 0 true s.core t.core) ∧
      (f.stage ≠ .done → f.stage ≠ .timedOut → LandsX f.q r 0 true s.core t.core ∧ SameP s.core t.core ∧
        t.core.flight = s.core.flight.map fun g => if g.id = f.id then { g with late := true } else g)) ∧
  (∀ s f m l n due pf absent, s.core.flightOf f.id = some f → f.op = .load (.vec m) l n (some due) pf absent → f.late = false →
    due ≤ s.core.cycle →
    let r := s.core.reserve .side m s.core.cycle
    let writes (d : Core) (v : Vec) : Prop := d.ports = r.2.ports ∧ d.mwr = s.core.mwr ++
      [⟨s.core.nextId, r.1, r.1 + occupancy s.core.map m - 1, m, if r.1 = s.core.cycle then v else Vec.poisoned, BitVec.allOnes 32, true⟩]
    ∃ t, exec (.promisedLoadDue f.id) s = .next t ∧ SameMemory s t ∧ SameMrf s.core t.core ∧ SameX s.core t.core ∧
      (f.stage = .done → f.marks = [] → Finished f s t ∧ SetsFlag f pf absent s.core t.core ∧ writes t.core (bytesVec f.data)) ∧
      (f.stage = .timedOut → Finished f s t ∧ SetsFlag f pf false s.core t.core ∧ writes t.core Vec.poisoned) ∧
      (f.stage ≠ .done → f.stage ≠ .timedOut → writes t.core Vec.poisoned ∧ SameP s.core t.core ∧
        t.core.flight = s.core.flight.map fun g => if g.id = f.id then { g with late := true } else g)) ∧
  (∀ s f dst l n due pf absent, s.core.flightOf f.id = some f → f.op = .load dst l n (some due) pf absent → f.late = true → f.due ≤ s.core.pulse →
    f.stage = .done →
    ∃ t, exec (.loadValueReturn f.id) s = .next t ∧ Finished f s t ∧ SetsFlag f pf absent s.core t.core ∧ SameMemory s t ∧ SameX s.core t.core ∧
      SameMrf s.core t.core)

/-- R246, R247, R250, R252 and R99 with R106: STORE_ACKNOWLEDGE of a store to the scratchpad or to HBM writes its bytes at its address and no other byte,
and completes. -/
def Obligations.StoresWriteTheirBytes : Prop :=
  ∀ s f l bs, f.op = .store l bs → s.due f → f.stage = .going → s.core.blocked f = false → s.hbmHeld l bs.length f.id = false →
    ∃ t, exec (.storeAcknowledge f.id) s = .next t ∧ Finished f s t ∧ SameRegisters s.core t.core ∧ SameStores s.core t.core ∧
      (∀ a, l = .spad a → Writes s.core.spad t.core.spad a bs ∧ t.hub = s.hub ∧ t.parked = s.parked) ∧
      (∀ a, l = .hbm a → s.hub.mustHold a bs.length = false → Writes s.hub.hbm t.hub.hbm a bs ∧ t.hub.host = s.hub.host ∧
        t.core.spad = s.core.spad ∧ t.parked = s.parked)

/-- R118 to R120: an ordered operation of this package is performed at a tick whose wheel position its core holds, and stays put at the
others.
Moreover: R265: a WAITA whose flag word has reached its value ends with its predicate all ones; one whose time has passed ends with it zero. -/
def Obligations.OrderedOperationsAndWaitaEnd : Prop :=
  (
  ∀ s f, s.core.flightOf f.id = some f → f.stage = .away →
    let mine := s.core.task.any fun k => k.wheel.contains (s.tick % 1024)
    (mine = false → exec (.orderedOpPerform f.id) s = .next s) ∧
    (∀ d l n sx, mine = true → f.op = .ordLoad d l n sx → l.isRemote = false → s.hbmHeld l n f.id = false →
      ∃ t g, exec (.orderedOpPerform f.id) s = .next t ∧ t.core.flightOf f.id = some g ∧ g.stage = .done ∧
        g.data = (s.readLoc l 0 n).1 ∧ SameMemory s t ∧ SameRegisters s.core t.core ∧ SameStores s.core t.core) ∧
    (∀ a bs, mine = true → f.op = .ordStore (.hbm a) bs → s.hbmHeld (.hbm a) bs.length f.id = false →
      s.hub.mustHold a bs.length = false →
      ∃ t g, exec (.orderedOpPerform f.id) s = .next t ∧ t.core.flightOf f.id = some g ∧ g.stage = .done ∧
        Writes s.hub.hbm t.hub.hbm a bs ∧ t.core.spad = s.core.spad ∧ SameRegisters s.core t.core ∧ SameStores s.core t.core)) ∧
  (
  ∀ s f e a v lim, s.core.flightOf f.id = some f → f.op = .waita e a v lim →
    (f.due ≤ s.core.pulse → (s.readLoc (.spad a) 0 8).2 = [] → s.core.erchk = false → v.toNat ≤ leNat (memRead s.core.spad a 8) →
      ∃ t, exec (.waitaSatisfied f.id) s = .next t ∧ Finished f s t ∧ LandsP f.q e (BitVec.allOnes 32) s.core t.core ∧
        SameX s.core t.core ∧ SameMemory s t ∧ SameStores s.core t.core) ∧
    (lim ≠ 15 → 1024 * 2 ^ lim.toNat ≤ (s.core.seq f.q).wd →
      ∃ t, exec (.waitaTimeout f.id) s = .next t ∧ Finished f s t ∧ LandsP f.q e 0 s.core t.core ∧ SameX s.core t.core ∧
        SameMemory s t ∧ SameStores s.core t.core))

namespace Sys2Proof.Machine

/-! Handles (R242 to R245), synchronisation objects (R271 to R274), fences (R269, R275) and CFREE (R281). -/

/-- The package gains at most a translation in a cache. -/
def OnlyCached (h : Hub) (g : Hub) : Prop := g = h ∨ ∃ die e, g = h.putDie die e

/-- The handle of a page homed here (R50, R242): valid, with the size, rights and physical base of its translation. -/
structure HandleOf (x : Xl) (h : Hnd) : Prop where
  valid : h.valid = true ∧ h.miss = false ∧ h.remote = false ∧ h.resident = true
  size : h.size = pageBytes x.psize
  rights : (∀ b, b < 10 → h.perm (5 + b) = x.perm.getLsbD b) ∧ h.sync = x.sync
  base : h.paddr = x.pa

/-- A page homed here whose translation is present. -/
structure PageHere (s : State) (va : Nat) (x : Xl) : Prop where
  home : s.hub.homeOf s.core.func va = .own
  found : (s.translate va).1 = x
  present : x.present = true
  shape : x.psize ≤ 2 ∧ x.pa < 2 ^ 52 ∧ x.error = false

/-- A handle that was not resident, of a page homed here that a walk now finds present (R242, R245). -/
structure BecamePresent (s : State) (h : Hnd) (x : Xl) : Prop where
  before : h.valid = true ∧ h.miss = false ∧ h.remote = false ∧ h.resident = false
  home : s.hub.homeOf s.core.func h.va = .own
  found : s.hub.walk s.core.func h.va = x
  present : x.present = true
  shape : x.psize ≤ 2 ∧ x.pa < 2 ^ 52

/-- The synchronisation instructions: operation, address register, value registers and destination. -/
def syncRow (s : State) : Instr → Option (SyncKind × BitVec 5 × List (BitVec 5) × Option (BitVec 5))
  | .acqL _ o => some (.acqL, o.a, [], none)
  | .acqG _ o => some (.acqG (s.seq.getX o.b), o.a, [o.b], none)
  | .relL _ o => some (.relL, o.a, [], none)
  | .relI _ o => some (.relI, o.a, [], none)
  | .sycas _ o => some (.sycas (s.seq.getX o.e) (s.seq.getX o.n), o.a, [o.e, o.n], some o.d)
  | .syrd _ o => some (.syrd, o.a, [], some o.d)
  | .unbind _ o => some (.unbind (s.src o.b), o.a, [o.b], none)
  | .bind h o =>
    if s.src o.b % 64 = 0 ∧ s.src o.l % 64 = 0 ∧ 64 ≤ s.src o.l ∧ s.src o.l ≤ 2 ^ 36 then
      some (.bind (s.src o.b) (s.src o.l) ((h.pfx.mem.map (·.scope)).getD 0), o.a, [o.b, o.l], none)
    else none
  | _ => none

/-- What the sync unit does to a word (R272): none where the operation waits, else the word to be written, if any. -/
def syncRule (k : SyncKind) (w : Word) : Option (Option Word) :=
  match k with
  | .acqL => if w = 0 then some (some 1) else none
  | .acqG v => if v.toNat ≤ w.toNat then some none else none
  | .relL => some (some 0)
  | .relI => some (some (BitVec.ofNat 64 (w.toNat + 1)))
  | .sycas e n => some (if w = e then some n else none)
  | _ => some none

/-- The kinds that act on the word alone. -/
def wordKind : SyncKind → Bool
  | .bind .. => false
  | .unbind _ => false
  | _ => true

end Sys2Proof.Machine

open Sys2Proof Sys2Proof.Machine

/-- R242 to R245 with R50, R157 and R241: XLATE makes a handle after 24 cycles, or marks it as still being walked; HINV clears VALID
at once and then waits for the accesses through it; HQRY reads a part; PGREQ of a page that is resident, or has become present,
completes at once, and of a page of another package asks its home.
Moreover: R242 and R245: the handle that XLATE or the end of its walk writes is that of the page's translation, and one whose
walk runs on knows its home; PGREQ_COMPLETE fills only
handles of pages that had not been resident. -/
def Obligations.HandlesAreMade : Prop :=
  (
  (∀ h o s, s.executes (.xlate h o) = true → s.bad o.a = false → s.src o.a < 2 ^ 57 →
    ∃ t walk, exec (.xlate h o) s = .next t ∧ (t.core.seq s.who).pc = s.nextPc (.xlate h o) ∧
      t.core.done = s.core.done ++ [s.pending (.xlate h o) 24 [.h o.h (s.src o.a) walk]] ∧ Unwritten (.xlate h o) s t ∧
      (walk = false → t.core.flight = s.core.flight) ∧
      (walk = true → ∃ f, t.core.flight = s.core.flight ++ [f] ∧ f.op = .xlate o.h (s.src o.a)) ∧ t.hub = s.hub) ∧
  (∀ h o s, s.executes (.hinv h o) = true → (o.all = true → o.h = 0) →
    ∃ t f, exec (.hinv h o) s = .next t ∧ t.core.flight = s.core.flight ++ [f] ∧ f.op = .hinv o.all o.h (s.core.handleUsers o.all o.h) ∧
      (t.core.seq s.who).pc = s.nextPc (.hinv h o) ∧
      (∀ r, t.core.getH r = if o.all = true ∨ r = o.h then (s.core.getH r).clearValid else s.core.getH r) ∧
      Unwritten (.hinv h o) s { t with core := { t.core with hnd := s.core.hnd } } ∧ t.hub = s.hub) ∧
  (∀ h o s, s.executes (.hqry h o) = true → o.part ≠ 3 → Completes (.hqry h o) s 1 [.x s.who o.d
    (let v := s.core.getH o.h
     if o.part = 0 then BitVec.ofNat 64 (v.bits.toNat % 2 ^ 64)
     else if o.part = 1 then BitVec.ofNat 64 (v.bits.toNat / 2 ^ 64)
     else BitVec.ofNat 64 (v.home.toNat + v.tenant.toNat * 1024)) false]) ∧
  (∀ h o s, s.executes (.pgreq h o) = true → s.bad o.o = false → (s.core.getH o.h).valid = true → s.src o.o < (s.core.getH o.h).size →
    ((s.core.getH o.h).remote = false → (s.core.getH o.h).resident = true →
      ∃ t, exec (.pgreq h o) s = .next t ∧ (t.core.seq s.who).pc = s.nextPc (.pgreq h o) ∧
        t.core.posts = s.core.posts ++ signalPosts s.core.nextId s.who s.seq.pc (unitSignal (.pgreq h o)) ∧
        t.core.flight = s.core.flight ∧ Unwritten (.pgreq h o) s t ∧ t.hub = s.hub) ∧
    ((s.core.getH o.h).remote = true → (s.core.getH o.h).denied = false → Launches (.pgreq h o) s 8
      (.pgreq o.h (s.src o.o) ((s.core.getH o.h).vaddr + s.src o.o)) .commit false)) ∧
  (∀ h o s x, s.executes (.pgreq h o) = true → s.bad o.o = false → BecamePresent s (s.core.getH o.h) x → s.src o.o < pageBytes x.psize →
    ∃ t, exec (.pgreq h o) s = .next t ∧ (t.core.seq s.who).pc = s.nextPc (.pgreq h o) ∧
      t.core.posts = s.core.posts ++ signalPosts s.core.nextId s.who s.seq.pc (unitSignal (.pgreq h o)) ∧
      t.core.flight = s.core.flight ∧ HandleOf x (t.core.getH o.h) ∧ (∀ q, q ≠ o.h → t.core.getH q = s.core.getH q) ∧ t.hub = s.hub)) ∧
  (
  (∀ p r va x s, PageHere s va x → Lands p (.h r va false) s fun t =>
    HandleOf x (t.core.getH r) ∧ ∀ q, q ≠ r → t.core.getH q = s.core.getH q) ∧
  (∀ p r va s, Lands p (.h r va true) s fun t =>
    (t.core.getH r).valid = true ∧ (t.core.getH r).miss = true ∧
      (s.hub.homeOf s.core.func va = .own → (t.core.getH r).remote = false) ∧
      (∀ n, s.hub.homeOf s.core.func va = .pkg n → (t.core.getH r).remote = true ∧ (t.core.getH r).home = BitVec.ofNat 10 n) ∧
      ∀ q, q ≠ r → t.core.getH q = s.core.getH q) ∧
  (∀ s f r va x, s.due f → f.op = .xlate r va → (s.core.getH r).miss = true → (s.core.getH r).va = va →
    (s.core.getH r).valid = true → s.hub.stacksOpen = true → PageHere s va x →
    ∃ t, exec (.tableWalkEnd f.id) s = .next t ∧ HandleOf x (t.core.getH r) ∧ (∀ q, q ≠ r → t.core.getH q = s.core.getH q) ∧
      t.core.flight = s.core.flight.filter (fun g => g.id != f.id) ∧ SameMemory s t ∧ SameRegisters s.core t.core) ∧
  (∀ s f r off va, s.due f → f.op = .pgreq r off va → f.stage = .done →
    ∃ t, exec (.pgreqComplete f.id) s = .next t ∧ Finished f s t ∧ SameMemory s t ∧ SameRegisters s.core t.core ∧
      ∀ q, ((s.core.getH q).valid = false ∨ (s.core.getH q).remote = true ∨ (s.core.getH q).resident = true) →
        t.core.getH q = s.core.getH q) ∧
  (∀ s f all r after, s.due f → f.op = .hinv all r after → (∀ n ∈ after, n ∉ s.core.handleUsers all r) →
    ∃ t, exec (.hinvComplete f.id) s = .next t ∧ Finished f s t ∧ SameMemory s t ∧ SameRegisters s.core t.core ∧
      SameStores s.core t.core))

/-- R271 to R274 with R392: a synchronisation instruction whose operands are clean and aligned sends its operation to the object, here or at
its home, and holds CT; a poisoned operand traps with UNDERSIZED_DELAY, a misaligned address with ALIGNMENT, an address beyond 57 bits and an
absent page with TRANSLATION_FAULT, which a walk that met a broken entry also reports in the fault ring, and a page that is no SYNC page with
PERMISSION. BIND of a misaligned base traps with ALIGNMENT, and of a bad length with ILLEGAL_FIELD, before its object is looked up (log entry
52). -/
def Obligations.SyncInstructionsReachTheirObject : Prop :=
  (∀ i s k a rs d, syncRow s i = some (k, a, rs, d) → s.executes i = true →
    (∀ x, (a :: rs).any s.bad = false → s.src a % 8 = 0 → s.src a < 2 ^ 57 → PageHere s (s.src a) x → x.sync = true →
      LaunchesIn (OnlyCached s.hub) i s 8 (.sync k (.hbm (x.pa + s.src a % pageBytes x.psize)) (s.src a) d) .commit true) ∧
    (∀ n, (a :: rs).any s.bad = false → s.src a % 8 = 0 → s.src a < 2 ^ 57 → s.hub.homeOf s.core.func (s.src a) = .pkg n →
      Launches i s 8 (.sync k (.remote (BitVec.ofNat 10 n) (s.src a)) (s.src a) d) .commit true) ∧
    ((a :: rs).any s.bad = true → s.mayEnter → TrapsWith i s 0x30 (s.seq.getX a)) ∧
    ((a :: rs).any s.bad = false → s.src a % 8 ≠ 0 → s.mayEnter → TrapsWith i s 0x23 (s.seq.getX a)) ∧
    ((a :: rs).any s.bad = false → s.src a % 8 = 0 → 2 ^ 57 ≤ s.src a → s.mayEnter → TrapsWith i s 0x20 (s.seq.getX a)) ∧
    ((a :: rs).any s.bad = false → s.src a % 8 = 0 → s.src a < 2 ^ 57 → s.mayEnter → s.hub.homeOf s.core.func (s.src a) = .own →
      let x := (s.translate (s.src a)).1
      (x.present = true → x.sync = false → TrapsWith i s 0x21 (s.seq.getX a)) ∧
      (x.present = false → (s.hub.walk s.core.func (s.src a)).error = false → TrapsWith i s 0x20 (s.seq.getX a)) ∧
      (x.present = false → (s.hub.walk s.core.func (s.src a)).error = true →
        ∃ u, Entered s u s.who 0x20 s.seq.pc (s.seq.getX a) ∧
          exec i s = .next (u.fault s.core.func (s.src a) 2 0 true s.hub.pkg none).2))) ∧
  (∀ h o s, s.executes (.bind h o) = true → [o.a, o.b, o.l].any s.bad = false → s.src o.a % 8 = 0 → s.mayEnter →
    (s.src o.b % 64 ≠ 0 → TrapsWith (.bind h o) s 0x23 (s.seq.getX o.b)) ∧
    (s.src o.b % 64 = 0 → (s.src o.l % 64 ≠ 0 ∨ s.src o.l < 64 ∨ 2 ^ 36 < s.src o.l) → TrapsWith (.bind h o) s 0x03 (s.seq.getX o.b)))

/-- R272, R112 and R115: the sync unit applies the table's rule to the object's word, once the writes that a release covers have been made;
an acquire that does not find its value waits there, behind those that came before it; a release that satisfies one performs it in the same
moment; SYNC_REPLY gives the old word to SYCAS and SYRD and lets CT go on. -/
def Obligations.SyncUnitAppliesItsRule : Prop :=
  (∀ s f k pa va d, s.phase ≠ .hub → s.due f → f.op = .sync k (.hbm pa) va d → f.stage = .away → wordKind k = true →
    (isRel k = true → s.core.writesPending f.id = false) → (∀ x ∈ s.hub.syncWait, x.pa ≠ pa) → s.hub.hbmOpen pa 8 = true →
    let w := BitVec.ofNat 64 (leNat (s.hub.readHbm pa 8))
    (syncRule k w = none → ∃ t, exec (.syncOpPerform f.id) s = .next t ∧ t.core = s.core ∧ SameMemory s t ∧
      t.hub.syncWait = s.hub.syncWait.filter s.awaits ++
        [⟨.core s.core.id f.id, k, pa, s.hub.pkg, s.core.id, s.core.func, f.hnd.map (·.2), s.hub.nextId⟩]) ∧
    (∀ r, syncRule k w = some r → s.hub.mustHold pa 8 = false →
      ∃ t g, exec (.syncOpPerform f.id) s = .next t ∧ t.core.flightOf f.id = some g ∧ g.stage = .done ∧
        g.data = wordBytes w.toNat 8 ∧ t.core.spad = s.core.spad ∧ SameRegisters s.core t.core ∧ SameStores s.core t.core ∧
        SameSpecials s.core t.core ∧ t.hub.host = s.hub.host ∧ t.hub.syncWait = s.hub.syncWait ∧
        match r with
        | some v => Writes s.hub.hbm t.hub.hbm pa (wordBytes v.toNat 8)
        | none => t.hub.hbm = s.hub.hbm)) ∧
  (∀ s f pa va d p pkg core fn via no, s.phase ≠ .hub → s.due f → f.op = .sync .relL (.hbm pa) va d → f.stage = .away →
    s.core.writesPending f.id = false → s.hub.syncWait = [⟨.packet p, .acqL, pa, pkg, core, fn, via, no⟩] →
    s.hub.mustHold pa 8 = false → s.hub.hbmOpen pa 8 = true →
    BitVec.ofNat 64 (leNat (s.hub.readHbm pa 8)) ≠ 0 →
    ∃ t, exec (.syncOpPerform f.id) s = .next t ∧ Writes s.hub.hbm t.hub.hbm pa (wordBytes 1 8) ∧ t.hub.syncWait = [] ∧
      t.hub.out = s.hub.out ++ [s.hub.answerTo p 0 false (.data (wordBytes 0 8) [])]) ∧
  (∀ s f k l va d, s.due f → f.op = .sync k l va d → f.stage = .done → (d.isSome = true → f.marks = []) →
    ∃ t, exec (.syncReply f.id) s = .next t ∧ Finished f s t ∧ SameMemory s t ∧ SameStores s.core t.core ∧ SameP s.core t.core ∧
      match d with
      | some r => LandsX f.q r (BitVec.ofNat 64 (leNat f.data)) false s.core t.core
      | none => SameX s.core t.core)

/-- R274 with R114: BIND adds a region that overlaps no other bound region of its context, at most sixteen to an object, UNBIND takes it
away, and either is refused with PERMISSION otherwise. That the bound regions are those this package knows of, at its own objects and by its
cores at objects homed elsewhere, is inferred (log entry 52); a BIND at another home that overlaps one is refused before it leaves. -/
def Obligations.BindingsAtTheirHome : Prop :=
  (∀ s f pa va d base len scope, s.phase ≠ .hub → s.due f → f.op = .sync (.bind base len scope) (.hbm pa) va d → f.stage = .away →
    (∀ x ∈ s.hub.syncWait, x.pa ≠ pa) → s.hub.hbmOpen pa 8 = true →
    if (∃ b ∈ s.hub.bound ++ s.hub.boundAway, b.func = s.core.func ∧ b.base < base + len ∧ base < b.base + b.len) ∨
        16 ≤ (s.hub.bound.filter fun b => b.obj = pa).length then
      ∃ t, exec (.syncOpPerform f.id) s = .next t ∧ t.hub = s.hub ∧
        t.core.pend = s.core.pend ++ [⟨f.q, 0x21, some f.pc, BitVec.ofNat 64 base, false, f.level, false⟩]
    else ∃ t, exec (.syncOpPerform f.id) s = .next t ∧ SameMemory s t ∧
      t.hub.bound = s.hub.bound ++ [⟨pa, base, len, scope, s.hub.pkg, s.core.id, s.core.func⟩]) ∧
  (∀ s f pa va d base, s.phase ≠ .hub → s.due f → f.op = .sync (.unbind base) (.hbm pa) va d → f.stage = .away →
    (∀ x ∈ s.hub.syncWait, x.pa ≠ pa) → s.hub.hbmOpen pa 8 = true →
    if ∃ b ∈ s.hub.bound, b.obj = pa ∧ b.base = base then
      ∃ t, exec (.syncOpPerform f.id) s = .next t ∧ SameMemory s t ∧
        t.hub.bound = s.hub.bound.filter fun b => !(b.obj = pa && b.base = base)
    else ∃ t, exec (.syncOpPerform f.id) s = .next t ∧ t.hub = s.hub ∧
      t.core.pend = s.core.pend ++ [⟨f.q, 0x21, some f.pc, BitVec.ofNat 64 base, false, f.level, false⟩]) ∧
  (∀ s f base len scope home va w d, s.due f → f.op = .sync (.bind base len scope) (.remote home va) w d → f.stage = .commit →
    (∃ b ∈ s.hub.bound ++ s.hub.boundAway, b.func = s.core.func ∧ b.base < base + len ∧ base < b.base + b.len) →
    ∃ t, exec (.commitRelease f.id) s = .next t ∧ t.hub = s.hub ∧ SameRegisters s.core t.core ∧
      (t.core.flightOf f.id).map (fun g => (g.stage, g.data)) = some (.refused, [1])) ∧
  (∀ s f base len scope l va d, s.due f → f.op = .sync (.bind base len scope) l va d → f.stage = .refused → f.data ≠ [] →
    ∃ t, exec (.lateFault f.id) s = .next t ∧ t.hub = s.hub ∧ SameRegisters s.core t.core ∧
      t.core.pend = s.core.pend ++ [⟨f.q, 0x21, some f.pc, BitVec.ofNat 64 base, false, f.level, false⟩])

/-- R269, R275 and R103 with R98: SADRAIN and XFENCE hold their sequencer with a list of what they wait for, XFENCE with what of the path is
core-ordered before it, and end when none of it is left; nothing is written. What counts as core-ordered before a fence is inferred (log
entry 16). -/
def Obligations.FencesWaitForWhatTheyCover : Prop :=
  (∀ h s, s.executes (.sadrain h) = true → Launches (.sadrain h) s 4 (.sadrain (s.core.sae.map (·.id))) .going true) ∧
  (∀ h o s, s.executes (.xfence h o) = true →
    let c := s.core.takeTokens ((Instr.xfence h o).info.bind (tokenWait (.xfence h o)))
    Launches (.xfence h o) s 8
      (.xfence o.a o.b (((s.core.pathUsers o.a.toNat).filter fun x => c.ordered s.who x.2 x.1).map (·.1))) .going true) ∧
  (∀ s f after, s.core.flightOf f.id = some f → f.op = .sadrain after →
    (f.due ≤ s.core.pulse → (∀ n ∈ after, ∀ x ∈ s.core.sae, x.id ≠ n) →
      ∃ t, exec (.sadrainComplete f.id) s = .next t ∧ Finished f s t ∧ SameMemory s t ∧ SameRegisters s.core t.core ∧
        SameStores s.core t.core) ∧
    ((∃ n ∈ after, ∃ x ∈ s.core.sae, x.id = n) → exec (.sadrainComplete f.id) s = .next s)) ∧
  (∀ s f a b after, s.core.flightOf f.id = some f → f.op = .xfence a b after →
    (f.due ≤ s.core.pulse → (∀ n ∈ after, n ∉ (s.core.pathUsers a.toNat).map (·.1)) →
      ∃ t, exec (.xfenceComplete f.id) s = .next t ∧ Finished f s t ∧ SameMemory s t ∧ SameRegisters s.core t.core ∧
        SameStores s.core t.core) ∧
    ((∃ n ∈ after, n ∈ (s.core.pathUsers a.toNat).map (·.1)) → exec (.xfenceComplete f.id) s = .next s))

namespace Sys2Proof.Machine

/-! The copy engine (R256 to R264), the SAE (R266 to R268), FSIG (R276) and the chain instructions (R279 to R281). -/

/-- The engine accepts one command of the unit (R262), and nothing else that a program reads changes. -/
structure Accepted (i : Instr) (s t : State) (k : EngineCmd) : Prop where
  added : t.core.cmds = s.core.cmds ++ [k]
  names : k.q = s.who ∧ k.pc = s.seq.pc ∧ k.sig = unitSignal i ∧ k.start = none ∧ k.stage = .going ∧ k.quiet = false ∧
    k.level = s.core.level ∧ k.bf = s.core.bf
  pc : (t.core.seq s.who).pc = s.nextPc i
  work : t.core.done = s.core.done ∧ t.core.posts = s.core.posts ∧ t.core.flight = s.core.flight
  loops : SameLoops s.core t.core
  rest : Unwritten i s t

/-- Rounding that is not stochastic. -/
def steady (i : Instr) : Prop := ((unitPfx i).arith.getD Arith.default).rm ≠ 5

/-- The command in the engine of an identity. -/
def State.command (s : State) (k : EngineCmd) : Prop := s.core.cmdOf k.id = some k

/-- The flag word of a command, as a write (R109); a quiet one has none. -/
def flagWrites (k : EngineCmd) : List MemWrite :=
  match k.flag with
  | some (l, v) => if k.quiet then [] else [⟨l, wordBytes v.toNat 8, []⟩]
  | none => []

/-- A state after some writes, one after another. -/
def landed (s : State) (ws : List MemWrite) : State := ws.foldl (fun s w => s.writeLoc w.loc w.bytes w.marks) s

/-- Every memory holds the same bytes. -/
def SameBytes (s t : State) : Prop :=
  t.core.spad = s.core.spad ∧ t.parked.map (·.spad) = s.parked.map (·.spad) ∧ t.hub.hbm = s.hub.hbm ∧ t.hub.host = s.hub.host

/-- The post of a command. -/
def cmdPosts (k : EngineCmd) : List Post := if k.quiet then [] else signalPosts k.id k.q k.pc k.sig

/-- A command has completed: it is gone, and its post is made. -/
structure CommandOver (k : EngineCmd) (s t : State) : Prop where
  gone : t.core.cmds = s.core.cmds.filter fun g => g.id != k.id
  posts : t.core.posts = s.core.posts ++ cmdPosts k
  rest : SameRegisters s.core t.core ∧ SameStores s.core t.core ∧ SameSpecials s.core t.core ∧ SameLoops s.core t.core

/-- A core of the task's gang with one of some ranks, where it stands in a state. -/
def GangCore (s : State) (ranks : List Nat) (c : Core) : Prop :=
  ∃ k u, s.core.task = some k ∧ c.task = some u ∧ u.gang = k.gang ∧ u.rank ∈ ranks

/-- A dense integer format (R45), the value of a pattern of it, and the least and greatest values. -/
def denseInt (f : BitVec 32) : Prop := 1 ≤ bfFmt f ∧ bfFmt f ≤ 6 ∧ bfScale f = false ∧ bfSparse f = 0
def intValue (f : BitVec 32) (w : Nat) : Int := if bfFmt f % 2 = 1 then signedOf (8 * elemBytes f) w else w
def intLeast (f : BitVec 32) : Int := if bfFmt f % 2 = 1 then -2 ^ (8 * elemBytes f - 1) else 0
def intGreatest (f : BitVec 32) : Int := if bfFmt f % 2 = 1 then 2 ^ (8 * elemBytes f - 1) - 1 else 2 ^ (8 * elemBytes f) - 1

/-- A piece of a list of bytes: element `i` of `n` bytes. -/
def piece (bs : List Byte) (i n : Nat) : List Byte := (bs.drop (i * n)).take n

/-- The requests of a package: who waits, kind, address, body and multicast group. -/
def asked (h : Hub) : List (Option Owner × BitVec 5 × Nat × Body × Nat) :=
  h.requests.map fun r => (r.owner, r.packet.kind, r.packet.va, r.packet.body, r.packet.group)

/-- Combine of R267 on held patterns: `op` 0 adds, 1 and 2 take the lesser and the greater; type 0 is i32, the others are held as f32. -/
def combined32 (op ty : BitVec 2) (a : Arith) (x y : Nat) : Nat :=
  if op = 0 then
    if ty = 0 then
      let v := signedOf 32 x + signedOf 32 y
      narrow 32 (if a.sat then min (2 ^ 31 - 1) (max (-2 ^ 31) v) else v)
    else roundTo .f32 (addNum a.rm (inputOf a .f32 x) (inputOf a .f32 y)) a 0 % 2 ^ 32
  else if ty = 0 then (if (signedOf 32 x < signedOf 32 y) = (op = 2) then y else x)
  else (pickLane (op = 2) .f32 a x y).v % 2 ^ 32

/-- Apply of R267: the word that an update leaves where `old` stood; bf16 is held as f32 and rounded at last. -/
def applied (op ty : BitVec 2) (a : Arith) (old part : Nat) : Nat :=
  let v := combined32 op ty a (if ty = 2 then old * 65536 else old) part
  if ty = 2 then roundTo .bf16 (numOf .f32 v) a 0 else v

/-- The scratchpad of a core after bytes are written at an address of it; every other scratchpad is as it was. -/
def WritesCore (s t : State) (n a : Nat) (bs : List Byte) : Prop :=
  (∀ c, s.coreAt n = some c → ∃ d, t.coreAt n = some d ∧ Writes c.spad d.spad a bs) ∧
    ∀ m, m ≠ n → (t.coreAt m).map (·.spad) = (s.coreAt m).map (·.spad)

/-- A core of this package runs a task of a tenant (R276). -/
def RunsTenant (s : State) (n : Nat) (tenant : BitVec 20) : Prop :=
  ∃ c k, s.coreAt n = some c ∧ c.status ≠ .killed ∧ c.task = some k ∧ k.tenant = tenant

end Sys2Proof.Machine

open Sys2Proof Sys2Proof.Machine

/-- R180 to R182 and R184: CRGN.OPEN records the region, CRGN.CLOSE discards the innermost, CRGN.ABORT asks for its unwind; ROTB and
SETRB set RBASE from the next cycle. Above TL 0, with four regions open, or with none to close, they raise ILLEGAL_FIELD.
Moreover: R256 and R264 with R157: CPLV, BFMT and BFMTR take effect after a cycle; BFMTR refuses a value that R45 or R71 forbids. -/
def Obligations.FormatsRegionsAndRotation : Prop :=
  (
  (∀ h o s, s.executes (.crgnOpen h o) = true → s.core.tl = 0 → s.core.regions.length < 4 →
    ∃ t r, exec (.crgnOpen h o) s = .next t ∧ t.core.regions = r :: s.core.regions ∧ r.id = o.id ∧ r.handler = s.away o.o.toInt ∧
      r.pcs = [s.core.ld.pc, s.core.mx.pc, s.core.st.pc] ∧ r.ended = [s.core.ld.ended, s.core.mx.ended, s.core.st.ended] ∧
      r.loops = [s.core.ct.loops, s.core.ld.loops, s.core.mx.loops, s.core.st.loops] ∧
      t.core.done = s.core.done ++ [s.pending (.crgnOpen h o) 1 []] ∧ SameMemory s t ∧ SameRegisters s.core t.core ∧
      SameStores s.core t.core ∧ SameSpecials s.core { t.core with regions := s.core.regions } ∧ SameLoops s.core t.core ∧
      t.core.ct.pc = s.nextPc (.crgnOpen h o)) ∧
  (∀ h s r rs, s.executes (.crgnClose h) = true → s.core.tl = 0 → s.core.regions = r :: rs →
    ∃ t, exec (.crgnClose h) s = .next t ∧ t.core.regions = rs ∧ t.core.done = s.core.done ++ [s.pending (.crgnClose h) 1 []] ∧
      SameMemory s t ∧ SameRegisters s.core t.core ∧ SameStores s.core t.core ∧ SameLoops s.core t.core ∧
      SameSpecials s.core { t.core with regions := s.core.regions } ∧ t.core.ct.pc = s.nextPc (.crgnClose h)) ∧
  (∀ h s, s.executes (.crgnAbort h) = true → s.core.tl = 0 → s.core.regions ≠ [] →
    ∃ t, exec (.crgnAbort h) s = .next t ∧ t.core.abort = true ∧ Unwritten (.crgnAbort h) s t ∧ SameLoops s.core t.core ∧
      t.core.done = s.core.done ∧ t.hub = s.hub) ∧
  (∀ h o s, s.executes (.rotb h o) = true → Completes (.rotb h o) s 1 [.rbase (s.core.rbase + o.k)]) ∧
  (∀ h o s, s.executes (.setrb h o) = true → Completes (.setrb h o) s 1 [.rbase o.k]) ∧
  (∀ h o s, s.executes (.crgnOpen h o) = true → s.mayEnter → (s.core.tl ≠ 0 ∨ s.core.regions.length ≥ 4) →
    TrapsWith (.crgnOpen h o) s 0x03 0) ∧
  (∀ h s, s.executes (.crgnClose h) = true → s.mayEnter → (s.core.tl ≠ 0 ∨ s.core.regions = []) → TrapsWith (.crgnClose h) s 0x03 0) ∧
  (∀ h s, s.executes (.crgnAbort h) = true → s.mayEnter → s.core.tl ≠ 0 → TrapsWith (.crgnAbort h) s 0x03 0)) ∧
  (
  (∀ h o s, s.executes (.cplv h o) = true → s.bad o.c = false → s.bad o.s = false → s.bad o.d = false → Completes (.cplv h o) s 1
    [.cl s.who o.n ⟨BitVec.ofNat 32 (s.src o.c), BitVec.ofNat 32 (s.src o.s), BitVec.ofNat 32 (s.src o.d)⟩]) ∧
  (∀ h o s, s.executes (.bfmt h o) = true → Completes (.bfmt h o) s 1 [.bf o.b.toNat o.v]) ∧
  (∀ h o s, s.executes (.bfmtr h o) = true → s.bad o.a = false → s.src o.a < 2 ^ 32 → bfValid (BitVec.ofNat 32 (s.src o.a)) = true →
    Completes (.bfmtr h o) s 1 [.bf o.b.toNat (BitVec.ofNat 32 (s.src o.a))]) ∧
  (∀ h o s, s.executes (.bfmtr h o) = true → s.bad o.a = false → s.mayEnter →
    (2 ^ 32 ≤ s.src o.a ∨ bfValid (BitVec.ofNat 32 (s.src o.a)) = false) → TrapsWith (.bfmtr h o) s 0x03 0))

/-- R257 to R260, R262 and R86: CPGO between scratchpads of the gang and pages of handles, with its operands in order and every burst inside
its ends. The command holds every burst's source and destination in emission order, its flag, the staged command of .MX, and, timed, its
cycles.
Moreover: R263 and R87: CPACC to scratchpads of the gang. Its rows lie a pitch, or their packed length, apart. -/
def Obligations.CopiesAreAccepted : Prop :=
  (
  ∀ h o s, s.executes (.cpgo h o) = true → steady (.cpgo h o) →
    let w := s.src o.s
    let d := s.src o.d
    let n := s.src o.b
    let ls := s.levels (o.dep.toNat + 1)
    Passes (cpgoChecks s o) → EndInside s w (fun l => l.ss.toInt) ls (fun _ => n) →
    EndInside s d (fun l => l.ds.toInt) ls (s.copyOut w d n ls) → (o.fl = true → s.src o.f + 8 ≤ 0x300000) →
    (endKind w = 2 → PageThere s (endHandle w)) → (endKind d = 2 → PageThere s (endHandle d)) →
    (∀ j < nestCount ls, burstOk (s.copyFormats w d ls j).1 (s.copyFormats w d ls j).2 n = true) →
    ∃ t k, exec (.cpgo h o) s = .next t ∧ Accepted (.cpgo h o) s t k ∧ k.timed = o.tm ∧ k.ord = o.ord ∧
      k.srcs.length = nestCount ls ∧ k.dests.length = nestCount ls ∧
      (∀ j < nestCount ls, k.srcs[j]? = some (s.endPlace w (endStart w (fun l => l.ss.toInt) ls j).toNat, n) ∧
        k.dests[j]? = some (s.endPlace d (endStart d (fun l => l.ds.toInt) ls j).toNat, s.copyOut w d n ls j)) ∧
      k.flag = (if o.fl then some (if endKind d = 1 then s.endPlace d (s.src o.f) else .spad (s.src o.f), s.seq.getX o.v) else none) ∧
      k.staged = (if o.mx then s.core.staged else none) ∧ t.core.staged = (if o.mx then none else s.core.staged) ∧
      (o.tm = true → k.due = 6 + ((List.range (nestCount ls)).map fun j => ceilDiv (max n (s.copyOut w d n ls j)) 128).sum +
        if endKind w = 1 ∨ endKind d = 1 then s.core.map.xmax else 0) ∧ t.hub = s.hub) ∧
  (
  ∀ h o s, s.executes (.cpacc h o) = true → steady (.cpacc h o) → Passes (cpaccChecks s o) →
    let d := s.src o.d
    (∀ i ≤ o.nr.toNat, s.accRow o i + s.accOut o i ≤ 0x300000 ∧ AccTarget (s.accFormat o i)) →
    ∃ t k, exec (.cpacc h o) s = .next t ∧ Accepted (.cpacc h o) s t k ∧ k.timed = true ∧
      k.due = 6 + (o.nr.toNat + 1) * (o.ncg.toNat + 1) + (if endKind d = 1 then s.core.map.xmax else 0) ∧
      k.kind = .acc (s.endPlace d (endBase d)) o.row.toNat (o.nr.toNat + 1) o.cg.toNat (o.ncg.toNat + 1) o.f32 ∧ k.flag = none ∧
      k.dests.length = o.nr.toNat + 1 ∧ (∀ i ≤ o.nr.toNat, k.dests[i]? = some (s.endPlace d (s.accRow o i), s.accOut o i)) ∧
      t.core.staged = s.core.staged ∧ t.hub = s.hub)

/-- R258 to R261, R102, R109 and R111 with R86, R87, R445, R398 and R414: a timed copy reads its bytes when it starts; in its completion cycle
its flag is written and its post made, and from the next cycle on its destination holds the bytes. An untimed one reads its bytes, which stand
in the commit buffer; it writes them, then its flag, and posts; with .ORD it starts when the copy before it is over. A remote end is read or
written by requests to its home. The bursts run one after another, each on memory as those before it leave it; a burst between two formats is
converted element by element, integers to integers modulo the destination's range or clamped under SAT. Reading all bytes at the start is the
model's choice (log entry 15). Stochastic rounding is left out here.
Moreover: R263: a CPACC reads one column group a cycle and writes its rows from the words read. -/
def Obligations.CopiesMoveTheirBytes : Prop :=
  (∀ (s : State) (k : EngineCmd) src dst n m ls c, s.command k → k.kind = .copy src dst n m ls c → s.core.mayStart k s.core.cycle = true →
    s.core.erchk = false → (k.run s).2 = none →
    ∃ t g, exec (.timedCopyStart k.id) s = .next t ∧ t.core.cmdOf k.id = some g ∧ g.start = some s.core.cycle ∧
      g.writes = (k.run s).1 ∧ SameMemory s t ∧ SameRegisters s.core t.core) ∧
  (∀ (s : State) (k : EngineCmd), s.command k → k.ord = true → k.timed = false → k.start = none → (∀ p ∈ k.pred, ∀ m ∈ s.core.cmds, m.id ≠ p) →
    ∃ t g, exec (.orderedCopyStart k.id) s = .next t ∧ t.core.cmdOf k.id = some g ∧ g.start = some s.core.pulse ∧ SameMemory s t ∧
      SameRegisters s.core t.core) ∧
  (∀ (s : State) (k : EngineCmd) src dst n m ls c, s.command k → k.kind = .copy src dst n m ls c → k.timed = false → k.stage = .going →
    k.due ≤ s.core.pulse → (k.ord = true → k.start.isSome = true) → s.core.cmdBlocked k = false → s.cmdHeld k = false →
    s.engineServed k k.srcs = true → src.isRemote = false → s.core.erchk = false → (k.run s).2 = none →
    ∃ t g, exec (.copyComplete k.id) s = .next t ∧ t.core.cmdOf k.id = some g ∧ g.stage = .commit ∧ s.core.pulse + 64 ≤ g.due ∧
      g.writes = (k.run s).1 ∧ SameMemory s t ∧ SameRegisters s.core t.core) ∧
  (∀ (s : State) (k : EngineCmd) home va dst n m ls c, s.command k → k.kind = .copy (.remote home va) dst n m ls c → k.timed = false →
    k.stage = .going → k.due ≤ s.core.pulse → (k.ord = true → k.start.isSome = true) → s.core.cmdBlocked k = false → s.cmdHeld k = false →
    s.engineServed k k.srcs = true → (∀ g, s.hub.homeOf s.core.func va ≠ .group g) →
    ∃ t, exec (.copyComplete k.id) s = .next t ∧ (t.core.cmdOf k.id).map (·.stage) = some .away ∧ SameMemory s t ∧
      asked t.hub = asked s.hub ++ (bodiesOf va (.reads (k.srcs.map fun x => (x.1.addr, x.2)))).map fun b =>
        (some (s.core.owner k.id), 1, b.1, b.2, 0)) ∧
  (∀ (s : State) (k : EngineCmd) home va src n m ls c, s.command k → k.kind = .copy src (.remote home va) n m ls c → k.timed = false →
    k.stage = .commit → k.due ≤ s.core.pulse →
    let body := Body.writes (k.writes.map fun w => ⟨w.loc.addr, w.bytes, w.marks⟩)
    ∃ t, exec (.copyComplete k.id) s = .next t ∧ (t.core.cmdOf k.id).map (·.stage) = some .away ∧ SameMemory s t ∧
      ((∀ g, s.hub.homeOf s.core.func va ≠ .group g) →
        asked t.hub = asked s.hub ++ (bodiesOf va body).map fun b => (some (s.core.owner k.id), 2, b.1, b.2, 0)) ∧
      ∀ g, s.hub.homeOf s.core.func va = .group g →
        asked t.hub = asked s.hub ++ (bodiesOf va body).map fun b => (some (s.core.owner k.id), 9, b.1, b.2, g)) ∧
  (∀ (s : State) (k : EngineCmd) src dst n m ls c t0, s.command k → k.kind = .copy src dst n m ls c → k.timed = true → k.start = some t0 →
    t0 + k.due ≤ s.core.cycle → k.stage ≠ .done →
    ∃ t g, exec (.copyComplete k.id) s = .next t ∧ t.core.cmdOf k.id = some g ∧ g.stage = .done ∧ g.writes = k.writes ∧
      SameBytes (landed s (flagWrites k)) t ∧ t.core.posts = s.core.posts ++ cmdPosts k ∧ SameRegisters s.core t.core) ∧
  (∀ (s : State) (k : EngineCmd), s.core.landing = [k] →
    s.landTimed.core.cmds = s.core.cmds.filter (fun m => !(m.timed && m.stage = .done)) ∧
      SameBytes (landed s (k.writes ++ if k.flagInside then flagWrites k else [])) s.landTimed) ∧
  (∀ (s : State) (k : EngineCmd) src dst n m ls c, s.command k → k.kind = .copy src dst n m ls c → k.timed = false → k.due ≤ s.core.pulse →
    (k.stage = .commit ∧ dst.isRemote = false ∧ s.engineServed k k.dests = true →
      ∃ t, exec (.copyComplete k.id) s = .next t ∧ CommandOver k s t ∧ SameBytes (landed s (k.writes ++ flagWrites k)) t) ∧
    (k.stage = .done → ∃ t, exec (.copyComplete k.id) s = .next t ∧ CommandOver k s t ∧ SameBytes (landed s (flagWrites k)) t)) ∧
  (∀ (k : EngineCmd) l r (s : State) ws, runBursts k l r s = (ws, none) → ws.map (·.loc) = l.map (·.2.1) ∧
    ∀ j x, l[j]? = some x →
      let fs := endFmt k.bf x.1.1.viaHandle x.1.1.space.2
      let fd := endFmt k.bf x.2.1.viaHandle x.2.1.space.2
      let rd := (landed s (ws.take j)).readLoc x.1.1 0 x.1.2
      ∃ w q, ws[j]? = some w ∧ (converts fs fd = false → w.bytes = rd.1 ∧ w.marks = rd.2) ∧
        (converts fs fd = true → w.bytes = (burstOut fs fd k.arith q rd.1 rd.2).1)) ∧
  (∀ fs fd a r (bs : List Byte) ms, converts fs fd = true → a.rm ≠ 5 →
    let n := bs.length / unitBytes fs
    let out := (burstOut fs fd a r bs ms).1
    out.length = n * unitElems fs * elemBytes fd ∧
    (∀ i < n, ∀ e < unitElems fs, ∃ x, (unitValues fs a (piece bs i (unitBytes fs)))[e]? = some x ∧
      piece out (i * unitElems fs + e) (elemBytes fd) = wordBytes (convertElem fs fd a r x) (elemBytes fd)) ∧
    (denseInt fs → denseInt fd → ∀ i < n,
      let v := intValue fs (leNat (piece bs i (elemBytes fs)))
      leNat (piece out i (elemBytes fd)) =
        narrow (8 * elemBytes fd) (if a.sat then min (intGreatest fd) (max (intLeast fd) v) else v))) ∧
  (∀ (c : Core) (k : EngineCmd) dst row nr cg ncg f32 t0, k ∈ c.cmds → k.kind = .acc dst row nr cg ncg f32 → k.start = some t0 → t0 < c.cycle →
    let i := c.cycle - t0 - 1
    i < nr * ncg →
    { k with words := k.words ++ (List.range 32).map fun e => c.getAcc (row + i / ncg) (32 * (cg + i % ncg) + e) } ∈ c.readAcc.cmds) ∧
  (∀ (s : State) (k : EngineCmd) dst row nr cg ncg f32 t0, s.command k → k.kind = .acc dst row nr cg ncg f32 → k.start = some t0 →
    t0 + k.due ≤ s.core.cycle → k.stage ≠ .done →
    ∃ t g, exec (.copyComplete k.id) s = .next t ∧ t.core.cmdOf k.id = some g ∧ g.stage = .done ∧
      g.writes = accWrites k f32 ncg k.dests 0 k.seed ∧ SameBytes (landed s (flagWrites k)) t ∧
      t.core.posts = s.core.posts ++ cmdPosts k ∧ SameRegisters s.core t.core) ∧
  (∀ (k : EngineCmd) f32 ncg (l : List (Loc × Nat)) r,
    (accWrites k f32 ncg l 0 r).map (·.loc) = l.map (·.1) ∧
    ∀ j x, l[j]? = some x →
      let fd := endFmt k.bf false x.1.space.2
      let bs := ((k.words.drop (j * 32 * ncg)).take (32 * ncg)).flatMap fun w => wordBytes w.toNat 4
      ∃ w q, (accWrites k f32 ncg l 0 r)[j]? = some w ∧ (converts (if f32 then 7 else 5) fd = false → w.bytes = bs) ∧
        (converts (if f32 then 7 else 5) fd = true → w.bytes = (burstOut (if f32 then 7 else 5) fd k.arith q bs []).1)) ∧
  (∀ (s : State) (bs : List Byte) ms,
    (∀ a, Writes s.core.spad (s.writeLoc (.spad a) bs ms).core.spad a bs ∧ (s.writeLoc (.spad a) bs ms).hub = s.hub ∧
      (s.writeLoc (.spad a) bs ms).parked = s.parked) ∧
    (∀ a, s.hub.mustHold a bs.length = false → Writes s.hub.hbm (s.writeLoc (.hbm a) bs ms).hub.hbm a bs ∧
      (s.writeLoc (.hbm a) bs ms).core = s.core ∧ (s.writeLoc (.hbm a) bs ms).parked = s.parked) ∧
    (∀ r m a, let t := s.writeLoc (.clus r m a) bs ms
      t.hub = s.hub ∧ t.parked.length = s.parked.length ∧ (s.core.task = none → t = s) ∧
      (∀ k, s.core.task = some k → (k.rank ∈ clusterRanks r m → Writes s.core.spad t.core.spad a bs) ∧
        (k.rank ∉ clusterRanks r m → t.core.spad = s.core.spad)) ∧
      ∀ (i : Nat) (c d : Core), s.parked[i]? = some c → t.parked[i]? = some d →
        (¬ GangCore s (clusterRanks r m) c → d.spad = c.spad) ∧
        ((∃ k u, s.core.task = some k ∧ c.task = some u ∧ u.gang = k.gang ∧ u.rank ≠ k.rank ∧ u.rank ∈ clusterRanks r m) →
          Writes c.spad d.spad a bs)))

/-- R276 and R277: FSIG checks its locator, starts when every command before it has gone, and writes its flag word on a core of this package
that runs a task of the tenant; another core refuses it. -/
def Obligations.FabricSignalsWriteTheirFlag : Prop :=
  (∀ h o s, s.executes (.fsig h o) = true →
    let w := s.src o.t
    (s.bad o.t = false → s.bad o.v = false → w < 2 ^ 41 → w / 2 ^ 25 % 32 ≤ 20 → w % 2 ^ 22 % 8 = 0 → w % 2 ^ 22 < 0x300000 →
      ∃ t k, exec (.fsig h o) s = .next t ∧ Accepted (.fsig h o) s t k ∧ k.kind = .fsig (s.seq.getX o.t) (s.seq.getX o.v) ∧ t.hub = s.hub) ∧
    (s.mayEnter → (s.bad o.t = true ∨ s.bad o.v = true) → TrapsWith (.fsig h o) s 0x30 (s.seq.getX o.t)) ∧
    (s.mayEnter → s.bad o.t = false → s.bad o.v = false → (2 ^ 41 ≤ w ∨ 20 < w / 2 ^ 25 % 32) →
      TrapsWith (.fsig h o) s 0x03 (s.seq.getX o.t)) ∧
    (s.mayEnter → s.bad o.t = false → s.bad o.v = false → w < 2 ^ 41 → w / 2 ^ 25 % 32 ≤ 20 → w % 2 ^ 22 % 8 ≠ 0 →
      TrapsWith (.fsig h o) s 0x23 (s.seq.getX o.t)) ∧
    (s.mayEnter → s.bad o.t = false → s.bad o.v = false → w < 2 ^ 41 → w / 2 ^ 25 % 32 ≤ 20 → w % 2 ^ 22 % 8 = 0 →
      0x300000 ≤ w % 2 ^ 22 → TrapsWith (.fsig h o) s 0x20 (s.seq.getX o.t))) ∧
  (∀ (s : State) (k : EngineCmd) w v, s.command k → k.kind = .fsig w v → k.stage = .going → (∀ m ∈ s.core.cmds, k.id ≤ m.id) →
    ∃ t g, exec (.fsigStart k.id) s = .next t ∧ t.core.cmdOf k.id = some g ∧ g.stage = .commit ∧ g.due = s.core.pulse + 64 ∧
      SameMemory s t ∧ SameRegisters s.core t.core) ∧
  (∀ (s : State) (k : EngineCmd) w v, s.command k → k.kind = .fsig w v → k.stage = .commit → k.due ≤ s.core.pulse → k.quiet = false →
    k.staged = none → k.flag = none → w.toNat / 2 ^ 31 % 1024 = s.hub.pkg →
    let n := w.toNat / 2 ^ 22 % 512
    (RunsTenant s n s.core.tenant →
      ∃ t, exec (.fsigComplete k.id) s = .next t ∧ CommandOver k s t ∧ t.hub = s.hub ∧ WritesCore s t n (w.toNat % 2 ^ 22) (wordBytes v.toNat 8)) ∧
    (¬ RunsTenant s n s.core.tenant →
      ∃ t, exec (.fsigComplete k.id) s = .next t ∧ t.core.cmds = s.core.cmds.filter (fun g => g.id != k.id) ∧
        t.core.pend = s.core.pend ++ [⟨k.q, 0x21, none, w, true, k.level, false⟩] ∧ t.core.posts = s.core.posts ∧ SameMemory s t ∧
        t.hub = s.hub)) ∧
  (∀ (s : State) (k : EngineCmd) w v, s.command k → k.kind = .fsig w v → k.stage = .done → k.due ≤ s.core.pulse → k.staged = none →
    k.flag = none → ∃ t, exec (.fsigComplete k.id) s = .next t ∧ CommandOver k s t ∧ t.hub = s.hub ∧ SameMemory s t)

/-- R266 to R268 with R42 and R299: SAQ gives its stream to the SAE, and with a count of 0 completes at issue; the SAE combines the entries of a
window that name one word into one update; it applies the first update of the first stream to its word, in the scratchpad or, once the commit
buffer lets it go, behind a handle: adds, least and greatest of i32, f32 and bf16. The last update completes the SAQ, or brings the fault of the
entry at which its stream ended. Stochastic rounding is left out here. -/
def Obligations.ScatterAccumulates : Prop :=
  (∀ h o s, s.executes (.saq h o) = true → Passes (saqChecks s o) →
    let w := s.src o.b
    let n := s.src o.n
    ∃ t, exec (.saq h o) s = .next t ∧ (t.core.seq s.who).pc = s.nextPc (.saq h o) ∧ Unwritten (.saq h o) s t ∧ t.hub = s.hub ∧
      (n = 0 → t.core.sae = s.core.sae ∧ t.core.posts = s.core.posts ++ signalPosts s.core.nextId s.who s.seq.pc (unitSignal (.saq h o))) ∧
      (n ≠ 0 → ∃ x, t.core.sae = s.core.sae ++ [x] ∧ x.target = s.endPlace w (endBase w) ∧ x.extent = s.endLimit w - endBase w ∧
        x.ix = s.src o.i ∧ x.vals = s.src o.v ∧ x.n = n ∧ x.op = o.op ∧ x.ty = o.ty ∧ x.next = 0 ∧ x.updates = [] ∧ x.fault = none ∧
        x.hnd = (if endKind w = 2 then some (endHandle w, s.core.getH (endHandle w)) else none) ∧ t.core.posts = s.core.posts)) ∧
  (∀ (s : State) (x : Stream) xs, s.core.sae = x :: xs → x.due ≤ s.core.pulse → x.updates = [] → x.next < x.n → s.core.erchk = false →
    let n := min 64 (x.n - x.next)
    let js := (List.range n).map (x.next + ·)
    x.marked s.core x.next n = none → (∀ j ∈ js, x.inside s j = true) →
    ∃ t y, exec (.saeUpdateApply x.id) s = .next t ∧ t.core.sae.head? = some y ∧ y.next = x.next + n ∧ y.fault = none ∧
      y.out = s.core.pulse + 64 ∧ SameMemory s t ∧ SameRegisters s.core t.core ∧ (y.updates.map (·.1)).Nodup ∧
      ∀ k, y.updates.lookup k = match (js.filter fun j => leNat (memRead s.core.spad (x.ix + 4 * j) 4) = k).map fun j =>
          saeHeld x.ty (memRead s.core.spad (x.vals + saeBytes x.ty * j) (saeBytes x.ty)) with
        | [] => none
        | v :: vs => some (vs.foldl (saeCombine x.op x.ty (x.arith.getD Arith.default)) v)) ∧
  (∀ op ty a (p v : BitVec 32), a.rm ≠ 5 → op ≠ 3 → ty ≠ 3 → (saeCombine op ty a p v).toNat = combined32 op ty a p.toNat v.toNat) ∧
  (∀ (s : State) (x : Stream) xs j p us, s.core.sae = x :: xs → x.due ≤ s.core.pulse → x.updates = (j, p) :: us → s.core.erchk = false →
    let n := saeBytes x.ty
    let l := x.target.advance (j * n : Nat)
    let a := x.arith.getD Arith.default
    x.held s.core.pulse = false → s.hbmHeld l n x.id = false → (s.readLoc l 0 n).2 = [] → a.rm ≠ 5 → x.op ≠ 3 → x.ty ≠ 3 →
    let v := applied x.op x.ty a (leNat (s.readLoc l 0 n).1) p.toNat
    ∃ t, exec (.saeUpdateApply x.id) s = .next t ∧ SameRegisters s.core t.core ∧ SameStores s.core t.core ∧
      (∀ b, l = .spad b → Writes s.core.spad t.core.spad b (wordBytes v n) ∧ t.hub = s.hub) ∧
      (∀ b, l = .hbm b → s.hub.mustHold b n = false → Writes s.hub.hbm t.hub.hbm b (wordBytes v n) ∧ t.core.spad = s.core.spad) ∧
      (us = [] → x.next = x.n → x.fault = none → (∀ y ∈ xs, y.id ≠ x.id) → t.core.sae = xs ∧
        t.core.posts = s.core.posts ++ if x.quiet then [] else signalPosts x.id .st x.pc x.sig) ∧
      (∀ e, us = [] → x.fault = some e → (∀ y ∈ xs, y.id ≠ x.id) → t.core.sae = xs ∧ t.core.posts = s.core.posts ∧
        t.core.pend = s.core.pend ++ [⟨.st, 0x20, none, BitVec.ofNat 64 (x.ix + 4 * e), true, x.level, false⟩]))

/-- R279 to R281 with R344 and R346: CSTASH and CUNSTASH give the base of the entry's slot; CSEND makes the entry's send to a slot of the
neighbour that its bursts fit; CFREE frees the slot when its message leaves; what the entry does not have raises ILLEGAL_FIELD. -/
def Obligations.ChainInstructionsUseTheirEntry : Prop :=
  (∀ h o s x, s.executes (.cstash h o) = true → s.core.chainCtx = some x →
    let t := s.hub.chain.header
    (∀ k, o.sel = 0 → x.stash = some k → Completes (.cstash h o) s 1 [.x s.who o.d (BitVec.ofNat 64 (t.stbase + k * t.ssz)) false]) ∧
    (∀ k, o.sel = 1 → x.act = some k → Completes (.cstash h o) s 1 [.x s.who o.d (BitVec.ofNat 64 (t.abase + k * t.asz)) false]) ∧
    (∀ k, o.sel = 2 → x.grad = some k → Completes (.cstash h o) s 1 [.x s.who o.d (BitVec.ofNat 64 (t.gbase + k * t.gsz)) false]) ∧
    (s.mayEnter → o.sel = 0 → x.stash = none → TrapsWith (.cstash h o) s 0x03 0)) ∧
  (∀ h o s x k, s.executes (.cunstash h o) = true → s.core.chainCtx = some x → x.unstash = some k → Completes (.cunstash h o) s 1
    [.x s.who o.d (BitVec.ofNat 64 (s.hub.chain.header.stbase + k * s.hub.chain.header.ssz)) false]) ∧
  (∀ h o s x slot size, s.executes (.csend h o) = true → s.core.chainCtx = some x → sendSlot s.hub x o.dir = some (slot, size) →
    let ls := s.levels (o.dep.toNat + 1)
    let n := s.src o.b
    let w := s.src o.s
    s.bad o.s = false → s.bad o.b = false → NestFits n ls → endKind w ≠ 1 → EndFields w true →
    (endKind w = 2 → let g := s.core.getH (endHandle w)
      g.valid = true ∧ g.perm 9 = true ∧ g.sync = false ∧ PageThere s (endHandle w)) →
    EndInside s w (fun l => l.ss.toInt) ls (fun _ => n) →
    (∀ j < nestCount ls, 0 ≤ nestOffset (fun l => l.ds.toInt) ls j ∧ nestOffset (fun l => l.ds.toInt) ls j + n ≤ size) →
    ∃ t k, exec (.csend h o) s = .next t ∧ Accepted (.csend h o) s t k ∧ k.timed = false ∧ (∃ l, k.kind = .send o.dir l slot n ls) ∧
      (∀ j < nestCount ls, k.srcs[j]? = some (s.endPlace w (endStart w (fun l => l.ss.toInt) ls j).toNat, n) ∧
        k.dests[j]? = some (.absent, (nestOffset (fun l => l.ds.toInt) ls j).toNat)) ∧
      (if o.dir then t.hub.chain.sentUp else t.hub.chain.sentDown) = true) ∧
  (∀ h o s x k, s.executes (.cfree h o) = true → s.core.chainCtx = some x → (if o.kind then x.grad else x.act) = some k →
    (if o.kind then s.hub.chain.freedGrad else s.hub.chain.freedAct) = false →
    LaunchesIn (fun g => g = { s.hub with chain := if o.kind then { s.hub.chain with freedGrad := true } else { s.hub.chain with freedAct := true } })
      (.cfree h o) s 8 (.cfree o.kind k) .commit false) ∧
  (∀ s f grad slot, s.due f → f.op = .cfree grad slot →
    ∃ t, exec (.cfreeComplete f.id) s = .next t ∧ Finished f s t ∧ SameMemory s t ∧ SameRegisters s.core t.core ∧
      (if grad then t.hub.chain.grad = s.hub.chain.grad.set slot none else t.hub.chain.act = s.hub.chain.act.set slot none) ∧
      t.hub.out.length = s.hub.out.length + 1) ∧
  (∀ (s : State) (k : EngineCmd) up src slot n ls, s.command k → k.kind = .send up src slot n ls → k.due ≤ s.core.pulse → k.stage = .done → k.flag = none →
    k.staged = none →
    ∃ t, exec (.csendComplete k.id) s = .next t ∧ t.core.cmds = s.core.cmds.filter (fun g => g.id != k.id) ∧
      t.core.posts = s.core.posts ++ cmdPosts k ∧ SameMemory s t ∧ SameRegisters s.core t.core)

namespace Sys2Proof.Machine

/-! The flow row (R187 to R208) and the portable forms (R209 to R214). -/

/-- The vector that is driven on a flow at a position in a cycle. -/
def Core.driven (c : Core) (cyc flow pos : Nat) : Option Vec :=
  (c.drives.find? fun d => d.cyc = cyc && d.flow = flow && d.pos = pos).map (·.v)

/-- A core drives one more vector (R35): a second one in its place and cycle collides into zeros with poison (R37). -/
def Drives (c d : Core) (cyc flow pos : Nat) (v : Vec) : Prop :=
  ∀ x f p, d.driven x f p =
    if x = cyc ∧ f = flow ∧ p = pos then some (if (c.driven cyc flow pos).isSome then Vec.poisoned else v) else c.driven x f p

/-- A unit of MX that adds timed work: it completes after `lat` cycles; X, P, vector and ACC cells, memory and special registers stay. -/
structure Timed (i : Instr) (s t : State) (lat : Nat) : Prop where
  done : ∃ n, t.core.done = s.core.done ++ [{ s.pending i lat [] with id := n }]
  pc : (t.core.seq s.who).pc = s.nextPc i
  memory : SameMemory s t
  registers : SameX s.core t.core ∧ SameP s.core t.core ∧ ∀ q n, (t.core.seq q).getCl n = (s.core.seq q).getCl n
  stores : SameStores s.core t.core
  specials : SameSpecials s.core t.core
  others : OtherPcs s.who s.core t.core ∧ SameLoops s.core t.core ∧ TookTokens i s.core t.core
  package : t.hub = s.hub ∧ t.parked = s.parked

/-- The seeds of the stochastic rounding stay. -/
def SameSeeds (c d : Core) : Prop := ∀ q, (d.seq q).srseed = (c.seq q).srseed

/-- The slot instructions. -/
def slotRow : Instr → Option (SlotKind × Slot)
  | .vadd _ o => some (.vadd, o) | .vsub _ o => some (.vsub, o) | .vmul _ o => some (.vmul, o) | .vfma _ o => some (.vfma, o)
  | .vmin _ o => some (.vmin, o) | .vmax _ o => some (.vmax, o) | .vabs _ o => some (.vabs, o) | .vneg _ o => some (.vneg, o)
  | .vand _ o => some (.vand, o) | .vor _ o => some (.vor, o) | .vxor _ o => some (.vxor, o) | .vnot _ o => some (.vnot, o)
  | .vshl _ o => some (.vshl, o) | .vshr _ o => some (.vshr, o) | .vsha _ o => some (.vsha, o) | .vcmp _ o => some (.vcmp, o)
  | .vsel _ o => some (.vsel, o) | .vcvt _ o => some (.vcvt, o) | .vclmp _ o => some (.vclmp, o) | .vscale _ o => some (.vscale, o)
  | .vqnt _ o => some (.vqnt, o) | .vexp2 _ o => some (.vexp2, o) | .vlog2 _ o => some (.vlog2, o) | .vrcp _ o => some (.vrcp, o)
  | .vrsq _ o => some (.vrsq, o) | .vtanh _ o => some (.vtanh, o) | .vsumr _ o => some (.vsumr, o) | .vperm _ o => some (.vperm, o)
  | _ => none

/-- The portable forms of the slot operations. -/
def formRow' : Instr → Option (SlotKind × Port)
  | .vaddP _ o => some (.vadd, o) | .vsubP _ o => some (.vsub, o) | .vmulP _ o => some (.vmul, o) | .vfmaP _ o => some (.vfma, o)
  | .vminP _ o => some (.vmin, o) | .vmaxP _ o => some (.vmax, o) | .vabsP _ o => some (.vabs, o) | .vnegP _ o => some (.vneg, o)
  | .vandP _ o => some (.vand, o) | .vorP _ o => some (.vor, o) | .vxorP _ o => some (.vxor, o) | .vnotP _ o => some (.vnot, o)
  | .vshlP _ o => some (.vshl, o) | .vshrP _ o => some (.vshr, o) | .vshaP _ o => some (.vsha, o) | .vcmpP _ o => some (.vcmp, o)
  | .vselP _ o => some (.vsel, o) | .vcvtP _ o => some (.vcvt, o) | .vclmpP _ o => some (.vclmp, o)
  | .vscaleP _ o => some (.vscale, o) | .vqntP _ o => some (.vqnt, o) | .vexp2P _ o => some (.vexp2, o)
  | .vlog2P _ o => some (.vlog2, o) | .vrcpP _ o => some (.vrcp, o) | .vrsqP _ o => some (.vrsq, o)
  | .vtanhP _ o => some (.vtanh, o) | .vsumrP _ o => some (.vsumr, o) | .vpermP _ o => some (.vperm, o)
  | _ => none

/-- The lane format of a slot instruction, and its ARITH state. -/
def slotFmt (o : Slot) : Fmt := (laneFmt o.lt (minorU o.minor)).getD .i32
def arithOf (i : Instr) : Arith := (unitPfx i).arith.getD Arith.default

/-- What a slot instruction computes from the taps of the cycle in which it issues (R190). -/
def State.slotValue (s : State) (i : Instr) (k : SlotKind) (o : Slot) : Vec × Run :=
  slotCompute k (slotFmt o) o.minor o.imm (arithOf i) (predMask s.seq (unitPfx i)) (s.core.tap o.fa.toNat o.pos.toNat)
    (slotB k o (slotFmt o) s.core o.pos.toNat) (if tapsC k then s.core.tap o.fc.toNat o.pos.toNat else Vec.zero) s.seq.srseed

/-- A slot was used less than its initiation interval ago (R38). -/
def TooSoon (c : Core) (pos : Nat) : Prop :=
  ∃ last, c.slotLast.find? (fun x => x.1 = pos) = some (pos, last) ∧ c.cycle < last + c.map.ii.getD (pos - 1) 1

/-- The value of a lane pattern below 2^w (R63). -/
def laneValue (f : Fmt) (x : Nat) : Int := if f.signed then signedOf f.width x else x

/-- The integer results of R197 to R201 on lane patterns, without SAT. -/
def intRule (k : SlotKind) (hi : Bool) (cond : Nat) (f : Fmt) (x y z : Nat) : Nat :=
  let w := f.width
  let a := laneValue f x
  let b := laneValue f y
  match k with
  | .vadd => narrow w (a + b)
  | .vsub => narrow w (a - b)
  | .vmul => narrow w (if hi then a * b / 2 ^ w else a * b)
  | .vfma => narrow w (a * b + laneValue f z)
  | .vmin => if a ≤ b then x else y
  | .vmax => if a ≤ b then y else x
  | .vabs => narrow w (if a < 0 then -a else a)
  | .vneg => narrow w (-a)
  | .vand => x &&& y
  | .vor => x ||| y
  | .vxor => x ^^^ y
  | .vnot => 2 ^ w - 1 - x
  | .vshl => x * 2 ^ (y % w) % 2 ^ w
  | .vshr => x / 2 ^ (y % w)
  | .vsha => narrow w (signedOf w x / 2 ^ (y % w))
  | .vcmp =>
    if (match cond with
      | 0 => decide (a = b) | 1 => decide (a ≠ b) | 2 => decide (a < b) | 3 => decide (a ≤ b) | 4 => decide (b < a)
      | _ => decide (b ≤ a)) then 2 ^ w - 1 else 0
  | _ => if z = 0 then y else x

/-- The operations of `intRule`. -/
def intKind : SlotKind → Bool
  | .vcvt | .vclmp | .vscale | .vqnt | .vexp2 | .vlog2 | .vrcp | .vrsq | .vtanh | .vsumr | .vperm => false
  | _ => true

/-- Lanes of a result, one by one: where the mask allows, the rule; elsewhere operand a (R190). -/
def LaneByLane (w : Nat) (g : Nat → Nat → Nat → Nat) (mask : BitVec 32) (a b c d : Vec) : Prop :=
  (∀ l, l < 1024 / w → d.lane w l =
    if mask.getLsbD (l / (32 / w)) then g (a.lane w l) (b.lane w l) (c.lane w l) else a.lane w l) ∧
  ∀ e, e < 32 → d.pois e = (a.pois e || (mask.getLsbD e && (b.pois e || c.pois e)))

end Sys2Proof.Machine

open Sys2Proof Sys2Proof.Machine

/-- R193 to R196 with R31, R35 to R37 and R157: VRD drives the vector it reads on position 0 of its flow when the read is over; VWR writes the
vector tapped at position 15; VBCAST and VIOTA drive theirs in the next cycle. No cell changes as they issue. -/
def Obligations.InjectionAndTap : Prop :=
  (∀ h o s, s.executes (.vrd h o) = true → s.core.udchk = false →
    let m := physOp s.core.rbase o.m
    let occ := occupancy s.core.map m
    (s.core.reserve .read m s.core.cycle).1 = s.core.cycle →
    ∃ t, exec (.vrd h o) s = .next t ∧ Timed (.vrd h o) s t occ ∧ SameSeeds s.core t.core ∧ t.core.mwr = s.core.mwr ∧
      Drives s.core t.core (s.core.cycle + occ) o.f.toNat 0 (readVec s.core.mrf m)) ∧
  (∀ h o s, s.executes (.vrd h o) = true → s.core.udchk = false →
    let m := physOp s.core.rbase o.m
    let start := (s.core.reserve .read m s.core.cycle).1
    start ≠ s.core.cycle →
    ∃ t r, exec (.vrd h o) s = .next t ∧ Timed (.vrd h o) s t (occupancy s.core.map m) ∧ t.core.drives = s.core.drives ∧
      t.core.lateReads = s.core.lateReads ++ [r] ∧ r.start = start ∧ r.m = m ∧ r.flow = o.f.toNat) ∧
  (∀ h o s, s.executes (.vwr h o) = true → s.core.udchk = false →
    let m := physOp s.core.rbase o.m
    let occ := occupancy s.core.map m
    let start := (s.core.reserve .write m (s.core.cycle + 1)).1
    ∃ t w, exec (.vwr h o) s = .next t ∧ Timed (.vwr h o) s t occ ∧ SameSeeds s.core t.core ∧ t.core.drives = s.core.drives ∧
      t.core.mwr = s.core.mwr ++ [w] ∧ w.m = m ∧ w.start = start ∧ w.fin = start + occ - 1 ∧ w.v = s.core.tap o.f.toNat 15 ∧
      w.mask = if o.masked then s.seq.getP o.pr else BitVec.allOnes 32) ∧
  (∀ h o s, s.executes (.vbcast h o) = true →
    let v := bcastVec o (slotFmt o) (s.seq.getX (BitVec.ofNat 5 (o.imm.toNat % 32))) (s.bad (BitVec.ofNat 5 (o.imm.toNat % 32)))
    ∃ t, exec (.vbcast h o) s = .next t ∧ Timed (.vbcast h o) s t 1 ∧ SameSeeds s.core t.core ∧
      Drives s.core t.core (s.core.cycle + 1) o.fd.toNat 0 v) ∧
  (∀ h o s, s.executes (.viota h o) = true →
    ∃ t v, exec (.viota h o) s = .next t ∧ Timed (.viota h o) s t 1 ∧ SameSeeds s.core t.core ∧
      Drives s.core t.core (s.core.cycle + 1) o.fd.toNat 0 v ∧ v.poison = 0 ∧
      ∀ l, l < 1024 / (slotFmt o).width → v.lane (slotFmt o).width l = narrow (slotFmt o).width (o.imm.toInt + l))

/-- R190 and R38 with R76: a slot instruction taps its operands, and its result leaves the slot after the slot's latency; within the
initiation interval the result is zeros with poison; a dead slot gives none. The issuing sequencer's LFSR advances. That the interval counts
from the last instruction issued to the slot is the model's choice (log entry 63). -/
def Obligations.SlotsComputeFromTheirTaps : Prop :=
  ∀ i s k o, slotRow i = some (k, o) → s.executes i = true → s.core.udchk = false →
    let lat := s.core.classLat (o.pos.toNat - 1)
    (slotWorks s.core.map o.pos.toNat = true →
      ∃ t r, exec i s = .next t ∧ Timed i s t lat ∧ t.core.slotRes = s.core.slotRes ++ [r] ∧
        r.due = s.core.cycle + lat ∧ r.pos = o.pos.toNat ∧ r.flow = o.fd.toNat ∧ r.pc = s.seq.pc ∧
        (TooSoon s.core o.pos.toNat → r.v = Vec.poisoned) ∧ (¬ TooSoon s.core o.pos.toNat → r.v = (s.slotValue i k o).1) ∧
        (t.core.seq s.who).srseed = (s.slotValue i k o).2.r) ∧
    (slotWorks s.core.map o.pos.toNat = false →
      ∃ t, exec i s = .next t ∧ Timed i s t lat ∧ t.core.slotRes = s.core.slotRes ∧ SameSeeds s.core t.core)

/-- R197, R199, R200 and R201 with R190 and R63: the results of the slot operations on integer lanes without SAT, lane by lane, for every mask.
Moreover: R82 with R64: a float that its format holds rounds to itself, in every mode without FTZ and SAT.
Moreover: R207 and R208 with R190: VSUMR.MAX of integers and VPERM give a cell of their operand: the largest of its group, or the one that the mode
names; masked cells pass. -/
def Obligations.LaneResults : Prop :=
  (
  ∀ k f minor imm ar mask a b c r, intKind k = true → f.isFloat = false → ar.sat = false →
    LaneByLane f.width (intRule k (minorLow minor) (minorCond minor) f) mask a b c (slotCompute k f minor imm ar mask a b c r).1) ∧
  (
  ∀ f w ar r, f.isFloat = true → w < 2 ^ f.width → (numOf f w).isNan = false → ar.sat = false → ar.ftz = false →
    roundFloat f (numOf f w) ar r = w) ∧
  (
  (∀ f minor imm ar mask a b c r e, e < 32 → f.isFloat = false → f.width = 32 → minorLow minor = true →
    let v := (slotCompute .vsumr f minor imm ar mask a b c r).1
    let size := 2 ^ (imm.toNat % 8)
    imm.toNat % 8 ≤ 5 →
    if mask.getLsbD e then
      (∃ x < 32, x / size = e / size ∧ mask.getLsbD x = true ∧ v.cell e = a.cell x) ∧
        ∀ x < 32, x / size = e / size → mask.getLsbD x = true → laneValue f (a.cell x).toNat ≤ laneValue f (v.cell e).toNat
    else v.cell e = a.cell e) ∧
  (∀ f minor imm ar mask a b c r e, e < 32 →
    let v := (slotCompute .vperm f minor imm ar mask a b c r).1
    let src := match minorMode minor with
      | 0 => (b.cell e).toNat % 32
      | 1 => (e + imm.toNat % 32) % 32
      | 2 => 31 - e
      | _ => (e ^^^ (imm.toNat % 32)) % 32
    v.cell e = if mask.getLsbD e then a.cell src else a.cell e))

/-- R209 to R214: a portable form reads its rows, takes the lowest slot of its class that is free, and writes its row when the whole row has
been crossed; one that reads D does so a cycle later. VMOVD.P moves a vector of any direction, VBCAST.P cell 0, VIOTA.P the lane numbers. -/
def Obligations.PortableFormsWriteTheirRow : Prop :=
  (∀ i s k o p, formRow' i = some (k, o) → s.executes i = true → formSlot s.core k = some p →
    let minor := portMinor k o.minor
    let f := (laneFmt o.lt (minorU minor)).getD .i32
    let row (r : BitVec 10) := readVec s.core.mrf (formRow s.core.rbase r)
    let b := if portUsesB k minor f ((targetFmt (minorCode minor)).getD f) then row o.b else Vec.zero
    let e := if tapsC k then 1 else 0
    let fin := s.core.cycle + 2 + e + rowHops s.core.map + s.core.map.lat.getD (p - 1) 1
    ∃ t, exec i s = .next t ∧ Timed i s t (fin - s.core.cycle) ∧
      (tripleOf k = none → ∃ w, t.core.mwr = s.core.mwr ++ [w] ∧ w.m = formRow s.core.rbase o.d ∧ w.start = fin ∧ w.fin = fin ∧
        w.mask = predMask s.seq (unitPfx i) ∧
        w.v = (slotCompute k f minor (portImm k) (arithOf i) (predMask s.seq (unitPfx i)) (row o.a) b Vec.zero s.seq.srseed).1) ∧
      (∀ x, tripleOf k = some x → ∃ l, t.core.lateForms = s.core.lateForms ++ [l] ∧ l.cyc = s.core.cycle + 1 ∧ l.kind = x ∧ l.a = row o.a ∧
        l.b = b ∧ l.d = formRow s.core.rbase o.d ∧ l.fin = fin ∧ l.mask = predMask s.seq (unitPfx i) ∧ t.core.mwr = s.core.mwr)) ∧
  (∀ h o s, s.executes (.vmovdP h o) = true →
    let d := physOp s.core.rbase (BitVec.ofNat 12 (o.minor.toNat / 4 * 2 ^ 10 + o.d.toNat))
    let a := physOp s.core.rbase (BitVec.ofNat 12 (o.minor.toNat % 4 * 2 ^ 10 + o.a.toNat))
    let lat := occupancy s.core.map a + rowHops s.core.map + occupancy s.core.map d
    ∃ t w, exec (.vmovdP h o) s = .next t ∧ Timed (.vmovdP h o) s t lat ∧ SameSeeds s.core t.core ∧ t.core.mwr = s.core.mwr ++ [w] ∧ w.m = d ∧
      w.fin = s.core.cycle + lat ∧ w.v = readVec s.core.mrf a ∧ w.mask = predMask s.seq (unitPfx (.vmovdP h o))) ∧
  (∀ h o s, s.executes (.vbcastP h o) = true →
    let a := readVec s.core.mrf (formRow s.core.rbase o.a)
    ∃ t w, exec (.vbcastP h o) s = .next t ∧ Timed (.vbcastP h o) s t (2 + rowHops s.core.map) ∧ SameSeeds s.core t.core ∧
      t.core.mwr = s.core.mwr ++ [w] ∧ w.m = formRow s.core.rbase o.d ∧ w.fin = s.core.cycle + 2 + rowHops s.core.map ∧
      w.mask = predMask s.seq (unitPfx (.vbcastP h o)) ∧ ∀ e < 32, w.v.cell e = a.cell 0 ∧ w.v.pois e = a.pois 0) ∧
  (∀ h o s, s.executes (.viotaP h o) = true →
    let f := (laneFmt o.lt (o.minor.getLsbD 3)).getD .i32
    ∃ t w, exec (.viotaP h o) s = .next t ∧ Timed (.viotaP h o) s t (2 + rowHops s.core.map) ∧ SameSeeds s.core t.core ∧
      t.core.mwr = s.core.mwr ++ [w] ∧ w.m = formRow s.core.rbase o.d ∧ w.fin = s.core.cycle + 2 + rowHops s.core.map ∧
      w.mask = predMask s.seq (unitPfx (.viotaP h o)) ∧ w.v.poison = 0 ∧ ∀ l, l < 1024 / f.width → w.v.lane f.width l = l % 2 ^ f.width)

/-- R16, R157 and R10: TIMED_COMPLETION of an instruction that has reached its completion. Its result becomes readable in its
register and nowhere else, X0 and P0 keep their constants, its SIGNAL post is made, memory is as it was, and the instruction is no
longer in flight.
Moreover: R35, R84, R31, R27 and R325: SLOT_RESULT drives the result of a slot in its cycle and notes FP_INVALID; MRF_ACCESS_START makes a read that
its ports held back; INTERLOCK_FREEZE holds the domain for the excess of the class that is due, and INTERLOCK_THAW lets what is due take
effect. -/
def Obligations.TimedResultsArrive : Prop :=
  (
  ∀ n s p, s.core.done.find? (fun x => x.id = n) = some p → s.core.completes p = true →
    ((∃ q r v b, p.writes = [.x q r v b]) ∨ (∃ q r v, p.writes = [.p q r v]) ∨ p.writes = []) →
    ∃ t, exec (.timedCompletion n) s = .next t ∧ PostsSignal p s.core t.core ∧
      t.core.done = s.core.done.filter (fun x => x.id != n) ∧ SameMemory s t ∧ SameStores s.core t.core ∧
      SameSpecials s.core t.core ∧ SameLoops s.core t.core ∧ (∀ q, (t.core.seq q).pc = (s.core.seq q).pc) ∧
      (∀ q r v b, p.writes = [.x q r v b] → LandsX q r v b s.core t.core ∧ ∀ q r, (t.core.seq q).getP r = (s.core.seq q).getP r) ∧
      (∀ q r v, p.writes = [.p q r v] → LandsP q r v s.core t.core ∧
        ∀ q r, (t.core.seq q).getX r = (s.core.seq q).getX r ∧ (t.core.seq q).getXP r = (s.core.seq q).getXP r) ∧
      (p.writes = [] → SameRegisters s.core t.core)) ∧
  (∀ q : Seq, q.getX 0 = 0 ∧ q.getXP 0 = false ∧ q.getP 0 = BitVec.allOnes 32) ∧
  (
  (∀ (s : State) (r : SlotRes), s.core.slotRes.find? (fun x => x.id = r.id) = some r → r.due = s.core.cycle → r.flow < 16 →
    ∃ t, exec (.slotResult r.id) s = .next t ∧ t.core.slotRes = s.core.slotRes.filter (fun x => x.id != r.id) ∧
      Drives s.core t.core s.core.cycle r.flow r.pos r.v ∧ SameMemory s t ∧ SameRegisters s.core t.core ∧ SameStores s.core t.core ∧
      t.core.pend = s.core.pend ++ if r.fpInv then [⟨.mx, 0x12, some r.pc, 0, false, s.core.tl, false⟩] else []) ∧
  (∀ (s : State) (r : LateRead), s.core.lateReads.find? (fun x => x.id = r.id) = some r → r.start = s.core.cycle →
    ∃ t, exec (.mrfAccessStart r.id) s = .next t ∧ t.core.lateReads = s.core.lateReads.filter (fun x => x.id != r.id) ∧
      Drives s.core t.core (s.core.cycle + r.occ) r.flow 0 (readVec s.core.mrf r.m) ∧ SameMemory s t ∧ SameRegisters s.core t.core ∧
      SameStores s.core t.core) ∧
  (∀ s : State, s.core.ilk = 0 → ∃ t, exec .interlockFreeze s = .next t ∧ t.core.ilk = s.core.excessDue ∧ SameMemory s t ∧
    SameRegisters s.core t.core ∧ SameStores s.core t.core ∧
    ∀ r ∈ s.core.slotRes, r.due = s.core.cycle → r.flow < 16 → s.core.classExcess (r.pos - 1) ≤ t.core.ilk) ∧
  (∀ s : State, ∃ t, exec .interlockThaw s = .next t ∧ t.core = s.core ∧ t.hub = s.hub ∧
    (∀ r ∈ s.core.slotRes, r.due = s.core.cycle → Instr.slotResult r.id ∈ t.agenda) ∧
    ∀ p ∈ s.core.done, p.onCycle = true → p.due ≤ s.core.cycle → Instr.timedCompletion p.id ∈ t.agenda))

namespace Sys2Proof.Machine

/-! The matrix array and the accumulators (R215 to R237, R88 to R92). -/

/-- The array instructions. -/
def matRow : Instr → Option (ArrKind × Mat)
  | .tmma _ o => some (.tmma, o) | .tmms _ o => some (.tmms, o) | .tdist _ o => some (.tdist, o)
  | _ => none

/-- What checks 1 to 6 of R224 answer for a unit of the sequencer in turn: what it latches, or the trap. -/
def State.latched (s : State) (i : Instr) (k : ArrKind) (a b x : BitVec 5) (row : BitVec 11) (mode : BitVec 4) (staged : Bool) :
    Except TrapRec ArrCmd :=
  arrayChecks s { q := s.who, pc := s.seq.pc, next := s.nextPc i, pfx := unitPfx i, sig := unitSignal i } k a b x row.toNat mode staged

/-- An array instruction begins now (R225 to R228): what it latched, its figures, how long the array is busy, and the fetch of each
row of an operand that lies behind a handle. -/
structure Started (s t : State) (k : ArrCmd) (o : ArrOp) : Prop where
  op : t.core.arr = s.core.arr ++ [o]
  cmd : o.cmd = { k with fmtB := if shKeep k.shape then (s.core.heldB.map (·.fmt)).getD k.fmtB else k.fmtB } ∧ o.t = s.core.cycle
  lsrc : o.lsrc = max (sourceLat s.core k.aLoc) (if shKeep k.shape then 0 else sourceLat s.core k.bLoc)
  kc : o.kc = if shKeep k.shape then 0 else (rates k.kind k.fmtA k.fmtB (shK k.shape)).1
  delta : o.delta = s.core.classLat 14
  held : o.b = if shKeep k.shape then s.core.heldB else none
  fresh : o.a = [] ∧ o.stop = none ∧ o.bad = none ∧ o.full = false
  busy : t.core.arrBusy = o.t + o.lsrc + o.kc + rowCycles (shM k.shape) (rates k.kind k.fmtA o.cmd.fmtB (shK k.shape)).2.1
  fetches : ∀ isB a g r, (if isB then (if shKeep k.shape then none else k.b) else some k.a) = some (.hbm a) →
    (if isB then g = 0 else g < o.groups) → r ∈ (o.cmd.part isB g).rows → (o.cmd.part isB g).spans ≠ [] →
    ∃ f ∈ t.core.flight, f.stage = .going ∧
      f.op = .operand o.id isB g r (.hbm (a + r * (o.cmd.part isB g).stride)) (o.cmd.part isB g).spans

/-- What an array instruction leaves alone as it begins. -/
structure OnlyArray (s t : State) : Prop where
  memory : SameMemory s t
  registers : SameRegisters s.core t.core
  stores : SameStores s.core t.core
  specials : SameSpecials s.core t.core
  work : t.core.done = s.core.done ∧ t.core.posts = s.core.posts ∧ t.core.cmds = s.core.cmds ∧ t.core.accWr = s.core.accWr ∧
    t.core.mwr = s.core.mwr ∧ SameLoops s.core t.core
  package : t.hub = s.hub ∧ t.parked = s.parked

/-- Operands that no check refuses: dense INT8 matrices packed in the scratchpad, within the limits. -/
structure PlainOperands (s : State) (o : Mat) : Prop where
  clean : s.bad o.a = false ∧ s.bad o.b = false ∧ s.bad o.s = false
  shape : s.src o.s < 2 ^ 28
  rows : o.row.toNat + shM (s.seq.getX o.s) ≤ 2048
  depth : shK (s.seq.getX o.s) ≤ 192
  formats : s.core.getBf (bankOf (s.src o.a)) = 1 ∧ s.core.getBf (bankOf (s.src o.b)) = 1
  a : s.src o.a + shM (s.seq.getX o.s) * shK (s.seq.getX o.s) ≤ 0x300000
  b : s.src o.b + shK (s.seq.getX o.s) * shN (s.seq.getX o.s) ≤ 0x300000

/-- An operand of a command in flight: a dense INT8 matrix packed in the scratchpad from `a` on, not transposed. -/
structure PlainA (k : ArrCmd) (a : Nat) : Prop where
  place : k.a = .spad a
  fmt : k.fmtA = 1
  layout : shTA k.shape = false ∧ shAstr k.shape = 0
structure PlainB (k : ArrCmd) (a : Nat) : Prop where
  place : k.b = some (.spad a)
  fmt : k.fmtB = 1 ∧ k.kind ≠ .tmms
  layout : shTB k.shape = false ∧ shBstr k.shape = 0

/-- A column that an array instruction writes (R217). -/
def ArrCmd.open_ (k : ArrCmd) (n : Nat) : Prop := n < shN k.shape ∧ k.mask.getLsbD (n / 4) = true

/-- The term of R221 for two integers; an absent element of B gives 0. -/
def termOf (k : ArrKind) (a : Int) (b : Option Int) : Int :=
  match b with
  | none => 0
  | some b => if k = .tdist then (a - b) * (a - b) else a * b

/-- The chunks of 16 of R88. -/
def chunks (xs : List Num) : List (List Num) := (List.range ((xs.length + 15) / 16)).map fun j => (xs.drop (16 * j)).take 16

/-- The write of a row that becomes final. -/
structure RowWrite (s t : State) (o : ArrOp) (m : Nat) (value : Nat → BitVec 32) : Prop where
  write : ∃ w ∈ t.core.accWr, w.id = o.id ∧ w.cyc = s.core.cycle ∧ ∃ vs, w.eff = .cols (o.cmd.row + m) vs ∧
    ∀ n v, (n, v) ∈ vs ↔ (o.cmd.open_ n ∧ v = value n)

/-- A column ranks before another of its ACC row (R92). -/
def RanksFirst (mx f32 : Bool) (v : Nat → BitVec 32) (a b : Nat) : Prop :=
  if f32 then
    let x := numOf .f32 (v a).toNat
    let y := numOf .f32 (v b).toNat
    let less (p q : Num) : Prop := cmpNum p q = some .lt
    (x.isNan = false ∧ (y.isNan = true ∨ if mx then less y x else less x y)) ∨
      ((x.isNan = true ∧ y.isNan = true ∨ cmpNum x y = some .eq) ∧ a < b)
  else if mx then (v b).toInt < (v a).toInt ∨ (v a = v b ∧ a < b)
  else (v a).toInt < (v b).toInt ∨ (v a = v b ∧ a < b)

end Sys2Proof.Machine

open Sys2Proof Sys2Proof.Machine

/-- R216 to R228, R233 and R58: an array instruction that passes checks 1 to 6 of R224 and finds the array free begins, one that does not
traps; packed INT8 operands in the scratchpad pass. MXSTAGE stages what it latches; the staged command begins when the engine issues it,
and is discarded with its cause where the array is busy. The EADDR of checks 1 to 4, that A comes before B, and where MXSTAGE's own checks
stand are the model's choices (log entry 84, DESIGN CHOICE). -/
def Obligations.ArrayInstructionsBegin : Prop :=
  (∀ i s k o c, matRow i = some (k, o) → s.executes i = true → s.latched i k o.a o.b o.s o.row o.mode false = .ok c →
    s.core.arrBusy ≤ s.core.cycle →
    (∃ t a, exec i s = .next t ∧ Started s t c a ∧ OnlyArray s t ∧ (t.core.seq s.who).pc = s.nextPc i ∧
      OtherPcs s.who s.core t.core ∧ TookTokens i s.core t.core) ∧
    c.kind = k ∧ c.aLoc = s.seq.getX o.a ∧ c.bLoc = s.seq.getX o.b ∧ c.shape = s.seq.getX o.s ∧ c.row = o.row.toNat ∧ c.mode = o.mode ∧
    c.mask = (if o.mode.getLsbD 2 then s.seq.getP 7 else BitVec.allOnes 32) ∧ c.sig = unitSignal i ∧ c.q = s.who) ∧
  (∀ i s k o e, matRow i = some (k, o) → s.executes i = true → s.mayEnter →
    s.latched i k o.a o.b o.s o.row o.mode false = .error e → TrapsWith i s e.cause e.eaddr) ∧
  (∀ i s k o c, matRow i = some (k, o) → s.executes i = true → s.mayEnter →
    s.latched i k o.a o.b o.s o.row o.mode false = .ok c → s.core.cycle < s.core.arrBusy → TrapsWith i s Cause.undersizedDelay 0) ∧
  (∀ i s k o, matRow i = some (k, o) → k ≠ .tmms → s.executes i = true → PlainOperands s o →
    ∃ c, s.latched i k o.a o.b o.s o.row o.mode false = .ok c ∧ PlainA c (s.src o.a) ∧ PlainB c (s.src o.b)) ∧
  (∀ h o s c, s.executes (.mxstage h o) = true →
    let k : ArrKind := if o.op = 0 then .tmma else if o.op = 1 then .tmms else .tdist
    s.latched (.mxstage h o) k o.a o.b o.s o.row o.mode true = .ok c → s.core.staged = none →
    ∃ t, exec (.mxstage h o) s = .next t ∧ t.core.staged = some ⟨c⟩ ∧ t.core.arr = s.core.arr ∧ OnlyArray s t ∧
      (t.core.seq s.who).pc = s.nextPc (.mxstage h o)) ∧
  (∀ (s : State) n g rest, s.core.stagedDue = (n, g) :: rest → n ≤ s.core.cycle →
    (locKind g.cmd.aLoc = 2 → (s.core.getH (locHandle g.cmd.aLoc)).valid = true) →
    (shKeep g.cmd.shape = false → locKind g.cmd.bLoc = 2 → (s.core.getH (locHandle g.cmd.bLoc)).valid = true) →
    (shKeep g.cmd.shape = true → heldMatches s.core g.cmd.kind g.cmd.shape = true) →
    ∃ t, exec .stagedCommandIssue s = .next t ∧ t.core.stagedDue = rest ∧ OnlyArray s t ∧
      (s.core.arrBusy ≤ s.core.cycle → ∃ a, Started s t g.cmd a ∧ t.core.pend = s.core.pend) ∧
      (s.core.cycle < s.core.arrBusy → t.core.arr = s.core.arr ∧
        t.core.pend = s.core.pend ++ [⟨g.cmd.q, Cause.undersizedDelay, none, 0, false, s.core.level, false⟩]))

/-- R218, R221, R223, R225, R226, R228 and R88: B and the groups of A are fetched when they fall due, each element from its place; a row
that is final goes to the ACC at the end of its cycle: the exact sum modulo 2^32 of two integer operands, or the FP32 accumulation in
chunks of 16; with the last row the instruction is complete and posts. That the held B becomes valid in the cycle in which B falls due is the
model's choice (log entry 85, DESIGN CHOICE). -/
def Obligations.ArrayRowsBecomeFinal : Prop :=
  (∀ (s : State) (o : ArrOp) a, s.core.arrOf o.id = some o → PlainB o.cmd a → o.full = false →
    s.core.operandFlights o.id true 0 = [] →
    ∃ t h o', exec (.arrayOperandDue o.id 0) s = .next t ∧ SameMemory s t ∧ SameX s.core t.core ∧ t.core.bvalid = true ∧
      t.core.heldB = some h ∧ t.core.arrOf o.id = some o' ∧ o'.b = some h ∧ o'.cmd = o.cmd ∧ h.kind = o.cmd.kind ∧
      h.n = shN o.cmd.shape ∧ h.k = shK o.cmd.shape ∧ h.fmt = o.cmd.fmtB ∧
      ∀ n k, o.cmd.open_ n → k < shK o.cmd.shape → ∃ e, (h.cols.getD n []).getD k none = some e ∧
        e.int = signedOf 8 (memGet s.core.spad (a + k * shN o.cmd.shape + n)).toNat) ∧
  (∀ (s : State) (o : ArrOp) a g, s.core.arrOf o.id = some o → PlainA o.cmd a → o.goes g = true → o.bad = none →
    o.full = false → s.core.operandFlights o.id false g = [] →
    ∃ t o', exec (.arrayOperandDue o.id (g + 1)) s = .next t ∧ SameMemory s t ∧ SameX s.core t.core ∧ t.core.arrOf o.id = some o' ∧
      o'.cmd = o.cmd ∧ o'.b = o.b ∧ ∀ m, m < shM o.cmd.shape → m / 32 = g → (AMap.get [] o'.a m).length = shK o.cmd.shape ∧
        ∀ k, k < shK o.cmd.shape → ((AMap.get [] o'.a m).getD k Elem.zero).int =
          signedOf 8 (memGet s.core.spad (a + m * shK o.cmd.shape + k)).toNat) ∧
  (∀ (s : State) (o : ArrOp) m h, s.core.arrOf o.id = some o → o.goes (m / 32) = true → o.b = some h →
    let row := AMap.get [] o.a m
    let col (n : Nat) : List (Option Elem) := h.cols.getD n []
    let kk := shK o.cmd.shape
    let old (n : Nat) : BitVec 32 := if modeOvw o.cmd.mode then 0 else s.core.getAcc (o.cmd.row + m) n
    row.length = kk → (∀ n, o.cmd.open_ n → (col n).length = kk) →
    ∃ t, exec (.arrayRowFinal o.id m) s = .next t ∧ SameMemory s t ∧ SameRegisters s.core t.core ∧ SameStores s.core t.core ∧
      (intFormat o.cmd.fmtA = true → intFormat o.cmd.fmtB = true → modeFacc o.cmd.mode = false →
        RowWrite s t o m fun n => BitVec.ofInt 32 ((old n).toInt + ((List.range kk).map fun k =>
          termOf o.cmd.kind (row.getD k Elem.zero).int (((col n).getD k none).map (·.int))).sum)) ∧
      ((intFormat o.cmd.fmtA && intFormat o.cmd.fmtB && !modeFacc o.cmd.mode) = false →
        RowWrite s t o m fun n => BitVec.ofNat 32 ((chunks ((row.zip (col n)).map fun q => termNum o.cmd.kind q.1 q.2)).foldl
          (fun acc x => roundFloat .f32 (addNum 0 (numOf .f32 acc) (numOf .f32 (chunkSum x))) Arith.default 0) (old n).toNat)) ∧
      (m + 1 = shM o.cmd.shape → t.core.arr = s.core.arr.filter (fun x => x.id != o.id) ∧
        t.core.posts = s.core.posts ++ signalPosts o.cmd.no o.cmd.sigQ o.cmd.pc o.cmd.sig) ∧
      (m + 1 ≠ shM o.cmd.shape → t.core.arr = s.core.arr ∧ t.core.posts = s.core.posts))

/-- R231 and R234 to R236: ACCRD, ACCWR and ACCZ move their words, at the cycles given, and trap on a bad row; MXRES arms the suspended
instruction, or traps where there is none.
Moreover: R237 with R92: TTOPK reads a row every second cycle, and what it writes of a row is the first k columns in rank order with their
words. -/
def Obligations.AccumulatorAndRanks : Prop :=
  (
  (∀ h o s, s.executes (.accrd h o) = true → s.core.udchk = false → s.bad o.xr = false →
    let row := (o.row.toNat + s.src o.xr) % 2 ^ 64
    let m := physOp s.core.rbase o.m
    let occ := occupancy s.core.map m
    let start := (s.core.reserve .write m (s.core.cycle + 1)).1
    row < 2048 →
    ∃ t w, exec (.accrd h o) s = .next t ∧ Timed (.accrd h o) s t occ ∧ SameSeeds s.core t.core ∧ t.core.mwr = s.core.mwr ++ [w] ∧ w.m = m ∧
      w.start = start ∧ w.fin = start + occ - 1 ∧ w.mask = BitVec.allOnes 32 ∧
      ∀ e, e < 32 → w.v.cell e = s.core.getAcc row (32 * o.cg.toNat + e) ∧ w.v.pois e = false) ∧
  (∀ h o s, s.executes (.accwr h o) = true → s.core.udchk = false → s.bad o.xr = false →
    let row := (o.row.toNat + s.src o.xr) % 2 ^ 64
    let m := physOp s.core.rbase o.m
    let occ := occupancy s.core.map m
    row < 2048 → (readVec s.core.mrf m).poison = 0 → (s.core.reserve .read m s.core.cycle).1 = s.core.cycle →
    ∃ t w vs, exec (.accwr h o) s = .next t ∧ Timed (.accwr h o) s t occ ∧ SameSeeds s.core t.core ∧ t.core.accWr = insertAcc w s.core.accWr ∧
      w.id = s.core.nextId ∧ w.cyc = s.core.cycle + occ ∧ w.eff = .cols row vs ∧
      ∀ n v, (n, v) ∈ vs ↔ ∃ e < 32, n = 32 * o.cg.toNat + e ∧ v = (readVec s.core.mrf m).cell e) ∧
  (∀ h o s, s.executes (.accz h o) = true → s.bad o.xr = false →
    let row := (o.row.toNat + s.src o.xr) % 2 ^ 64
    let n := o.n.toNat + 1
    row + n ≤ 2048 →
    ∃ t, exec (.accz h o) s = .next t ∧ Timed (.accz h o) s t ((n + 31) / 32) ∧ SameSeeds s.core t.core ∧
      (∀ w ∈ s.core.accWr, w ∈ t.core.accWr) ∧
      (∀ i < n, ∃ w ∈ t.core.accWr, w.id = s.core.nextId ∧ w.cyc = s.core.cycle + 1 + i / 32 ∧
        ∃ r k, w.eff = .zero r k ∧ r ≤ row + i ∧ row + i < r + k) ∧
      ∀ w ∈ t.core.accWr, w ∈ s.core.accWr ∨ ∃ r k, w.eff = .zero r k ∧ row ≤ r ∧ r + k ≤ row + n) ∧
  (∀ h o s, s.executes (.accrd h o) = true → s.mayEnter → s.bad o.xr = true → TrapsWith (.accrd h o) s Cause.undersizedDelay 0) ∧
  (∀ h o s, s.executes (.accwr h o) = true → s.mayEnter → s.bad o.xr = false → 2048 ≤ (o.row.toNat + s.src o.xr) % 2 ^ 64 →
    TrapsWith (.accwr h o) s Cause.illegalField 0) ∧
  (∀ h o s, s.executes (.accz h o) = true → s.mayEnter → s.bad o.xr = false → 2048 < (o.row.toNat + s.src o.xr) % 2 ^ 64 + (o.n.toNat + 1) →
    TrapsWith (.accz h o) s Cause.illegalField 0) ∧
  (∀ h s p, s.executes (.mxres h) = true → s.core.tl ≠ 0 → s.core.suspended = some p →
    ∃ t, exec (.mxres h) s = .next t ∧ t.core.suspended = some { p with armed := true } ∧
      t.core.done = s.core.done ++ [s.pending (.mxres h) 1 []] ∧ (t.core.seq s.who).pc = s.nextPc (.mxres h) ∧ SameMemory s t ∧
      SameRegisters s.core t.core ∧ SameStores s.core t.core ∧ t.core.arr = s.core.arr) ∧
  (∀ h s, s.executes (.mxres h) = true → s.mayEnter → (s.core.tl = 0 ∨ s.core.suspended = none) →
    TrapsWith (.mxres h) s Cause.illegalField 0)) ∧
  (
  (∀ h o s, s.executes (.ttopk h o) = true → s.core.udchk = false → s.core.topkUntil ≤ s.core.cycle →
    let n := o.nr.toNat + 1
    ∃ (t : State) (rows : List TopkRow), exec (.ttopk h o) s = .next t ∧ Timed (.ttopk h o) s t (2 * n + 17) ∧ SameSeeds s.core t.core ∧
      t.core.topkUntil = s.core.cycle + 2 * n + 17 ∧ rows.length = n ∧
      t.core.mwr = s.core.mwr ++ rows.head?.toList.map (fun r => TopkRow.write r s.core) ∧ t.core.topk = s.core.topk ++ rows.drop 1 ∧
      ∀ (i : Nat) (r : TopkRow), rows[i]? = some r → r.readAt = s.core.cycle + 2 * i ∧ r.row = o.row.toNat + i ∧
        r.m = BitVec.ofNat 12 (phys s.core.rbase o.m.toNat * 32 + i) ∧ r.k = o.k.toNat + 1 ∧ r.nc = o.nc.toNat + 1 ∧ r.mx = o.max ∧
        r.f32 = o.f32 ∧ s.core.cycle + 2 * i + 19 ≤ r.start ∧ r.fin = r.start + occupancy s.core.map r.m - 1) ∧
  (∀ h o s, s.executes (.ttopk h o) = true → s.mayEnter → s.core.cycle < s.core.topkUntil →
    TrapsWith (.ttopk h o) s Cause.undersizedDelay 0) ∧
  (∀ (r : TopkRow) (c : Core), r.k ≤ r.nc → r.k ≤ 16 → r.nc ≤ 128 →
    let w := r.write c
    let ix (e : Nat) : Nat := (w.v.cell e).toNat
    let first := RanksFirst r.mx r.f32 (c.getAcc r.row)
    w.v.poison = 0 ∧ w.mask = BitVec.allOnes 32 ∧ w.m = r.m ∧
    (∀ e < r.k, ix e < r.nc ∧ w.v.cell (16 + e) = c.getAcc r.row (ix e)) ∧
    (∀ e < r.k, ∀ e' < r.k, e < e' → first (ix e) (ix e')) ∧
    (∀ e < r.k, ∀ n < r.nc, (∀ e' < r.k, ix e' ≠ n) → first (ix e) n) ∧
    ∀ e < 32, r.k ≤ e → (e < 16 ∨ 16 + r.k ≤ e) → w.v.cell e = 0))

namespace Sys2Proof.Machine

/-! The events of a core (R7, R16, R19, R52, R183, R240, R286, R295 to R307, R331). -/

/-- Only the core in hand changes, or only the package outside the cores. -/
def CoreOnly (s t : State) : Prop := { t with core := s.core } = s
def HubOnly (s t : State) : Prop := { t with hub := s.hub } = s

/-- What a program holds in a core: registers, PCs and loop stacks, vectors, accumulators, handles, formats, patterns, scratchpad. -/
structure SameProgram (c d : Core) : Prop where
  registers : SameRegisters c d
  pcs : ∀ q, (d.seq q).pc = (c.seq q).pc
  loops : SameLoops c d
  stores : SameStores c d
  spad : ∀ a, memGet d.spad a = memGet c.spad a

/-- The request that an operation of the core makes of another package (R398, R399): kind, home, address and body. -/
def requestOf (f : Flight) : Option (BitVec 5 × BitVec 10 × Nat × Body) :=
  match f.op with
  | .store (.remote h va) bs => some (2, h, va, .writes [⟨va, bs, []⟩])
  | .load _ (.remote h va) n _ _ _ => some (1, h, va, .reads [(va, n)])
  | .operand _ _ _ _ (.remote h va) [(0, n)] => if 0 < n ∧ n ≤ 4096 ∧ va % 65536 + n ≤ 65536 then some (1, h, va, .reads [(va, n)]) else none
  | .ordLoad _ (.remote h va) n _ => some (5, h, va, .ordLoad n)
  | .ordStore (.remote h va) bs => some (5, h, va, .ordStore bs)
  | .sync k (.remote h va) _ _ => some (4, h, va, .sync k)
  | .pgreq _ _ va => f.hnd.map fun x => (7, x.2.home, va, .pgreq x.2.token)
  | _ => none

/-- A request goes out (R399, R406, R418): it waits for its injection under a tag of its own. -/
def Requested (s t : State) (owner : Option Owner) (kind : BitVec 5) (path dst va : Nat) (tenant : BitVec 20) (body : Body) : Prop :=
  ∃ r : Request, t.hub.requests = s.hub.requests ++ [r] ∧ r.owner = owner ∧ r.sent = none ∧ r.held = false ∧ r.tag = s.requestTag ∧
    r.packet.tag = r.tag ∧ r.packet.kind = kind ∧ r.packet.path = BitVec.ofNat 3 path ∧ r.packet.src = s.hub.pkg ∧ r.packet.dst = dst ∧
    r.packet.va = va ∧ r.packet.tenant = tenant ∧ r.packet.body = body ∧ t.hub.out = s.hub.out ++ [r.packet]

/-- Operations at the object order or the sync unit of this package. -/
def localOrdered : Op → Prop
  | .ordLoad _ l _ _ => l.isRemote = false
  | .ordStore l _ => l.isRemote = false
  | .sync _ l _ _ => l.isRemote = false
  | _ => False

/-- Operations whose refusal is a precise trap at their unit (R239, R247, R270, R273). -/
def trapsPrecisely (f : Flight) : Prop :=
  match f.op with
  | .store .. | .ordStore .. => f.stage = .refused ∨ f.stage = .timedOut
  | .sync .. => (f.stage = .refused ∨ f.stage = .timedOut) ∧ f.data = []
  | .load .. | .ordLoad .. => f.stage = .refused
  | _ => False

/-- A pending cause is the next to be taken (R286): it may be, and no cause of a sequencer before its own may. -/
def NextCause (c : Core) (p : PendCause) : Prop :=
  p ∈ c.pend ∧ p.ready c.tl = true ∧ (c.seq p.q).hold = none ∧
    ∀ p' ∈ c.pend, p'.ready c.tl = true → (c.seq p'.q).hold = none → seqCode p.q ≤ seqCode p'.q

/-- The requests of the ACQs that wait on a core are withdrawn, and nothing else of the package changes (R273, R297, R301). -/
structure WithdrawsAcqs (s t : State) (c : Core) : Prop where
  rest : { t.hub with requests := s.hub.requests, out := s.hub.out, spent := s.hub.spent } = s.hub
  gone : ∀ f ∈ c.flight, isWaitingAcq f = true → ∀ r ∈ t.hub.requests, r.owner ≠ some (c.owner f.id)
  others : ∀ r ∈ s.hub.requests, (∀ f ∈ c.flight, isWaitingAcq f = true → ∀ r' ∈ s.hub.requests, r'.owner = some (c.owner f.id) →
    r'.tag ≠ r.tag) → r ∈ t.hub.requests

/-- LD, MX and ST as a containment record keeps them (R181). -/
def regionIndex : SeqId → Nat
  | .ct => 0 | .ld => 1 | .mx => 2 | .st => 3

end Sys2Proof.Machine

open Sys2Proof Sys2Proof.Machine

/-- R7, R19, R299, R300, R240 and R286: LAUNCH_SETUP_DONE starts schedule cycle 0; TOKEN_STALL traps a wait that has run out;
COMMIT_RELEASE sends an operation or command that has stood in the commit buffer on its way; STRIKE_REPORT holds its core for 64 cycles
and counts; LATE_FAULT makes a refusal or a time-out a pending cause, with EADDR 0 for a time-out, and PENDING_CAUSE_TAKEN enters the trap of the next
one. A task that was to be pre-empted halts as its set-up ends, and an FSIG that an unwind has silenced sends nothing. -/
def Obligations.CoreEventsSettle : Prop :=
  (∀ s : State, s.core.status = .setup 0 → s.core.preempt = true →
    ∃ t, exec .launchSetupDone s = .next t ∧ CoreOnly s t ∧ t.core.status = .halting) ∧
  (∀ s : State, s.core.status = .setup 0 → s.core.preempt = false →
    ∃ t, exec .launchSetupDone s = .next t ∧ CoreOnly s t ∧ t.core.status = .running ∧ t.core.cycle = 0 ∧ SameProgram s.core t.core ∧
      ∀ q, (t.core.seq q).last = if q = .mx then 0 else s.core.pulse) ∧
  (∀ s : State, s.seq.waiting = true → s.core.tl = 0 → s.core.tkwdog ≠ 0 → s.core.tkwdog.toNat ≤ s.seq.wd → s.mayEnter →
    ∃ t, exec .tokenStall s = .next t ∧ Entered s t s.who Cause.tokenStall s.seq.pc 0) ∧
  (∀ (s : State) (f : Flight), s.due f → f.stage = .commit → s.core.mustStay f = false → localOrdered f.op →
    ∃ t g, exec (.commitRelease f.id) s = .next t ∧ t.core.flightOf f.id = some g ∧ g = { f with stage := .away, due := g.due } ∧
      s.core.pulse < g.due ∧ { t with core := s.core, free := s.free } = s ∧ SameProgram s.core t.core) ∧
  (∀ (s : State) (f : Flight) kind home va body, s.due f → f.stage = .commit → s.core.mustStay f = false →
    requestOf f = some (kind, home, va, body) → (∀ k l va d, f.op = .sync k l va d → s.hub.refusesBind s.core.func k = false) → (∀ g, s.hub.homeOf s.core.func va ≠ .group g) →
    ∃ t g, exec (.commitRelease f.id) s = .next t ∧
      Requested s t (some (s.core.owner f.id)) kind f.path home.toNat va s.core.tenant body ∧ t.core.flightOf f.id = some g ∧
      g.stage = .away ∧ g.op = f.op ∧ SameMemory s t ∧ SameProgram s.core t.core) ∧
  (∀ (s : State) (k : EngineCmd) w v, s.core.flightOf k.id = none → s.core.cmdOf k.id = some k → k.kind = .fsig w v → k.stage = .commit →
    k.due ≤ s.core.pulse → sigPkg w ≠ s.hub.pkg → k.quiet = true →
    ∃ t, exec (.commitRelease k.id) s = .next t ∧ CoreOnly s t ∧ t.core = { s.core with cmds := s.core.cmds.filter fun m => m.id != k.id }) ∧
  (∀ (s : State) (k : EngineCmd) w v, s.core.flightOf k.id = none → s.core.cmdOf k.id = some k → k.kind = .fsig w v → k.stage = .commit →
    k.due ≤ s.core.pulse → sigPkg w ≠ s.hub.pkg → k.quiet = false →
    ∃ t g, exec (.commitRelease k.id) s = .next t ∧
      Requested s t (some (s.core.owner k.id)) 6 2 (sigPkg w) 0 s.core.tenant (.fsig (sigCore w) (sigAddr w) v) ∧
      t.core.cmdOf k.id = some g ∧ g = { k with stage := .away } ∧ SameMemory s t ∧ SameProgram s.core t.core) ∧
  (∀ (s : State) n c, s.coreAt n = some c → (c.status = .running ∨ c.status = .halting ∨ ∃ i, c.status = .swapping i) →
    ∃ t, exec (.strikeReport n) s = .next t ∧ t.coreAt n = some { c with replayLeft := 64, replays := c.replays + 1 } ∧
      (∀ m, m ≠ n → t.coreAt m = s.coreAt m) ∧ t.hub = s.hub) ∧
  (∀ (s : State) (f : Flight), s.due f → trapsPrecisely f →
    ∃ t, exec (.lateFault f.id) s = .next t ∧ t.core.flight = s.core.flight.filter (fun g => g.id != f.id) ∧
      t.core.pend = s.core.pend ++ [⟨f.q, if f.stage = .timedOut then Cause.fabricTimeout else Cause.translationFault, some f.pc,
        if f.stage = .timedOut then 0 else f.locator, false, f.level, false⟩] ∧ t.core.posts = s.core.posts ∧ CoreOnly s t ∧ SameProgram s.core t.core ∧
      ((s.core.seq f.q).hold = some f.id → (t.core.seq f.q).hold = none)) ∧
  (∀ (s : State) (f : Flight) r off va, s.due f → f.op = .pgreq r off va → (f.stage = .refused ∨ f.stage = .timedOut) →
    ∃ t, exec (.lateFault f.id) s = .next t ∧ t.core.flight = s.core.flight.filter (fun g => g.id != f.id) ∧
      t.core.pend = s.core.pend ++ [⟨f.q, if f.stage = .timedOut then Cause.fabricTimeout else Cause.translationFault, none,
        if f.stage = .timedOut then 0 else f.locator, true, f.level, false⟩] ∧ t.core.posts = s.core.posts ∧ CoreOnly s t ∧ SameProgram s.core t.core) ∧
  (∀ (s : State) (k : EngineCmd), s.core.flightOf k.id = none → s.core.cmdOf k.id = some k → (k.stage = .refused ∨ k.stage = .timedOut) →
    ∃ t p, exec (.lateFault k.id) s = .next t ∧ t.core.cmds = s.core.cmds.filter (fun m => m.id != k.id) ∧
      t.core.pend = s.core.pend ++ [p] ∧ p.q = k.q ∧ p.epc = none ∧ p.late = true ∧ p.level = k.level ∧ CoreOnly s t ∧
      SameProgram s.core t.core ∧ (k.stage = .timedOut → p.cause = Cause.fabricTimeout) ∧
      (∀ w v, k.kind = .fsig w v → k.stage = .refused → p.cause = Cause.permission ∧ p.eaddr = w) ∧
      ((∀ w v, k.kind ≠ .fsig w v) → k.stage = .refused → p.cause = Cause.translationFault)) ∧
  (∀ s : State, s.core.tookTrap = false → (∃ p, NextCause s.core p) → s.core.tl < 2 →
    ∃ t p, NextCause s.core p ∧ exec .pendingCauseTaken s = .next t ∧ t.core.tl = s.core.tl + 1 ∧ t.core.pend = s.core.pend.erase p ∧
      t.core.trapSet (s.core.tl + 1) =
        ⟨p.cause.setWidth 64 + (if p.late || p.waited then 0x100 else 0), p.epc.getD (s.core.nextUnit p.q), p.eaddr,
          BitVec.ofNat 64 (seqCode p.q), if p.q = .ct then (s.core.trapSet (s.core.tl + 1)).ret else s.core.ct.pc⟩ ∧
      t.core.ct.pc = s.core.tvec (s.core.tl + 1) ∧ OutsideTraps s t)

/-- R181, R183, R297 and R298: an unwind of the innermost region puts CT at its handler, the others back where the region's record has
them, and the counts as they were, and notes itself in the error record; registers and memory keep their values, and vectors and accumulators
those they have at the end of the cycle. What the region issued is dropped or silenced, and a waiting ACQ is withdrawn.
Moreover: R301 to R307, R331 and R332: PREEMPT_REQUEST withdraws the waits that issue again and stops the core; CORE_HALT follows when its
commit buffer is empty; PREEMPT_DRAIN_END begins the save, which takes the time of R305, or frees a killed core; CONTEXT_SAVE_DONE keeps the
record and frees the core, whose registers stay; CONTEXT_RESTORE lets it run, or halt where it was to be pre-empted; CONTINUATION_START stops a
portable task at its safe point and, once its pipeline is empty, goes on in the other image from there. That a killed core is free only once
what had left it has landed (log entry 56, DEDUCED), that the withdrawal of an ACQ reaches only the requests of this package (log entry 73,
DESIGN CHOICE), that an unwind drops the waits of LD and ST (log entry 80, DESIGN CHOICE) and lets the scalar results of CT, LD and ST land
(log entry 81, DESIGN CHOICE) and notes the consumption where an ABORT falls in its cycle (log entry 82, DESIGN CHOICE), and how a
continuation waits and what it takes (log entry 49, DEDUCED) are the model's. -/
def Obligations.UnwindsAndPreemption : Prop :=
  (
  ∀ (s : State) (r : Region) rest, s.core.regions = r :: rest → s.core.tl = 0 → s.core.status = .running →
    (s.core.abort = true ∨ ∃ x ∈ s.core.consumed, x.level = 0 ∧ (s.core.seq x.q).hold = none) →
    ∃ t, exec .containmentUnwind s = .next t ∧ t.core.regions = rest ∧ t.core.abort = false ∧ t.core.ct.pc = r.handler ∧
      (∀ q, (t.core.seq q).loops = r.loops.getD (regionIndex q) []) ∧
      (∀ q, q ≠ .ct → (t.core.seq q).pc = r.pcs.getD (regionIndex q - 1) 0 ∧ (t.core.seq q).ended = r.ended.getD (regionIndex q - 1) false ∧
        (t.core.seq q).hold = none) ∧
      (∀ n, n < 16 → (t.core.getTok n).count = if (s.core.getTok n).en then r.counts.getD n 0 else 0) ∧
      t.core.staged = r.staged ∧ t.core.arr = [] ∧ t.core.mwr = [] ∧ t.core.accWr = [] ∧ t.core.drives = [] ∧
      t.core.errrec.toNat % 256 = r.id.toNat ∧ t.core.errrec.toNat / 2 ^ 12 % 16 = min 15 (s.core.errrec.toNat / 2 ^ 12 % 16 + 1) ∧
      t.core.errrec.toNat / 256 % 4 = (if (s.core.consumed.any fun x => x.level = 0 && (s.core.seq x.q).hold.isNone) then 2 else 1) ∧
      ((s.core.flight.map (·.id)).Nodup → ∀ f, f ∈ t.core.flight ↔ f ∈ s.core.flight ∧ unwindDrops r.no f = false) ∧
      (∀ k ∈ t.core.cmds, r.no ≤ k.id → k.quiet = true) ∧
      (∀ k ∈ s.core.cmds, k.timed = false → ∃ k' ∈ t.core.cmds, k'.id = k.id ∧ (k.id < r.no → k' = k)) ∧
      SameMemory s t ∧ SameRegisters s.core t.core ∧ SameStores s.core.landCycle t.core ∧ WithdrawsAcqs s t s.core) ∧
  (
  (∀ (s : State) n c, s.coreAt n = some c → c.status = .running → (c.flight.map (·.id)).Nodup →
    ∃ t d, exec (.preemptRequest n) s = .next t ∧ t.coreAt n = some d ∧ d.status = .halting ∧ SameRegisters c d ∧
      (∀ a, memGet d.spad a = memGet c.spad a) ∧ (∀ k, AMap.get 0 d.mrf k = AMap.get 0 c.mrf k) ∧
      (∀ row col, d.getAcc row col = c.getAcc row col) ∧ (∀ f, f ∈ d.flight ↔ f ∈ c.flight ∧ preemptDrops f = false) ∧
      (∀ f ∈ c.flight, preemptDrops f = true → (c.seq f.q).hold = some f.id → (d.seq f.q).hold = none ∧ (d.seq f.q).pc = f.pc) ∧
      (∀ m, m ≠ n → t.coreAt m = s.coreAt m) ∧ WithdrawsAcqs s t c) ∧
  (∀ (s : State) n c, s.coreAt n = some c → ((∃ k, c.status = .setup k) ∨ ∃ till, c.status = .restoring till) →
    ∃ t, exec (.preemptRequest n) s = .next t ∧ t.coreAt n = some { c with preempt := true } ∧
      (∀ m, m ≠ n → t.coreAt m = s.coreAt m) ∧ t.hub = s.hub) ∧
  (∀ s : State, s.core.status = .halting → s.core.bufferEmpty = true → s.core.replayLeft = 0 → s.core.drainForms = false →
    ∃ t, exec .coreHalt s = .next t ∧ CoreOnly s t ∧ t.core = { s.core with status := .halted }) ∧
  (∀ s : State, s.core.status = .halted → s.core.drained = true → s.core.task ≠ none →
    let till := s.tick + 2048 + (s.core.recordBytes * max 64 (s.savers s.core.die + 1) + (128 * 64 - 1)) / (128 * 64)
    ∃ t, exec .preemptDrainEnd s = .next t ∧ CoreOnly s t ∧ t.core = { s.core with status := .saving till }) ∧
  (∀ s : State, s.core.status = .killed → s.core.drained = true →
    ∃ t, exec .preemptDrainEnd s = .next t ∧ CoreOnly s t ∧ t.core.status = .free ∧ t.core.task = none) ∧
  (∀ (s : State) till k, s.core.status = .saving till → till ≤ s.tick → s.core.task = some k →
    ∃ t r, exec .contextSaveDone s = .next t ∧ t.core.status = .free ∧ t.core.task = none ∧
      SameRegisters s.core t.core ∧
      SameStores s.core.landSide t.core ∧ SameMemory s t ∧ t.hub.saved = s.hub.saved ++ [⟨k.graph, k.node, r⟩] ∧ SameRegisters s.core r ∧ (∀ q, (r.seq q).pc = (s.core.seq q).pc) ∧
      SameLoops s.core r ∧ SameSpecials s.core { r with bvalid := s.core.bvalid } ∧ r.bvalid = false ∧ (∀ n, r.getTok n = s.core.getTok n) ∧
      (∀ n, r.getH n = s.core.getH n) ∧ (∀ b, r.getBf b = s.core.getBf b) ∧
      (k.image.mrfReq ≠ 0 → ∀ x, AMap.get 0 r.mrf x = AMap.get 0 s.core.landSide.mrf x) ∧
      (∀ row col, row < k.image.accReq → col < 128 → r.getAcc row col = s.core.getAcc row col) ∧
      (∀ a, (k.image.live = 0 ∨ k.image.live.getLsbD (a / 131072) = true) → memGet r.spad a = memGet s.core.spad a)) ∧
  (∀ (s : State) till, s.core.status = .restoring till → till ≤ s.tick → s.core.preempt = true →
    ∃ t, exec .contextRestore s = .next t ∧ CoreOnly s t ∧ t.core.status = .halting) ∧
  (∀ (s : State) till, s.core.status = .restoring till → till ≤ s.tick → s.core.preempt = false →
    ¬ (s.core.tl = 0 ∧ s.core.suspended.any (·.armed) = true) →
    ∃ t, exec .contextRestore s = .next t ∧ CoreOnly s t ∧ t.core = { s.core with status := .running, restored := true }) ∧
  (∀ (s : State) k i, s.core.task = some k → s.core.status = .running → k.image.portable = true →
    safeEntry s.core (s.core.ct.pc - 4) = some i → s.hub.well.erased = false → s.core.safeHolds i = true → s.nativeHere.isSome = true →
    ∃ t, exec .continuationStart s = .next t ∧ CoreOnly s t ∧ t.core = { s.core with status := .swapping i }) ∧
  (∀ (s : State) k i g, s.core.task = some k → s.core.status = .swapping i → s.core.emptied = true → s.nativeHere = some g →
    ∃ t till, exec .continuationStart s = .next t ∧ t.core.status = .restoring till ∧ s.tick < till ∧
      t.core.task = some { k with image := g, stale := false } ∧ SameRegisters s.core t.core ∧
      (∀ a, (∀ m ∈ [k.image.live, g.live], m = 0 ∨ m.getLsbD (a / 131072) = true) → memGet t.core.spad a = memGet s.core.spad a) ∧
      (∀ row col, row < k.image.accReq → row < g.accReq → col < 128 → t.core.getAcc row col = s.core.getAcc row col) ∧
      (∀ q, (s.core.seq q).ended = false → (t.core.seq q).pc =
        BitVec.ofNat 64 ((g.safe.getD i []).getD (regionIndex q) 0 + if q = .ct then 4 else 0)) ∧ t.hub = s.hub) ∧
  (∀ (s : State) k i, s.core.task = some k → s.core.status = .swapping i → s.core.emptied = true → s.nativeHere = none → k.stale = false →
    ∃ t, exec .continuationStart s = .next t ∧ CoreOnly s t ∧ t.core = { s.core with status := .running }) ∧
  (∀ (s : State) k, s.core.task = some k → s.core.ended = true → s.core.leaveAt ≤ s.core.pulse →
    (s.core.status = .running ∨ s.core.status = .halting) →
    ∃ t, exec .taskCompletionEvent s = .next t ∧ t.core.status = .free ∧ t.core.task = none ∧ t.parked = s.parked ∧
      SameRegisters s.core t.core ∧ SameStores s.core.landSide t.core ∧ SameMemory s t ∧
      ((s.hub.takeover ≠ none ∨ s.hub.events ≠ []) → t.hub.events = s.hub.events ++ [⟨k.graph, k.node, 0⟩] ∧ t.hub.graphs = s.hub.graphs) ∧
      (s.hub.takeover = none → s.hub.events = [] → t.hub.events = [] ∧ ∀ g x, s.hub.graphOf k.graph = some g → g.nodes[k.node]? = some x →
        ∃ g' y, t.hub.graphOf k.graph = some g' ∧ g'.nodes[k.node]? = some y ∧ y.ended = x.ended + 1 ∧
          (x.rec_.w ≤ x.ended + 1 → y.state = .done) ∧
          (x.state = .running → x.ended + 1 < x.rec_.w →
            x.rec_.w ≤ x.ended + 1 + (s.hub.saved.filter fun r => r.graph = k.graph && r.node = k.node).length → y.state = .saved) ∧
          (g.status = 0 → ∀ i z, i ≠ k.node → g.nodes[i]? = some z → z.state = .waiting →
            (∀ p ∈ z.rec_.preds, ∃ v, g'.nodes[p]? = some v ∧ v.state = .done) → ∃ w, g'.nodes[i]? = some w ∧ w.state = .ready))) ∧
  (∀ (s : State) (k : Translation), s.hub.translations.find? (fun x => x.id = k.id) = some k → k.version = (s.hub.map k.die).version →
    s.hub.well.erased = false →
    ∃ t e, exec (.translationDone k.id) s = .next t ∧ t.hub.translations = s.hub.translations.filter (fun x => x.id != k.id) ∧
      e ∈ t.hub.cache ∧ (e.pdig = k.pdig ∧ e.variant = k.variant ∧ e.die = k.die ∧ e.version = k.version ∧ e.cls = k.cls) ∧
      (∀ f, k.vis.getLsbD f = true → e.vis.getLsbD f = true) ∧
      ((∀ x ∈ s.hub.cache, x.pdig ≠ k.pdig) → e.bytes = s.hub.translation k.src k.variant k.die k.cls)))

namespace Sys2Proof.Machine

/-! The host interface (R366 to R376, R380 to R387, R393, R394, R410 to R414, R434 to R436, R441). -/

/-- Only the registers of one function, or only one queue, change. -/
def FuncOnly (f : Nat) (s t : State) : Prop :=
  HubOnly s t ∧ { t.hub with funcs := s.hub.funcs } = s.hub ∧ ∀ g, g ≠ f → t.hub.func g = s.hub.func g
def QueueOnly (q : Nat) (s t : State) : Prop :=
  HubOnly s t ∧ { t.hub with queues := s.hub.queues } = s.hub ∧ ∀ p, p ≠ q → t.hub.queue p = s.hub.queue p

/-- A register write makes one function's registers `g`, or one queue `g`. -/
def SetsFunc (i : Instr) (s : State) (f : Nat) (g : Func) : Prop := ∃ t, exec i s = .next t ∧ FuncOnly f s t ∧ t.hub.func f = g
def SetsQueue (i : Instr) (s : State) (q : Nat) (g : Queue) : Prop := ∃ t, exec i s = .next t ∧ QueueOnly q s t ∧ t.hub.queue q = g
/-- An event changes the package outside the cores to `h`. -/
def SetsHub (i : Instr) (s : State) (h : Hub) : Prop := exec i s = .next { s with hub := h }

/-- A queue's fields as a descriptor's bytes give them (R368). -/
structure Described (q : Queue) (bs : List Byte) : Prop where
  bases : q.cbase = fieldAt bs 0 8 ∧ q.cplbase = fieldAt bs 8 8
  size : q.log2sz = fieldAt bs 16 1 ∧ q.loc = fieldAt bs 17 1
  owner : q.func = fieldAt bs 18 1 ∧ q.tenant.toNat = fieldAt bs 20 3
  order : q.prio = fieldAt bs 19 1 % 4 ∧ q.weight = fieldAt bs 19 1 / 16
  vec : q.vec = fieldAt bs 23 1

/-- The command that a queue runs stands at its start, with an op. -/
def AtStart (s : State) (q op : Nat) (c : QCmd) : Prop :=
  (s.hub.queue q).cur = some c ∧ c.run = .start ∧ fieldAt c.bytes 0 1 = op

/-- A command of a queue goes on as `r` says, and no other queue changes. -/
def GoesOn (s t : State) (q : Nat) (c : QCmd) (r : QRun) : Prop :=
  t.hub.queue q = { s.hub.queue q with cur := some { c with run := r } } ∧ ∀ p, p ≠ q → t.hub.queue p = s.hub.queue p

/-- What a queue's operation on an object comes to (R117, R372, R425): at this package's sync unit, where nothing else waits at the object,
it is performed, or waits, as it does while the object's stack has not started; else a request to its home, or FAULT. -/
def SyncGoes (i : Instr) (s : State) (q : Nat) (c : QCmd) (k : SyncKind) : Prop :=
  let va := fieldAt c.bytes 16 8
  let x := s.hub.queue q
  let page := s.hub.walk x.func va
  let pa := page.pa + va % pageBytes page.psize
  let w : Word := BitVec.ofNat 64 (leNat (s.hub.readHbm pa 8))
  (va < 2 ^ 57 → s.hub.homeOf x.func va = .own → page.present = true → page.sync = true → (∀ x ∈ s.hub.syncWait, x.pa ≠ pa) →
    (syncRule k w = none ∨ s.hub.hbmOpen pa 8 = false →
      ∃ t, exec i s = .next t ∧ HubOnly s t ∧ GoesOn s t q c (.sync k pa) ∧ SameMemory s t ∧
        ∃ l via, t.hub.syncWait = l ++ [⟨.queue q, k, pa, s.hub.pkg, 512, x.func, via, s.hub.nextId⟩] ∧ ∀ y ∈ l, y ∈ s.hub.syncWait) ∧
    (∀ r, syncRule k w = some r → s.hub.hbmOpen pa 8 = true → s.hub.mustHold pa 8 = false →
      ∃ t, exec i s = .next t ∧ HubOnly s t ∧ GoesOn s t q c (.over 0 0 0xFFFF) ∧ t.hub.syncWait = s.hub.syncWait ∧
        match r with
        | some v => Writes s.hub.hbm t.hub.hbm pa (wordBytes v.toNat 8)
        | none => t.hub.hbm = s.hub.hbm)) ∧
  (∀ n, va < 2 ^ 57 → s.hub.homeOf x.func va = .pkg n →
    ∃ t, exec i s = .next t ∧ HubOnly s t ∧ GoesOn s t q c (.remote s.requestTag) ∧ Requested s t none 4 0 n va x.tenant (.sync k) ∧
      SameMemory s t) ∧
  (2 ^ 57 ≤ va ∨ s.hub.homeOf x.func va = .broken ∨ (∃ g, s.hub.homeOf x.func va = .group g) ∨
      (s.hub.homeOf x.func va = .own ∧ (page.present = false ∨ page.sync = false)) →
    ∃ t, exec i s = .next t ∧ HubOnly s t ∧ GoesOn s t q c (.over 7 0 0xFFFF) ∧
      (page.error = false ∨ s.hub.homeOf x.func va ≠ .own → SameMemory s t))

end Sys2Proof.Machine

open Sys2Proof Sys2Proof.Machine

/-- R366 to R368, R370, R393, R394, R410, R412, R414, R418, R421, R434 to R436, R439 and R441: what the host's register writes do; a write
by a function that may not make it is discarded. What a read of HPCAP, KICK, QHEAD and of what a function may not see returns. -/
def Obligations.HostRegistersHoldTheirValues : Prop :=
  (∀ (s : State) f v, SetsFunc (.hpdrvWrite f v) s f { s.hub.func f with
    hpdrv := BitVec.ofNat 64 (v.toNat % 2 ^ 32), agree := if v.toNat % 2 ^ 16 ≤ 1 ∧ 1 ≤ v.toNat / 2 ^ 16 % 2 ^ 16 then 0x10001 else 0 }) ∧
  (∀ (s : State) f q, q < 1024 → (s.hub.func f).agree.getLsbD 16 = true → (s.hub.queue q).func = f → q ∉ s.hub.kicks →
    SetsHub (.kick f (BitVec.ofNat 64 q)) s { s.hub with kicks := s.hub.kicks ++ [q] }) ∧
  (∀ (s : State) f v, ((s.hub.func f).agree.getLsbD 16 = false ∨ 1024 ≤ v.toNat ∨ (s.hub.queue (v.toNat % 1024)).func ≠ f) →
    exec (.kick f v) s = .next s) ∧
  (∀ (s : State) q, q ∈ s.hub.kicks → s.hub.takeover = none →
    ∃ t, exec (.kickService q) s = .next t ∧ HubOnly s t ∧ t.hub.kicks = s.hub.kicks.filter (fun x => x != q) ∧
      t.hub.journal = s.hub.journal ++ [.kick q (s.hub.queue q).tail] ∧
      t.hub.queue q = { s.hub.queue q with seen := (s.hub.queue q).tail } ∧ ∀ p, p ≠ q → t.hub.queue p = s.hub.queue p) ∧
  (∀ (s : State) q bs, q < 1024 → descriptorOk bs = true → (s.hub.queue q).state = 0 → s.hub.embstat = false →
    ∃ t, exec (.queueDescriptorWrite 0 q bs) s = .next t ∧ QueueOnly q s t ∧ Described (t.hub.queue q) bs ∧
      (t.hub.queue q).state = fieldAt bs 24 1 ∧ (t.hub.queue q).tail = (s.hub.queue q).tail ∧ (t.hub.queue q).head = (s.hub.queue q).head) ∧
  (∀ (s : State) q bs, q < 1024 → descriptorOk bs = true → Described (s.hub.queue q) bs → (s.hub.queue q).state = 2 →
    fieldAt bs 24 1 = 1 → s.hub.embstat = false →
    SetsQueue (.queueDescriptorWrite 0 q bs) s q { s.hub.queue q with
      state := 1, flush := ((s.hub.queue q).tail + 2 ^ 32 - ((s.hub.queue q).head + if (s.hub.queue q).cur.isSome then 1 else 0)) % 2 ^ 32 }) ∧
  (∀ (s : State) f q bs, f ≠ 0 → exec (.queueDescriptorWrite f q bs) s = .next s) ∧
  (∀ (s : State) f v, SetsFunc (.registerWrite f 0x20 v) s f { s.hub.func f with s1root := v &&& 0x000FFFFFFFFFF001 }) ∧
  (∀ (s : State) f v, v.toNat % 32 = 0 → SetsFunc (.registerWrite f 0x38 v) s f { s.hub.func f with frbase := v }) ∧
  (∀ (s : State) f v, v.toNat % 16 ≤ 12 → SetsFunc (.registerWrite f 0x40 v) s f { s.hub.func f with frctl := v &&& 0x3F }) ∧
  (∀ (s : State) f v, SetsFunc (.registerWrite f 0x50 v) s f { s.hub.func f with frhead := v.toNat % 2 ^ 32 }) ∧
  (∀ (s : State) f v i, i < 4 → SetsFunc (.registerWrite f (0x100 + 8 * i) v) s f { s.hub.func f with
    nonce := (s.hub.func f).nonce.take (8 * i) ++ wordBytes v.toNat 8 ++ (s.hub.func f).nonce.drop (8 * i + 8) }) ∧
  (∀ (s : State) f v q, q < 1024 → (s.hub.func f).agree.getLsbD 16 = true → (s.hub.queue q).func = f →
    SetsQueue (.registerWrite f (0x1000 + 4 * q) v) s q { s.hub.queue q with tail := v.toNat % 2 ^ 32 }) ∧
  (∀ (s : State) c v, c < 64 → SetsFunc (.registerWrite 0 (0x15000 + 64 * c) v) s c
    { s.hub.func c with s2root := v &&& 0x000FFFFFFFFF0001 }) ∧
  (∀ (s : State) c v, c < 64 → v.toNat / 2 ^ 21 % 2 ^ 8 ≠ 0 →
    (∀ g, g < 64 → g ≠ c → BitVec.ofNat 20 v.toNat ≠ 0 → (s.hub.func g).tenant ≠ BitVec.ofNat 20 v.toNat) →
    SetsFunc (.registerWrite 0 (0x15000 + 64 * c + 0x18) v) s c { s.hub.func c with
      tenant := BitVec.ofNat 20 v.toNat, migen := v.getLsbD 20, migthr := v.toNat / 2 ^ 21 % 2 ^ 8 }) ∧
  (∀ (s : State) c v, c < 64 → v.toNat % 16 = 0 → SetsFunc (.registerWrite 0 (0x15000 + 64 * c + 0x28) v) s c
    { s.hub.func c with dirbase := v }) ∧
  (∀ (s : State) c v, c < 64 → v.toNat % 2 ^ 15 ≤ 16384 → SetsFunc (.registerWrite 0 (0x15000 + 64 * c + 0x30) v) s c
    { s.hub.func c with dircnt := v.toNat % 2 ^ 15 }) ∧
  (∀ (s : State) v, 1 ≤ v.toNat % 2 ^ 14 → v.toNat % 2 ^ 14 ≤ 10000 →
    SetsHub (.registerWrite 0 0x16050 v) s { s.hub with fto := v.toNat % 2 ^ 14 }) ∧
  (∀ (s : State) v, SetsHub (.registerWrite 0 0x16010 v) s { s.hub with ptsel := v.toNat % 2 ^ 12 }) ∧
  (∀ (s : State) v, SetsHub (.registerWrite 0 0x16030 v) s { s.hub with mcsel := v.toNat % 2 ^ 12 }) ∧
  (∀ (s : State) f off v, f ≠ 0 → 0x4000 ≤ off → exec (.registerWrite f off v) s = .next s) ∧
  (∀ (s : State) v, SetsHub (.errselWrite v) s { s.hub with errsel := BitVec.ofNat 64 (v.toNat % 512) }) ∧
  (∀ (s : State) v c, v.getLsbD 63 = true → s.coreAt (v.toNat % 512) = some c →
    ∃ t, exec (.errorRecordClear v) s = .next t ∧ t.coreAt (v.toNat % 512) = some { c with errrec := 0 } ∧
      ∀ m, m ≠ v.toNat % 512 → t.coreAt m = s.coreAt m) ∧
  (∀ (s : State) v, v.getLsbD 63 = false → exec (.errorRecordClear v) s = .next s) ∧
  (∀ (s : State) v, SetsHub (.stload v) s (match s.hub.readSlotTable s.tick v.toNat with
    | some t => { s.hub with slotNext := some t, ststat := 0 }
    | none => { s.hub with ststat := 2 }) ∧
    ∀ t, s.hub.readSlotTable s.tick v.toNat = some t → t.start % 1024 = 0 ∧ s.tick ≤ t.start ∧ t.slots.length = 256) ∧
  (∀ (s : State) x, s.hub.slotNext = some x → x.start ≤ s.tick →
    SetsHub .slotTableStart s { s.hub with slotNow := some x, slotNext := none, ststat := 1 }) ∧
  (∀ (s : State) v, ∃ t, exec (.mcdataWrite v) s = .next t ∧ HubOnly s t ∧ { t.hub with groups := s.hub.groups } = s.hub ∧
    ∀ g, AMap.get 0 t.hub.groups g = if g = s.hub.mcsel then v &&& 0x3FFFFFF else AMap.get 0 s.hub.groups g) ∧
  (∀ (s : State) v, ∃ t, exec (.ckptctlWrite v) s = .next t ∧ HubOnly s t ∧ t.hub.ckpt.ctl = BitVec.ofNat 64 (v.toNat % 4096) ∧
    (v.getLsbD 0 = false → t.hub.ckpt.all = [] ∧ t.hub.ckpt.dirty = [] ∧ t.hub.ckpt.pages = [] ∧ t.hub.ckpt.staged = []) ∧
    (v.getLsbD 0 = true → s.hub.ckpt.ctl.getLsbD 0 = false → t.hub.ckpt.all = List.range 8 ∧ t.hub.ckpt.dirty = [])) ∧
  (∀ (s : State) v, SetsHub (.soundingWindowArm v) s { s.hub with sounding := { s.hub.sounding with
    start := v, armed := true, opened := false, todo := [], cur := s.hub.sounding.cur.map fun x => (x.1, x.2.1, false) } }) ∧
  (∀ (s : State) v, ∃ t, exec (.mapreq v) s = .next t ∧ HubOnly s t ∧ t.hub.mapDone.getLsbD (v.toNat % 2) = true ∧
    (∀ a, memGet t.hub.hbm a = memGet s.hub.hbm a) ∧ Writes s.hub.host t.hub.host (v.toNat / 16 * 16) (s.hub.map (v.toNat % 2)).bytes) ∧
  (∀ (s : State) f v, v.getLsbD 0 = true → s.hub.well.erased = true → SetsFunc (.qreq f v) s f { s.hub.func f with qstat := 2 }) ∧
  (∀ (s : State) f v, v.getLsbD 0 = true → s.hub.well.erased = false → (s.hub.func f).nonce.length = 32 →
    ∃ t bs, exec (.qreq f v) s = .next t ∧ (t.hub.func f).qstat = 1 ∧ Writes s.hub.host t.hub.host (v.toNat / 16 * 16) bs ∧
      fieldAt bs 0 4 = 0x51484347 ∧ (bs.drop 8).take 16 = wordBytes s.hub.specimen.toNat 16 ∧ (bs.drop 24).take 32 = (s.hub.func f).nonce ∧
      t.core = s.core ∧ t.parked = s.parked) ∧
  (∀ (s : State) f v, v.toNat % 2 ^ 16 = 0 → v.toNat < 2 ^ 52 → (s.hub.func f).pool.length < 4096 →
    SetsFunc (.migpoolWrite f v) s f { s.hub.func f with pool := (s.hub.func f).pool ++ [v.toNat] }) ∧
  (∀ (s : State) f, s.hostRead f 0x00 = 0x10001 ∧ s.hostRead f 0x08 = (s.hub.func f).hpdrv ∧ s.hostRead f 0x10 = (s.hub.func f).agree ∧
    s.hostRead f 0x18 = 0) ∧
  (∀ (s : State) f q, q < 1024 → s.hostRead f (0x2000 + 4 * q) =
    if (s.hub.queue q).func = f then BitVec.ofNat 64 (s.hub.queue q).head else 0) ∧
  (∀ (s : State) f off, (0x3000 ≤ off ∧ off < 0x4000) ∨ (f ≠ 0 ∧ 0x4000 ≤ off) → s.hostRead f off = 0)

/-- R105, R371 to R376, R380, R383, R385 to R387 and R436: what the commands of a queue do as they start, what a completion record says, and
the events of the dispatcher and the queue cores. A LAUNCH waits for what other packages hold of its records and images; that it does is the
model's reading (log entry 50, DEDUCED). -/
def Obligations.QueueCommandsRun : Prop :=
  (∀ (s : State) q c, AtStart s q 0 c → ∃ t, exec (.nopCommand q) s = .next t ∧ QueueOnly q s t ∧ GoesOn s t q c (.over 0 0 0xFFFF)) ∧
  (∀ (s : State) q c rs, AtStart s q 1 c → s.hub.readLaunch q (s.hub.queue q).func (fieldAt c.bytes 16 8) = .ok rs →
    ∃ t g, exec (.launch q) s = .next t ∧ HubOnly s t ∧ GoesOn s t q c (.graph s.hub.nextGraph) ∧ t.hub.graphs = s.hub.graphs ++ [g] ∧
      t.hub.nextGraph = s.hub.nextGraph + 1 ∧ g.id = s.hub.nextGraph ∧ g.queue = q ∧ g.func = (s.hub.queue q).func ∧
      g.tenant = (s.hub.queue q).tenant ∧ g.seqNo = c.n % 2 ^ 32 ∧ g.status = 0 ∧ g.nodes.map (·.rec_) = rs ∧
      ∀ x ∈ g.nodes, x.level = (s.hub.queue q).prio ∧ x.ended = 0 ∧ x.state = (if x.rec_.preds = [] then .ready else .waiting)) ∧
  (∀ (s : State) q c st walk n, AtStart s q 1 c → s.hub.readLaunch q (s.hub.queue q).func (fieldAt c.bytes 16 8) = .error (.fails st walk, n) →
    ∃ t, exec (.launch q) s = .next t ∧ HubOnly s t ∧ GoesOn s t q c (.over st 0 n) ∧ t.hub.graphs = s.hub.graphs ∧
      (walk = none → { t.hub with queues := s.hub.queues, fetches := s.hub.fetches } = s.hub)) ∧
  (∀ (s : State) q c l n, AtStart s q 1 c → s.hub.readLaunch q (s.hub.queue q).func (fieldAt c.bytes 16 8) = .error (.waits l, n) →
    ∃ t, exec (.launch q) s = .next t ∧ HubOnly s t ∧ t.hub.queues = s.hub.queues ∧ t.hub.graphs = s.hub.graphs ∧ SameMemory s t ∧
      t.hub.requests.length = s.hub.requests.length + l.length ∧ t.hub.fetches.length = s.hub.fetches.length + l.length) ∧
  (∀ (s : State) q c, AtStart s q 2 c → SyncGoes (.waitobj q) s q c (.acqG (BitVec.ofNat 64 (fieldAt c.bytes 24 8)))) ∧
  (∀ (s : State) q c, AtStart s q 3 c → fieldAt c.bytes 24 1 = 0 → SyncGoes (.setobjRelI q) s q c .relI) ∧
  (∀ (s : State) q c, AtStart s q 3 c → fieldAt c.bytes 24 1 = 1 → SyncGoes (.setobjRelL q) s q c .relL) ∧
  (∀ (s : State) q c, AtStart s q 4 c → fieldAt c.bytes 20 1 = 0 → s.hub.ckpt.asked = none →
    let n := fieldAt c.bytes 16 4
    ∃ t, exec (.mark q) s = .next t ∧ HubOnly s t ∧ GoesOn s t q c (.mark n) ∧ t.hub.ckpt.asked = some (n, List.range 8) ∧ SameMemory s t ∧
      (⟨q, (s.hub.queue q).tenant, s.tick, n, false⟩ : MarkRec) ∈ t.hub.ckpt.marks ∧ t.hub.ckpt.pages = s.hub.ckpt.pages) ∧
  (∀ (s : State) q c status cause node, (s.hub.queue q).cur = some c → c.run = .over status cause node →
    status < 256 → cause < 256 → node < 65536 → 16 ≤ c.bytes.length →
    let x := s.hub.queue q
    let a := x.cplbase + 16 * (c.n % 2 ^ x.log2sz)
    (x.loc / 2 % 2 = 1 → s.hub.hbmOpen a 16 = true ∧ s.hub.mustHold a 16 = false) →
    ∃ t bs, exec (.completionRecordWrite q) s = .next t ∧ HubOnly s t ∧
      (if x.loc / 2 % 2 = 1 then Writes s.hub.hbm t.hub.hbm a bs ∧ t.hub.host = s.hub.host
        else Writes s.hub.host t.hub.host a bs ∧ t.hub.hbm = s.hub.hbm) ∧ bs.length = 16 ∧ fieldAt bs 0 1 = status ∧
      fieldAt bs 1 1 = cause ∧ fieldAt bs 2 2 = node ∧ fieldAt bs 4 4 = c.n % 2 ^ 32 ∧ bs.drop 8 = (c.bytes.drop 8).take 8 ∧
      t.hub.queue q = { x with head := (x.head + 1) % 2 ^ 32, cur := none, state := if status = 1 then 2 else x.state } ∧
      (∀ p, p ≠ q → t.hub.queue p = s.hub.queue p) ∧ t.hub.journal = s.hub.journal ++ [.record q c.n status] ∧
      (t.hub.func x.func).msix = (s.hub.func x.func).msix ++ if fieldAt c.bytes 1 1 % 2 = 1 then [x.vec] else []) ∧
  (∀ (s : State) g n x y, s.hub.graphOf g = some x → x.nodes[n]? = some y → (y.state = .ready ∨ y.state = .saved) → y.level ≠ 0 →
    y.since + 2500000 ≤ s.tick →
    ∃ t x', exec (.nodePromotion g n) s = .next t ∧ HubOnly s t ∧ t.hub.graphOf g = some x' ∧
      x'.nodes[n]? = some { y with level := y.level - 1, since := y.since + 2500000 } ∧ ∀ i, i ≠ n → x'.nodes[i]? = x.nodes[i]?) ∧
  (∀ s : State, s.hub.takeover ≠ none →
    ∃ t, exec .queueCoreTakeover s = .next t ∧ HubOnly s t ∧ t.hub.takeover = none ∧ t.hub.active = 1 - s.hub.active ∧ t.hub.kicks = [] ∧
      t.hub.events = s.hub.events ∧ t.hub.graphs = s.hub.graphs ∧ ∀ q, (q ∈ s.hub.kicks ∨ ∃ n, Decision.kick q n ∈ s.hub.journal) →
        t.hub.queue q = { s.hub.queue q with seen := (s.hub.queue q).tail } ∧ Decision.kick q (s.hub.queue q).tail ∈ t.hub.journal) ∧
  (∀ (h : Hub) tick e rest, h.events = e :: rest → h.takeover = none → h.releaseEvent tick = Hub.taskEvent { h with events := rest } tick e) ∧
  (∀ s : State, s.hub.graphs = [] → exec .nodeStart s = .next s) ∧
  (∀ (s : State) g x cs c ks ws, s.hub.graphs = [g] → g.nodes = [x] → g.status = 0 → g.queue < 1024 → x.state = .ready → x.level ≤ 3 →
    1 ≤ (s.hub.queue g.queue).weight → s.hub.decideNode x.rec_ = .ok cs → s.placeNode (g.id, 0) false [] g.func x.rec_ cs = some (c, ks) →
    pickWheels x.rec_.wheel x.rec_.w s.wheelUsed = some ws → c.img.portable = false → ks.Nodup →
    ∃ t g' y, exec .nodeStart s = .next t ∧ t.hub.graphs = [g'] ∧ g'.nodes = [y] ∧ y = { x with
        state := .running, gang := s.hub.nextGang, started := s.tick, ended := 0 } ∧ t.hub.nextGang = s.hub.nextGang + 1 ∧ t.agenda = s.agenda ∧
      t.hub.journal = s.hub.journal ++ [.node g.id 0 (ks.map fun k => coreId c.die (k / 8) (k % 8))] ∧
      ∀ i k, ks[i]? = some k → ∃ d k', t.coreAt (coreId c.die (k / 8) (k % 8)) = some d ∧ d.status = .setup 1024 ∧ d.task = some k' ∧
        k'.image = s.hub.launchImage g.func x.rec_.img c.img ∧ k'.rank = i ∧ k'.width = ks.length ∧ k'.graph = g.id ∧ k'.node = 0 ∧ k'.tenant = g.tenant ∧ k'.argVa = x.rec_.argva ∧
        (∀ q, (d.seq q).pc = BitVec.ofNat 64 (c.img.entry.getD (seqCode q) 0)) ∧ (∀ q, (d.seq q).getX 1 = x.rec_.argva) ∧ d.tl = 0 ∧
        ∀ a, memGet d.spad a = 0)

namespace Sys2Proof.Machine

/-! Pages, their invalidation and move, and the fabric (R396 to R420). -/

/-- An invalidation begins (R396): what it covers is in no cache any more, handles lose VALID, and it waits its turn to complete. -/
def InvalBegins (i : Instr) (s : State) (f stage : Nat) (r : Cover) : Prop :=
  ∃ t n, exec i s = .next t ∧ t.hub.invals = s.hub.invals ++ [n] ∧ n.func = f ∧ n.stage = stage ∧
    (t.hub.func f).s1req = (if stage = 1 then ((s.hub.func f).s1req + 1) % 2 ^ 32 else (s.hub.func f).s1req) ∧
    (t.hub.func f).s2req = (if stage = 1 then (s.hub.func f).s2req else ((s.hub.func f).s2req + 1) % 2 ^ 32) ∧
    (∀ c ∈ t.cores, ∀ e ∈ c.tlb, r.entry f e = false) ∧
    (∀ e, e ∈ t.hub.ingress ∨ e ∈ t.hub.dieTlb0 ∨ e ∈ t.hub.dieTlb1 → r.entry f e = false) ∧
    (∀ h, s.core.task.any (fun k => k.fn = f) = true → r.hnd (s.core.getH h) = true → (t.core.getH h).valid = false) ∧
    (∀ h, r.hnd (s.core.getH h) = false → t.core.getH h = s.core.getH h) ∧
    (∀ g ∈ s.core.flight, s.core.task.any (fun k => k.fn = f) = true → g.over = false → g.hnd.any (fun v => r.via v.2) = true →
      (∀ q d va, g.op ≠ .pgreq q d va) → (s.core.id, g.id) ∈ n.waits) ∧
    (∀ w ∈ s.hub.syncWait, w.func = f → w.via.any r.via = true → (∀ c k, w.who ≠ .core c k) → w ∈ n.syncs) ∧ SameMemory s t ∧ SameRegisters s.core t.core

/-- No cache holds a translation of a context that an invalidation would cover. -/
def Uncached (t : State) (f : Nat) (r : Cover) : Prop :=
  (∀ c ∈ t.cores, ∀ e ∈ c.tlb, r.entry f e = false) ∧
    ∀ e, e ∈ t.hub.ingress ∨ e ∈ t.hub.dieTlb0 ∨ e ∈ t.hub.dieTlb1 → r.entry f e = false

/-- The bytes that hold MIG and SETTLED in the leaves of a context's pages homed here, as they lie in HBM (R390, R403). -/
def Hub.migBytes (h : Hub) (f : Nat) : List Nat :=
  if (h.func f).s1root.getLsbD 0 then
    ((h.leavesOf f 4 ((h.func f).s1root.toNat / 2 ^ 12 % 2 ^ 40 * 2 ^ 12) 0).filter fun x => h.homeOf f x.1 = .own).map (·.2 + 6)
  else []

/-- MIG and SETTLED of every page of a context homed here are 0, and no other bit of HBM has changed. -/
def MigCleared (s t : State) (f : Nat) : Prop :=
  ∀ a, memGet t.hub.hbm a = if a ∈ s.hub.migBytes f then BitVec.ofNat 8 ((memGet s.hub.hbm a).toNat % 16) else memGet s.hub.hbm a

/-- A function's fault ring is full (R404). -/
def RingFull (v : Func) : Prop := 2 ^ (v.frctl.toNat % 16 + 4) ≤ (v.frtail + 2 ^ 32 - v.frhead) % 2 ^ 32

/-- A request is answered (R399, R406). -/
def Answered (s t : State) (p : Packet) (status : BitVec 3) (body : Body) : Prop :=
  ∃ a, t.hub.out = s.hub.out ++ [a] ∧ a.kind = 3 ∧ a.src = s.hub.pkg ∧ a.dst = p.src ∧ a.tag = p.tag ∧ a.tenant = p.tenant ∧
    a.status = status ∧ a.body = body ∧ t.core = s.core ∧ t.parked = s.parked

/-- A request of a known tenant to an address, whose page is not on its way to another package. -/
def Reaches' (s : State) (p : Packet) (f va : Nat) : Prop := s.hub.contextOf p.tenant = some f ∧ s.hub.moving f va = none

/-- What the ingress translator answers (R398). -/
def State.ingressOf (s : State) (f va : Nat) (bit : Option Nat) (sync mc : Bool) : Ingress := (s.hub.lookUp f va bit sync mc).1

/-- A request of a core that is out, with the operation it serves. -/
structure Awaited (s : State) (r : Request) (f : Flight) : Prop where
  out : s.hub.requests.find? (fun q => q.tag = r.tag && q.sent.isSome) = some r ∧ r.sent.isSome = true
  owner : r.owner = some (s.core.owner f.id) ∧ s.core.task.isSome = true
  alone : ∀ q ∈ s.hub.requests, q.owner = r.owner → q.tag = r.tag
  flight : s.core.flightOf f.id = some f ∧ f.stage = .away

/-- A package discards a packet at a port: nothing but the port's count changes. -/
def Discarded (s t : State) (port : Nat) : Prop :=
  HubOnly s t ∧ { t.hub with links := s.hub.links } = s.hub ∧
    (port < s.hub.links.length → (t.hub.link port).drops = min ((s.hub.link port).drops + 1) (2 ^ 21 - 1))

end Sys2Proof.Machine

open Sys2Proof Sys2Proof.Machine

/-- R51, R393, R396, R397, R403 and R405: invalidations drop what they cover at once and complete in order once the accesses that use it are
over; an answered fault ends the page requests that wait on it; MIGCLR clears the count and SETTLED of a page, and with ALL, as a MARK with
CLRMIG, of every page homed here. That both drop the cached copies of the leaves they clear (log entry 38), that a page request is nothing an
invalidation waits for (log entry 39) and that a refused one of another package is answered RETRY (log entry 35) are the model's readings
(DEDUCED). -/
def Obligations.PagesAreInvalidated : Prop :=
  (∀ (s : State) f (v : Word) a z, z < 3 → v.toNat = a + 2 * z → a % pageBytes z = 0 → a < 2 ^ 57 →
    InvalBegins (.s1invPage f v) s f 1 (.va a (pageBytes z))) ∧
  (∀ (s : State) f, InvalBegins (.s1invAll f 1) s f 1 .all) ∧
  (∀ (s : State) f (v : Word) a z, z < 3 → v.toNat = a + 2 * z → a % pageBytes z = 0 → a < 2 ^ 52 →
    InvalBegins (.s2invPage f v) s f 2 (.ipa a (pageBytes z))) ∧
  (∀ (s : State) f, InvalBegins (.s2invAll f 1) s f 2 .all) ∧
  (∀ (s : State) (i : Inval), s.hub.invals.find? (fun j => j.id = i.id) = some i →
    ((s.hub.invals.find? fun j => j.func = i.func && j.stage = i.stage) ≠ some i ∨ (∃ w ∈ i.waits, s.stillOut w = true) ∨
      ∃ w ∈ i.syncs, w ∈ s.hub.syncWait ∧ s.awaits w = true) → exec (.invalidationComplete i.id) s = .next s) ∧
  (∀ (s : State) (i : Inval), s.hub.invals.find? (fun j => j.id = i.id) = some i →
    (s.hub.invals.find? fun j => j.func = i.func && j.stage = i.stage) = some i → (∀ w ∈ i.waits, s.stillOut w = false) →
    (∀ w ∈ i.syncs, w ∉ s.hub.syncWait) →
    ∃ t, exec (.invalidationComplete i.id) s = .next t ∧ HubOnly s t ∧ t.hub.invals = s.hub.invals.filter (fun j => j.id != i.id) ∧
      (i.stage = 1 → (t.hub.func i.func).s1done = ((s.hub.func i.func).s1done + 1) % 2 ^ 32) ∧
      (i.stage ≠ 1 → (t.hub.func i.func).s2done = ((s.hub.func i.func).s2done + 1) % 2 ^ 32)) ∧
  (∀ (s : State) f (r : FaultRec) (ok : Bool) (v : Word), s.hub.faults.find? (fun q => q.func = f && q.token = r.token) = some r →
    r.token < 2 ^ 32 → v.toNat = r.token + (if ok then 0 else 2 ^ 32) →
    ∃ t, exec (if ok then .fresolveResolve f v else .fresolveRefuse f v) s = .next t ∧
      t.hub.faults = s.hub.faults.filter (fun q => q.token != r.token) ∧ SameMemory s t ∧
      (∀ d cl k n g, r.holders = [.core d cl k n] → s.core.id = coreId d cl k → s.core.flightOf n = some g → g.stage = .away →
        ∃ g', t.core.flightOf n = some g' ∧ g'.stage = (if ok then .done else .refused) ∧ g'.op = g.op) ∧
      (∀ pkg tag va, r.holders = [.remote pkg tag va] → ∃ a, t.hub.out = s.hub.out ++ [a] ∧ a.kind = 3 ∧ a.dst = pkg ∧ a.tag = tag ∧ a.va = va ∧
        a.status = if ok then 0 else 1)) ∧
  (∀ (s : State) f (v : Word) va pa, v.toNat = va → va % 65536 = 0 → va < 2 ^ 57 → (s.hub.walk f va).present = true →
    s.hub.paOf f (s.hub.walk f va).entry = .ok pa → (s.hub.func f).s1root.getLsbD 0 = true → s.hub.homeOf f va = .own →
    s.hub.mustHold (pa + 6) 1 = false →
    ∃ t, exec (.migclrPage f v) s = .next t ∧ SameRegisters s.core t.core ∧ Uncached t f (.va va 65536) ∧
      Writes s.hub.hbm t.hub.hbm (pa + 6) [BitVec.ofNat 8 ((memGet s.hub.hbm (pa + 6)).toNat % 16)]) ∧
  (∀ (s : State) f (v : Word), v.getLsbD 0 = true → s.hub.heldWrites = [] → s.hub.ckpt.pages = [] →
    (∀ a ∈ s.hub.migBytes f, a < (s.hub.func f).dirbase.toNat ∨ (s.hub.func f).dirbase.toNat + 16 * (s.hub.func f).dircnt ≤ a) →
    ∃ t, exec (.migclrAll f v) s = .next t ∧ SameRegisters s.core t.core ∧ Uncached t f .all ∧ MigCleared s t f) ∧
  (∀ (s : State) q c, AtStart s q 4 c → fieldAt c.bytes 20 1 = 1 → s.hub.ckpt.asked = none →
    s.hub.heldWrites = [] → s.hub.ckpt.pages = [] →
    let f := (s.hub.queue q).func
    (∀ a ∈ s.hub.migBytes f, a < (s.hub.func f).dirbase.toNat ∨ (s.hub.func f).dirbase.toNat + 16 * (s.hub.func f).dircnt ≤ a) →
    ∃ t, exec (.mark q) s = .next t ∧ SameRegisters s.core t.core ∧ Uncached t f .all ∧ MigCleared s t f ∧
      GoesOn s t q c (.mark (fieldAt c.bytes 16 4)))

/-- R112, R276, R398 to R407, R414 and R420: what a home does with the requests of other packages: it performs and answers one that the
ingress translator lets through, and answers MOVED, DENIED or RETRY otherwise; a page that has arrived whole is installed. That a refused
page request is answered RETRY with token 0 (log entry 35, DEDUCED), that a page comes in parts of 4,096 bytes (log entry 89, DESIGN CHOICE)
and that one for which there is no room is DENIED (log entry 90, DESIGN CHOICE) are the model's. -/
def Obligations.HomesAnswerRequests : Prop :=
  (∀ (s : State) (p : Packet) f va n, p.body = .reads [(va, n)] → 0 < n → n ≤ 4096 → va % 65536 + n ≤ 65536 → Reaches' s p f va →
    let found := s.ingressOf f va (some (2 * p.path.toNat)) false false
    (∀ x, found = .ok x → s.hub.readMarks (x.pa + va % pageBytes x.psize) n = [] →
      ∃ t, exec (.read p) s = .next t ∧ Answered s t p 0 (.data (s.hub.readHbm (x.pa + va % pageBytes x.psize) n) []) ∧ SameMemory s t) ∧
    (∀ home, found = .moved home → ∃ t, exec (.read p) s = .next t ∧ Answered s t p 2 (.moved home) ∧ SameMemory s t) ∧
    (found = .denied → ∃ t, exec (.read p) s = .next t ∧ Answered s t p 3 .none ∧ SameMemory s t)) ∧
  (∀ (s : State) (p : Packet) f va bs (mc : Bool), p.body = .writes [⟨va, bs, []⟩] → 0 < bs.length → bs.length ≤ 4096 →
    va % 65536 + bs.length ≤ 65536 → Reaches' s p f va →
    let i : Instr := if mc then .mcwrite p else .write p
    let found := s.ingressOf f va (some (2 * p.path.toNat + 1)) false mc
    (∀ x, found = .ok x → s.hub.mustHold (x.pa + va % pageBytes x.psize) bs.length = false →
      ∃ t, exec i s = .next t ∧ Answered s t p 0 .none ∧ Writes s.hub.hbm t.hub.hbm (x.pa + va % pageBytes x.psize) bs) ∧
    (∀ home, found = .moved home → ∃ t, exec i s = .next t ∧ Answered s t p 2 (.moved home) ∧ SameMemory s t) ∧
    (found = .denied → ∃ t, exec i s = .next t ∧ Answered s t p 3 .none ∧ SameMemory s t)) ∧
  (∀ (s : State) (p : Packet), s.hub.contextOf p.tenant = none →
    ∀ i ∈ ([.read p, .write p, .mcwrite p, .sync p, .ordered p, .pgreqPacket p] : List Instr),
      ∃ t, exec i s = .next t ∧ Answered s t p 3 .none ∧ SameMemory s t) ∧
  (∀ (s : State) (p : Packet) f k x, p.body = .sync k → wordKind k = true → s.hub.contextOf p.tenant = some f →
    s.ingressOf f p.va none true false = .ok x → (x.pa + p.va % pageBytes x.psize) % 8 = 0 →
    (∀ w ∈ s.hub.syncWait, w.pa ≠ x.pa + p.va % pageBytes x.psize) →
    let pa := x.pa + p.va % pageBytes x.psize
    let w := BitVec.ofNat 64 (leNat (s.hub.readHbm pa 8))
    (syncRule k w = none ∨ s.hub.hbmOpen pa 8 = false → ∃ t, exec (.sync p) s = .next t ∧ Answered s t p 4 .none ∧ SameMemory s t ∧
      ∃ via, t.hub.syncWait = s.hub.syncWait.filter s.awaits ++ [⟨.packet p, k, pa, p.src, 0, f, via, s.hub.nextId⟩]) ∧
    (∀ r, syncRule k w = some r → s.hub.hbmOpen pa 8 = true → s.hub.mustHold pa 8 = false →
      ∃ t, exec (.sync p) s = .next t ∧ Answered s t p 0 (.data (wordBytes w.toNat 8) []) ∧ t.hub.syncWait = s.hub.syncWait ∧
        match r with
        | some v => Writes s.hub.hbm t.hub.hbm pa (wordBytes v.toNat 8)
        | none => t.hub.hbm = s.hub.hbm)) ∧
  (∀ (s : State) (p : Packet) f, s.hub.contextOf p.tenant = some f → s.hub.moving f p.va = none → p ∉ s.hub.arrivals →
    SetsHub (.ordered p) s { s.hub with arrivals := s.hub.arrivals ++ [p] }) ∧
  (∀ (s : State) (p : Packet) f rest x, s.hub.contextOf p.tenant = some f → s.hub.arrivals = p :: rest → s.tick % 1024 % 64 = 0 →
    (∀ n, p.body = .ordLoad n → s.ingressOf f p.va (some 0) false false = .ok x →
      s.hub.readMarks (x.pa + p.va % pageBytes x.psize) n = [] →
      ∃ t, exec (.ordered p) s = .next t ∧ Answered s t p 0 (.data (s.hub.readHbm (x.pa + p.va % pageBytes x.psize) n) []) ∧
        SameMemory s t ∧ t.hub.arrivals = rest) ∧
    (∀ bs, p.body = .ordStore bs → s.ingressOf f p.va (some 1) false false = .ok x →
      s.hub.mustHold (x.pa + p.va % pageBytes x.psize) bs.length = false →
      ∃ t, exec (.ordered p) s = .next t ∧ Answered s t p 0 .none ∧ t.hub.arrivals = rest ∧
        Writes s.hub.hbm t.hub.hbm (x.pa + p.va % pageBytes x.psize) bs)) ∧
  (∀ (s : State) (p : Packet) n a v, p.body = .fsig n a v → p.tenant ≠ 0 →
    (RunsTenant s n p.tenant →
      ∃ t q, exec (.fsigPacket p) s = .next t ∧ WritesCore s t n a (wordBytes v.toNat 8) ∧
        t.hub.out = s.hub.out ++ [q] ∧ q.kind = 3 ∧ q.dst = p.src ∧ q.tag = p.tag ∧ q.status = 0 ∧ ∀ m, m ≠ n → t.coreAt m = s.coreAt m) ∧
    (¬ RunsTenant s n p.tenant →
      ∃ t, exec (.fsigPacket p) s = .next t ∧ Answered s t p 3 .none ∧ SameMemory s t)) ∧
  (∀ (s : State) (p : Packet) f, Reaches' s p f p.va →
    (∀ x, s.ingressOf f p.va none (s.hub.walk f p.va).sync false = .ok x →
      ∃ t, exec (.pgreqPacket p) s = .next t ∧ Answered s t p 0 .none ∧ SameMemory s t) ∧
    (∀ e, s.ingressOf f p.va none (s.hub.walk f p.va).sync false = .absent e →
      (s.hub.func f).frctl.getLsbD 5 = false ∨ RingFull (s.hub.func f) →
      ∃ t, exec (.pgreqPacket p) s = .next t ∧ Answered s t p 1 (.retry 0 s.hub.pkg) ∧ SameMemory s t) ∧
    (∀ e r, s.ingressOf f p.va none (s.hub.walk f p.va).sync false = .absent e →
      s.hub.faults = [r] → r.func = f → r.page = p.va / 65536 → (s.hub.func f).frctl.getLsbD 5 = true → ¬ RingFull (s.hub.func f) →
      ∃ t, exec (.pgreqPacket p) s = .next t ∧ t.hub.faults = [{ r with holders := r.holders ++ [.remote p.src p.tag p.va] }] ∧ SameMemory s t ∧
        t.hub.out = s.hub.out)) ∧
  (∀ (s : State) (p : Packet) f perm mig bs marks, p.body = .page perm mig bs marks → s.hub.contextOf p.tenant = some f →
    (s.hub.joinPart p bs marks = none → ∃ t, exec (.migrate p) s = .next t ∧ Answered s t p 3 .none ∧ SameMemory s t) ∧
    (∀ w, s.hub.joinPart p bs marks = some w → w.bytes.length < 65536 →
      ∃ t, exec (.migrate p) s = .next t ∧ Answered s t p 0 .none ∧ w ∈ t.hub.incoming ∧ SameMemory s t) ∧
    (∀ w slot frame pa dir, s.hub.joinPart p bs marks = some w → w.bytes.length = 65536 →
      s.hub.roomForPage f w.va = some (slot, frame, pa, dir) → s.hub.heldWrites = [] → s.hub.ckpt.pages = [] → slot + 8 ≤ pa ∨ pa + 65536 ≤ slot →
      (s.hub.func f).dirbase.toNat + 16 * dir.length ≤ pa ∨ pa + 65536 ≤ (s.hub.func f).dirbase.toNat →
      (s.hub.func f).dirbase.toNat + 16 * dir.length ≤ slot ∨ slot + 8 ≤ (s.hub.func f).dirbase.toNat →
      ∃ t, exec (.migrate p) s = .next t ∧ Answered s t p 0 .none ∧ (t.hub.func f).pool = (s.hub.func f).pool.drop 1 ∧
        (t.hub.func f).dircnt = dir.length ∧ memRead t.hub.hbm pa 65536 = w.bytes ∧
        leNat (memRead t.hub.hbm slot 8) = movedLeaf perm frame mig % 2 ^ 64) ∧
    (∀ w, s.hub.joinPart p bs marks = some w → 65536 ≤ w.bytes.length → s.hub.roomForPage f w.va = none →
      (s.hub.func f).frctl.getLsbD 5 = false ∨ RingFull (s.hub.func f) →
      ∃ t, exec (.migrate p) s = .next t ∧ Answered s t p 3 .none ∧ SameMemory s t)) ∧
  (∀ (s : State) (p : Packet), exec (.mgmt p) s = .next s)

/-- R121, R278, R399, R401, R402, R406 to R409, R416 to R419 and R427: what comes of the requests of this package: an answer ends its
request, a request without an answer times out, and sets FSTAT; a page that moves leaves in parts of 4,096 bytes
(log entry 89, DESIGN CHOICE); packets are delivered, forwarded or discarded; links come up and fail. -/
def Obligations.RequestsAndLinks : Prop :=
  (∀ (s : State) (r : Request) (f : Flight) (p : Packet), Awaited s r f → p.tag = r.tag → p.status = 0 →
    (p.body = .none ∨ ∃ bs marks, p.body = .data bs marks) → (p.body = .none → ∀ k, r.packet.body ≠ .sync k) →
    ∃ t g, exec (.answer p) s = .next t ∧ t.hub.requests = s.hub.requests.filter (fun q => q.tag != r.tag) ∧
      t.core.flightOf f.id = some g ∧ g.stage = .done ∧ g.op = f.op ∧ g.due = s.core.pulse ∧ SameMemory s t ∧
      (∀ bs marks, p.body = .data bs marks → (∀ l, r.packet.body ≠ .reads l) → g.data = bs) ∧ (r.tag, s.tick + 2500 * s.hub.fto) ∈ t.hub.spent) ∧
  (∀ (s : State) (r : Request) (f : Flight) (p : Packet), Awaited s r f → p.tag = r.tag → (p.status = 1 ∨ p.status = 3) →
    (∀ d l n pr v ab, f.op ≠ .load d l n pr (some v) ab) →
    ∃ t g, exec (.answer p) s = .next t ∧ t.hub.requests.all (fun q => q.tag != r.tag) = true ∧ t.core.flightOf f.id = some g ∧
      g.stage = .refused ∧ g.op = f.op ∧ t.core.fstat.getLsbD p.status.toNat = true ∧ SameMemory s t) ∧
  (∀ (s : State) (r : Request) (p : Packet), s.hub.requests.find? (fun q => q.tag = r.tag && q.sent.isSome) = some r → p.tag = r.tag →
    p.status = 4 → r.packet.kind = 4 →
    SetsHub (.answer p) s { s.hub with requests := s.hub.requests.map fun q => if q.tag = r.tag then { q with held := true } else q }) ∧
  (∀ (s : State) (p : Packet), (∀ q ∈ s.hub.requests, q.tag = p.tag → q.sent = none) → exec (.answer p) s = .next s) ∧
  (∀ (s : State) (r : Request) (f : Flight) n, Awaited s r f → s.hub.requests.find? (fun q => q.tag = r.tag) = some r → r.held = false →
    r.sent = some n → n + 1250 * s.hub.fto ≤ s.tick → r.packet.dst < 1024 →
    ∃ t g, exec (.remoteTimeout r.tag) s = .next t ∧ t.hub.requests.all (fun q => q.tag != r.tag) = true ∧
      t.core.flightOf f.id = some g ∧ g = { f with stage := .timedOut, due := s.core.pulse } ∧ t.core.fstat.getLsbD 0 = true ∧
      t.core.fstat.toNat / 256 % 1024 = r.packet.dst ∧ t.core.fstat.toNat / 2 ^ 18 % 16 = min 15 (s.core.fstat.toNat / 2 ^ 18 % 16 + 1) ∧
      SameMemory s t) ∧
  (∀ (s : State) n (r : Request), s.hub.requests.find? (fun q => q.tag = n) = some r →
    (r.held = true ∨ r.sent = none ∨ ∃ k, r.sent = some k ∧ s.tick < k + 1250 * s.hub.fto) → exec (.remoteTimeout n) s = .next s) ∧
  (∀ (s : State) (m : Migration) pa, s.hub.migrations.find? (fun x => x.id = m.id) = some m → m.tags = none → m.due ≤ s.tick →
    s.moveWaits m = false → s.hub.pageLeaf m.func m.va = some pa →
    let e := s.hub.entryAt pa
    ∃ t tags, exec (.pageMigration m.id) s = .next t ∧ HubOnly s t ∧ SameMemory s t ∧ tags.length = 16 ∧
      t.hub.migrations = s.hub.migrations.map (fun x => if x.id = m.id then { x with tags := some tags } else x) ∧
      ∀ i k, tags[i]? = some k → ∃ r ∈ t.hub.requests, r.tag = k ∧ r.owner = none ∧ r.sent = none ∧ r.packet ∈ t.hub.out ∧
        r.packet.tag = k ∧ r.packet.kind = 10 ∧ r.packet.dst = m.dest ∧ r.packet.va = m.va + 4096 * i ∧ r.packet.len = 4096 ∧
        r.packet.tenant = (s.hub.func m.func).tenant ∧
        r.packet.body = .page (leafPerm e) (e / 2 ^ 52 % 8) (s.hub.readHbm (m.pa + 4096 * i) 4096) (s.hub.readMarks (m.pa + 4096 * i) 4096)) ∧
  (∀ (s : State) (m : Migration), s.hub.migrations.find? (fun x => x.id = m.id) = some m → m.tags = none → m.due ≤ s.tick →
    s.moveWaits m = false → s.hub.pageLeaf m.func m.va = none →
    exec (.pageMigration m.id) s = .next { s with
      hub := { s.hub with migrations := s.hub.migrations.filter fun x => x.id != m.id }, agenda := s.agenda ++ m.held.filterMap Packet.event }) ∧
  (∀ (s : State) input (p : Packet), s.hub.well.halted = false → input < 24 → (s.hub.link input).state = 2 → p.ver = 1 → 1 ≤ p.kind.toNat →
    p.kind.toNat ≤ 11 → p.kind ≠ 9 → p.reserved = false → (p.kind = 3 → ∀ c ∈ s.hub.combos, c.src = p.dst → c.tag ≠ p.tag) →
    (p.nhop < p.hptr → p.dst = s.hub.pkg → s.hub.badAnswer p = false →
      exec (.packetForward input p) s = .next { s with agenda := s.agenda ++ (Packet.event p).toList }) ∧
    (p.nhop < p.hptr → p.dst ≠ s.hub.pkg → ∃ t, exec (.packetForward input p) s = .next t ∧ Discarded s t input) ∧
    (∀ port, p.hptr ≤ p.nhop → p.ports.getD p.hptr 31 = port → port < 24 → (s.hub.link port).state = 2 →
      SetsHub (.packetForward input p) s { s.hub with wire := s.hub.wire ++ [(port, { p with hptr := p.hptr + 1 })] })) ∧
  (∀ (s : State) input (p : Packet), s.hub.well.halted = false → input < 24 → (s.hub.link input).state = 2 →
    (p.ver ≠ 1 ∨ p.kind = 0 ∨ 11 < p.kind.toNat ∨ p.reserved = true) → ∃ t, exec (.packetForward input p) s = .next t ∧ Discarded s t input) ∧
  (∀ (s : State) port vmin vmax feat lanes, s.hub.well.halted = false → s.hub.power.unitLevel.getD (50 + port / 4) none ≠ none →
    port < s.hub.links.length →
    ∃ t, exec (.linkTraining port vmin vmax feat lanes) s = .next t ∧ HubOnly s t ∧ { t.hub with links := s.hub.links } = s.hub ∧
      (∀ q, q ≠ port → t.hub.link q = s.hub.link q) ∧
      t.hub.link port = (if vmin ≤ 1 ∧ 1 ≤ vmax ∧ 1 ≤ lanes then
          { s.hub.link port with state := 2, version := 1, feat := feat % 4, lanes := min lanes 4 }
        else { s.hub.link port with state := 0, version := 0, feat := 0, lanes := 0 })) ∧
  (∀ (s : State) port, port < s.hub.links.length → (s.hub.link port).state = 2 →
    ∃ t, exec (.linkFailure port) s = .next t ∧ HubOnly s t ∧ t.hub.link port =
        { s.hub.link port with state := 3, lanes := 0, crcerr := ((s.hub.link port).crcerr + 16) % 2 ^ 32 } ∧
      (∀ q, q ≠ port → t.hub.link q = s.hub.link q) ∧
      ∀ d, ∀ x ∈ t.hub.routes d, (routePorts x).head? ≠ some port)

namespace Sys2Proof.Machine

/-! The chain schedule engine (R343 to R361). -/

/-- The engine examines its head entry in this cycle, and it is `e` (R348). -/
structure AtHead (s : State) (e : ChainEntry) : Prop where
  head : s.hub.chain.entries[s.hub.chain.head]? = some e
  runs : s.hub.chain.held = true ∧ s.hub.chain.started = true ∧ s.hub.chain.stopped = false ∧ s.hub.chain.done = false
  idle : s.hub.chain.running = none ∧ s.hub.chain.last < s.tick

/-- The conditions of R348 for an entry that is no SYNC. -/
structure MayIssue (c : Chain) (e : ChainEntry) : Prop where
  act : e.nact = true → some e.mb ∈ c.act
  grad : e.ngrad = true → some e.mb ∈ c.grad
  stash : e.stash = 1 → none ∈ c.stash
  down : e.sdown = true → true ∈ c.dview
  up : e.sup = true → true ∈ c.uview

/-- The engine's cycle is charged to one counter (R352). -/
def Charged (c d : Chain) (w tick : Nat) : Prop :=
  d.wait = w ∧ d.last = tick ∧ d.bubUp = c.bubUp + (if w = 1 ∨ w = 5 then 1 else 0) ∧ d.bubDown = c.bubDown + (if w = 2 then 1 else 0) ∧
    d.bubStash = c.bubStash + (if w = 3 then 1 else 0) ∧ d.bubSlot = c.bubSlot + if w = 4 then 1 else 0

/-- The engine stops with a status, and its queue's command completes (R358). -/
def Stops (s t : State) (status head : Nat) : Prop :=
  t.hub.chain.stopped = true ∧ t.hub.chain.held = false ∧ t.hub.chain.status = status ∧ t.hub.chain.head = head ∧
    ∀ q c, s.hub.chain.owner = some q → (s.hub.queue q).cur = some c → ∃ cause, (t.hub.queue q).cur = some { c with run := .over status cause 0xFFFF }

end Sys2Proof.Machine

open Sys2Proof Sys2Proof.Machine

/-- R343 to R347, R355 and R358: what CHAIN and its RESUME do with a table, and what a hello does; the engine is held from the command's start.
A table that is found safe never stashes more than its slots hold. That a hello is kept per package and direction, the last one of each (log
entry 36), and that a command waits for a table that another package holds (log entry 50) are the model's readings (DEDUCED). -/
def Obligations.ChainsStart : Prop :=
  (∀ (s : State) q c, AtStart s q 5 c → fieldAt c.bytes 24 1 = 0 → s.hub.chain.held = true → s.hub.chain.owner ≠ some q →
    ∃ t, exec (.chain q) s = .next t ∧ QueueOnly q s t ∧ GoesOn s t q c (.over 6 0 0xFFFF)) ∧
  (∀ (s : State) q c e walk, AtStart s q 5 c → fieldAt c.bytes 24 1 = 0 → (s.hub.chain.held = true → s.hub.chain.owner = some q) →
    s.hub.readTable q (s.hub.queue q).func (fieldAt c.bytes 16 8) = .error (.fails e walk) →
    ∃ t, exec (.chain q) s = .next t ∧ HubOnly s t ∧ GoesOn s t q c (.over e 0 0xFFFF) ∧ t.hub.chain.held = false ∧ t.hub.chain.owner = none ∧
      t.hub.chain.hellos = s.hub.chain.hellos ∧
      (walk = none → { t.hub with queues := s.hub.queues, fetches := s.hub.fetches, chain := s.hub.chain } = s.hub)) ∧
  (∀ (s : State) q c l, AtStart s q 5 c → fieldAt c.bytes 24 1 = 0 → (s.hub.chain.held = true → s.hub.chain.owner = some q) →
    s.hub.readTable q (s.hub.queue q).func (fieldAt c.bytes 16 8) = .error (.waits l) →
    ∃ t, exec (.chain q) s = .next t ∧ HubOnly s t ∧ t.hub.queues = s.hub.queues ∧ t.hub.chain.held = true ∧ t.hub.chain.owner = some q ∧
      t.hub.chain.hellos = s.hub.chain.hellos ∧ SameMemory s t ∧
      t.hub.requests.length = s.hub.requests.length + l.length ∧ t.hub.fetches.length = s.hub.fetches.length + l.length) ∧
  (∀ (s : State) q c hd recs, AtStart s q 5 c → fieldAt c.bytes 24 1 = 0 → (s.hub.chain.held = true → s.hub.chain.owner = some q) →
    s.hub.readTable q (s.hub.queue q).func (fieldAt c.bytes 16 8) = .ok (hd, recs) →
    (∀ i, firstOffender hd recs = some i → ∃ t, exec (.chain q) s = .next t ∧ HubOnly s t ∧ GoesOn s t q c (.over 8 0 0xFFFF) ∧
      t.hub.chain.stopped = true ∧ t.hub.chain.held = false ∧ t.hub.chain.head = i ∧ t.hub.chain.status = 8) ∧
    (firstOffender hd recs = none → (readChainHeader hd).up = 0xFFFF → (readChainHeader hd).down = 0xFFFF →
      (∀ x ∈ s.hub.chain.hellos, x.pkg < 1024) →
      ∃ t, exec (.chain q) s = .next t ∧ HubOnly s t ∧ GoesOn s t q c .chain ∧ t.hub.chain.owner = some q ∧ t.hub.chain.held = true ∧
        t.hub.chain.started = true ∧ t.hub.chain.stopped = false ∧ t.hub.chain.head = 0 ∧ t.hub.chain.running = none ∧
        t.hub.chain.tenant = (s.hub.queue q).tenant ∧ t.hub.chain.func = (s.hub.queue q).func ∧
        t.hub.chain.entries = recs.map readChainEntry ∧ t.hub.chain.stash = List.replicate (readChainHeader hd).s none ∧ SameMemory s t)) ∧
  (∀ (s : State) q c, AtStart s q 5 c → fieldAt c.bytes 24 1 = 1 →
    (s.hub.chain.held = true ∨ s.hub.chain.stopped = false ∨ s.hub.chain.owner ≠ some q →
      ∃ t, exec (.chainResume q) s = .next t ∧ QueueOnly q s t ∧ GoesOn s t q c (.over 6 0 0xFFFF)) ∧
    (s.hub.chain.held = false → s.hub.chain.stopped = true → s.hub.chain.owner = some q → s.hub.chain.started = true →
      ∃ t, exec (.chainResume q) s = .next t ∧ HubOnly s t ∧ GoesOn s t q c .chain ∧
        t.hub.chain = { s.hub.chain with held := true, stopped := false, status := 0, last := s.tick })) ∧
  (∀ (s : State) (p : Packet) act slots base size, p.body = .hello act slots base size →
    (s.hub.chain.started = true → s.hub.chain.done = false → s.hub.chain.stopped = false → exec (.hello p) s = .next s) ∧
    (s.hub.chain.held = false → (s.hub.chain.started = false ∨ s.hub.chain.done = true ∨ s.hub.chain.stopped = true) →
      SetsHub (.hello p) s { s.hub with chain := { s.hub.chain with
        hellos := (s.hub.chain.hellos.filter fun x => !(x.pkg = p.src && x.act = act)) ++ [⟨p.src, act, p.tenant, slots, base, size⟩] } })) ∧
  (∀ hd recs n, firstOffender hd recs = none → n ≤ recs.length →
    entryCount (recs.map readChainEntry) n (fun m => m.stash == 1) ≤
      (readChainHeader hd).s + entryCount (recs.map readChainEntry) n fun m => m.stash == 2)

/-- R348 to R352, R349, R358, R362 and R346: an entry whose buffers are there issues as a graph, another is charged; a SYNC entry does its REL.I
and its ACQ.G; a graph whose tasks' writes are all made completes, and frees its slots or stops the chain; a slot message opens a slot, the last
part of a payload fills one. That a SYNC entry whose object is on no SYNC page stops the chain with CHAIN_BROKEN (log entry 37) and that an entry
that has issued waits for a launch record of another package (log entry 50) are the model's readings (DEDUCED). -/
def Obligations.ChainEntriesRun : Prop :=
  (∀ (s : State) e rs, AtHead s e → e.kind ≠ 3 → MayIssue s.hub.chain e →
    s.hub.entryRecord e = .ok rs →
    ∃ t g x, exec .chainEntryIssue s = .next t ∧ HubOnly s t ∧ SameMemory s t ∧ t.hub.graphs = s.hub.graphs ++ [g] ∧ g.id = s.hub.nextGraph ∧
      g.chain = some x ∧ g.nodes.map (·.rec_) = rs ∧ g.queue = s.hub.chain.owner.getD 0 ∧ t.hub.nextGraph = s.hub.nextGraph + 1 ∧
      t.hub.chain.running = some s.hub.nextGraph ∧ t.hub.chain.entry = s.hub.chain.head ∧ t.hub.chain.head = s.hub.chain.head + 1 ∧
      t.hub.chain.ctx = x ∧ t.hub.chain.wait = 0 ∧
      (e.stash = 1 → ∃ i, x.stash = some i ∧ s.hub.chain.stash[i]? = some none ∧ t.hub.chain.stash = s.hub.chain.stash.set i (some e.mb)) ∧
      (e.stash ≠ 1 → t.hub.chain.stash = s.hub.chain.stash) ∧
      (e.nact = true → ∃ i, x.act = some i ∧ s.hub.chain.act[i]? = some (some e.mb)) ∧
      (e.ngrad = true → ∃ i, x.grad = some i ∧ s.hub.chain.grad[i]? = some (some e.mb)) ∧
      (e.sdown = true → ∃ i, x.down = some i ∧ s.hub.chain.dview[i]? = some true ∧ t.hub.chain.dview = s.hub.chain.dview.set i false) ∧
      (e.sup = true → ∃ i, x.up = some i ∧ s.hub.chain.uview[i]? = some true ∧ t.hub.chain.uview = s.hub.chain.uview.set i false)) ∧
  (∀ (s : State) e, AtHead s e → e.kind ≠ 3 →
    (∀ w, (e.nact = true ∧ some e.mb ∉ s.hub.chain.act ∧ w = 1) ∨
        ((e.nact = true → some e.mb ∈ s.hub.chain.act) ∧ e.ngrad = true ∧ some e.mb ∉ s.hub.chain.grad ∧ w = 2) ∨
        (e.nact = false ∧ e.ngrad = false ∧ e.stash = 1 ∧ none ∉ s.hub.chain.stash ∧ w = 3) ∨
        (e.nact = false ∧ e.ngrad = false ∧ e.stash ≠ 1 ∧ ((e.sdown = true ∧ true ∉ s.hub.chain.dview) ∨ (e.sup = true ∧ true ∉ s.hub.chain.uview)) ∧
          w = 4) →
      ∃ t, exec .chainEntryIssue s = .next t ∧ HubOnly s t ∧ Charged s.hub.chain t.hub.chain w s.tick ∧ t.hub.chain.head = s.hub.chain.head ∧
        t.hub.graphs = s.hub.graphs) ∧
    (MayIssue s.hub.chain e → ∀ st walk n, s.hub.entryRecord e = .error (.fails st walk, n) →
      ∃ t, exec .chainEntryIssue s = .next t ∧ HubOnly s t ∧ Stops s t st s.hub.chain.head ∧ t.hub.chain.running = none ∧
        t.hub.graphs = s.hub.graphs ∧ t.hub.chain.stash = s.hub.chain.stash ∧ t.hub.chain.dview = s.hub.chain.dview ∧
        t.hub.chain.uview = s.hub.chain.uview) ∧
    (MayIssue s.hub.chain e → ∀ l n, s.hub.entryRecord e = .error (.waits l, n) →
      ∃ t, exec .chainEntryIssue s = .next t ∧ HubOnly s t ∧ t.hub.chain.running = some s.hub.nextGraph ∧
        t.hub.chain.entry = s.hub.chain.head ∧ t.hub.chain.head = s.hub.chain.head + 1 ∧ t.hub.graphs = s.hub.graphs ∧
        t.hub.fetches.length = s.hub.fetches.length + l.length)) ∧
  (∀ (s : State) e g, s.hub.chain.running = some g → s.hub.graphOf g = none → s.hub.chain.entries[s.hub.chain.entry]? = some e →
    (∀ rs, s.hub.entryRecord e = .ok rs →
      ∃ t x, exec .chainEntryIssue s = .next t ∧ HubOnly s t ∧ t.hub.chain = s.hub.chain ∧ t.hub.graphs = s.hub.graphs ++ [x] ∧ x.id = g ∧
        x.chain = some s.hub.chain.ctx ∧ x.nodes.map (·.rec_) = rs) ∧
    (∀ st walk n, s.hub.entryRecord e = .error (.fails st walk, n) →
      ∃ t, exec .chainEntryIssue s = .next t ∧ HubOnly s t ∧ Stops s t st s.hub.chain.entry ∧ t.hub.chain.running = none)) ∧
  (∀ (s : State) e, AtHead s e → e.kind = 3 → s.hub.chain.sync = none → e.addr < 2 ^ 57 → e.addr % 8 = 0 →
    s.hub.homeOf s.hub.chain.func e.addr = .own →
    let page := s.hub.walk s.hub.chain.func e.addr
    let pa := page.pa + e.addr % pageBytes page.psize
    (page.present = true → page.sync = true → (∀ x ∈ s.hub.syncWait, x.pa ≠ pa) → s.hub.hbmOpen pa 8 = true → s.hub.mustHold pa 8 = false →
      ∃ t, exec .chainSyncEntryIssue s = .next t ∧ HubOnly s t ∧ Charged s.hub.chain t.hub.chain 5 s.tick ∧
        t.hub.chain.head = s.hub.chain.head ∧ t.hub.chain.sync = some (.over 0 0 0xFFFF) ∧ t.hub.chain.acq = false ∧
        Writes s.hub.hbm t.hub.hbm pa (wordBytes (BitVec.ofNat 64 (leNat (s.hub.readHbm pa 8)) + 1#64).toNat 8)) ∧
    (page.present = false ∨ page.sync = false →
      ∃ t, exec .chainSyncEntryIssue s = .next t ∧ HubOnly s t ∧ Stops s t 9 s.hub.chain.head)) ∧
  (∀ (s : State) e, AtHead s e → e.kind = 3 →
    (∀ c n, s.hub.chain.sync = some (.over 0 c n) → s.hub.chain.acq = true → s.hub.chain.head + 1 < s.hub.chain.entries.length →
      ∃ t, exec .chainSyncComplete s = .next t ∧ HubOnly s t ∧ t.hub.chain.head = s.hub.chain.head + 1 ∧ t.hub.chain.sync = none ∧
        t.hub.chain.acq = false ∧ t.hub.chain.bubUp = s.hub.chain.bubUp + 1 ∧ SameMemory s t) ∧
    (∀ c n q m, s.hub.chain.sync = some (.over 0 c n) → s.hub.chain.acq = true → s.hub.chain.entries.length ≤ s.hub.chain.head + 1 →
      s.hub.chain.owner = some q → (s.hub.queue q).cur = some m →
      ∃ t, exec .chainSyncComplete s = .next t ∧ HubOnly s t ∧ t.hub.chain.done = true ∧ t.hub.chain.held = false ∧
        (t.hub.queue q).cur = some { m with run := .over 0 0 0xFFFF }) ∧
    (∀ st c n, s.hub.chain.sync = some (.over st c n) → st ≠ 0 →
      ∃ t, exec .chainSyncComplete s = .next t ∧ HubOnly s t ∧ Stops s t 9 s.hub.chain.head) ∧
    (∀ c n, s.hub.chain.sync = some (.over 0 c n) → s.hub.chain.acq = false → e.addr < 2 ^ 57 → e.addr % 8 = 0 →
      s.hub.homeOf s.hub.chain.func e.addr = .own →
      let page := s.hub.walk s.hub.chain.func e.addr
      let pa := page.pa + e.addr % pageBytes page.psize
      page.present = true → page.sync = true → (∀ x ∈ s.hub.syncWait, x.pa ≠ pa) →
      ∃ t, exec .chainSyncComplete s = .next t ∧ HubOnly s t ∧ SameMemory s t ∧ Charged s.hub.chain t.hub.chain 5 s.tick ∧
        t.hub.chain.head = s.hub.chain.head ∧ t.hub.chain.acq = true ∧
        (s.hub.hbmOpen pa 8 = true → e.target.toNat ≤ leNat (s.hub.readHbm pa 8) →
          t.hub.chain.sync = some (.over 0 0 0xFFFF) ∧ t.hub.syncWait = s.hub.syncWait) ∧
        (s.hub.hbmOpen pa 8 = false ∨ leNat (s.hub.readHbm pa 8) < e.target.toNat → t.hub.chain.sync = some (.sync (.acqG e.target) pa) ∧
          ∃ via, ⟨.chain, .acqG e.target, pa, s.hub.pkg, 512, s.hub.chain.func, via, s.hub.nextId⟩ ∈ t.hub.syncWait)) ∧
    (∀ v pa via no, s.hub.chain.sync = some (.sync (.acqG v) pa) →
      s.hub.syncWait = [⟨.chain, .acqG v, pa, s.hub.pkg, 512, s.hub.chain.func, via, no⟩] →
      ∃ t, exec .chainSyncComplete s = .next t ∧ HubOnly s t ∧ SameMemory s t ∧ Charged s.hub.chain t.hub.chain 5 s.tick ∧
        t.hub.chain.head = s.hub.chain.head ∧
        (s.hub.hbmOpen pa 8 = true → v.toNat ≤ leNat (s.hub.readHbm pa 8) → t.hub.chain.sync = some (.over 0 0 0xFFFF) ∧ t.hub.syncWait = []) ∧
        (s.hub.hbmOpen pa 8 = false ∨ leNat (s.hub.readHbm pa 8) < v.toNat → t.hub.chain.sync = s.hub.chain.sync ∧ t.hub.syncWait = s.hub.syncWait))) ∧
  (∀ (s : State) g x e status cause n, s.hub.chain.running = some g → s.hub.graphOf g = some x → x.over = some (status, cause, n) →
    s.hub.chain.entries[s.hub.chain.entry]? = some e → (∀ c ∈ s.cores, c.task.any (fun k => k.graph = g) = false) →
    (status = 0 → s.hub.chain.ctx.act = none → s.hub.chain.ctx.grad = none → (e.sdown = true → s.hub.chain.sentDown = true) →
      (e.sup = true → s.hub.chain.sentUp = true) → s.hub.chain.head < s.hub.chain.entries.length →
      ∃ t, exec .chainGraphComplete s = .next t ∧ HubOnly s t ∧ SameMemory s t ∧ t.hub.chain.running = none ∧ t.hub.chain.head = s.hub.chain.head ∧
        t.hub.chain.stopped = s.hub.chain.stopped ∧ t.hub.graphs = s.hub.graphs.filter (fun y => y.id != g) ∧
        t.hub.chain.stash = (match s.hub.chain.ctx.unstash with
          | some i => s.hub.chain.stash.set i none
          | none => s.hub.chain.stash)) ∧
    (status ≠ 0 → status ≠ 1 →
      ∃ t, exec .chainGraphComplete s = .next t ∧ HubOnly s t ∧ Stops s t status s.hub.chain.entry ∧ t.hub.chain.running = none ∧
        (∀ i, s.hub.chain.ctx.stash = some i → t.hub.chain.stash = s.hub.chain.stash.set i none) ∧
        (∀ i, s.hub.chain.ctx.down = some i → t.hub.chain.dview =
          if s.hub.chain.sentDown then s.hub.chain.dview else s.hub.chain.dview.set i true)) ∧
    (status = 1 →
      ∃ t, exec .chainGraphComplete s = .next t ∧ HubOnly s t ∧ t.hub.chain = { Chain.reset with hellos := s.hub.chain.hellos } ∧
        t.hub.graphs = s.hub.graphs.filter (fun y => y.id != g) ∧
        ∀ q m, s.hub.chain.owner = some q → (s.hub.queue q).cur = some m → (t.hub.queue q).cur = some { m with run := .over 1 cause 0xFFFF })) ∧
  (∀ (s : State) g c, s.hub.chain.running = some g → c ∈ s.cores → c.task.any (fun k => k.graph = g) = true →
    exec .chainGraphComplete s = .next s) ∧
  (∀ (s : State) (p : Packet) grad slot, p.body = .slotFree grad slot → p.tenant = s.hub.chain.tenant →
    p.src = (if grad then s.hub.chain.header.up else s.hub.chain.header.down) →
    SetsHub (.slotFree p) s { s.hub with chain := (if grad then { s.hub.chain with uview := s.hub.chain.uview.set slot true }
      else { s.hub.chain with dview := s.hub.chain.dview.set slot true }) }) ∧
  (∀ (s : State) (p : Packet) up slot mb ws last, p.body = .payload up slot mb ws last →
    (p.tenant = 0 ∨ p.tenant ≠ s.hub.chain.tenant ∨ p.src ≠ (if up then s.hub.chain.header.down else s.hub.chain.header.up) →
      ∃ t, exec (.chainPayloadLanded p) s = .next t ∧ Answered s t p 3 .none ∧ SameMemory s t) ∧
    (∀ bs off x, ws = [⟨off, bs, []⟩] → p.tenant ≠ 0 → p.tenant = s.hub.chain.tenant →
      p.src = (if up then s.hub.chain.header.down else s.hub.chain.header.up) →
      slot < (if up then s.hub.chain.grad else s.hub.chain.act).length →
      let va := (if up then s.hub.chain.header.gradBase slot else s.hub.chain.header.actBase slot).toNat + off
      0 < bs.length → bs.length ≤ 4096 → va % 65536 + bs.length ≤ 65536 → s.hub.moving s.hub.chain.func va = none →
      (∀ m ∈ s.hub.migrations, m.held.any (samePayload p) = false) →
      s.ingressOf s.hub.chain.func va (some 5) false false = .ok x → s.hub.mustHold (x.pa + va % pageBytes x.psize) bs.length = false →
      ∃ t, exec (.chainPayloadLanded p) s = .next t ∧ Answered s t p 0 .none ∧
        Writes s.hub.hbm t.hub.hbm (x.pa + va % pageBytes x.psize) bs ∧
        (last = false → t.hub.chain.grad = s.hub.chain.grad ∧ t.hub.chain.act = s.hub.chain.act) ∧
        (last = true → up = true → t.hub.chain.grad = s.hub.chain.grad.set slot (some mb) ∧ t.hub.chain.act = s.hub.chain.act) ∧
        (last = true → up = false → t.hub.chain.act = s.hub.chain.act.set slot (some mb) ∧ t.hub.chain.grad = s.hub.chain.grad)))

namespace Sys2Proof.Machine

/-! Operating the package (R311, R312, R329, R387, R425 to R440). -/

/-- A level comes into force (R426, R429): what started holds a higher one at once, a lower one where it changes nothing for the unit;
vector 255 tells every function that has agreed a version. -/
def LevelTakes (s t : State) (new : Nat) : Prop :=
  t.hub.power.inforce = new ∧ t.hub.power.table = s.hub.power.table ∧
  (∀ u, u < 56 → s.hub.power.unitLevel.getD u none = none → s.hub.power.inforce ≠ new → t.hub.power.unitLevel.getD u none = none) ∧
  (∀ u l, u < 56 → s.hub.power.unitLevel.getD u none = some l →
    (s.hub.power.inforce < new → t.hub.power.unitLevel.getD u none = some new) ∧
    (new < s.hub.power.inforce →
      t.hub.power.unitLevel.getD u none = some (if s.unitShare u l = s.unitShare u new then new else l))) ∧
  ∀ f, f < 64 → (t.hub.func f).msix = (s.hub.func f).msix ++
    if new ≠ s.hub.power.inforce ∧ (s.hub.func f).agree.getLsbD 16 = true then [255] else []

/-- The cores that hold a task are asked to halt, after what is already to happen. -/
def AsksToHalt (s t : State) (which : Core → Bool) : Prop :=
  t.agenda = s.agenda ++ (s.cores.filter fun c => which c && c.task.isSome).map fun c => .preemptRequest c.id

/-- What the wellhead asks of a configuration record (R439). -/
def ConfigRecordOk (h : Hub) (bs : List Byte) : Prop :=
  fieldAt bs 0 4 = 0x43484347 ∧ fieldAt bs 4 2 = 1 ∧ (∀ i, i < 2 → fieldAt bs (6 + i) 1 = 0) ∧ BitVec.ofNat 128 (fieldAt bs 8 16) = h.specimen ∧
  h.well.seqNo < fieldAt bs 24 4 ∧ (∀ i, i < 5 → fieldAt bs (28 + i) 1 ≤ 2) ∧ (∀ i, i < 7 → fieldAt bs (33 + i) 1 = 0) ∧
  damperOk bs = true ∧ verifies 1 (sha384 (bs.take 168)) (bs.drop 168) = true

/-- What the queue core asks of a new map record (R312, R318, R440). -/
def MapRecordOk (h : Hub) (die : Nat) (r : MapRecord) : Prop :=
  verifies 0 r.digest r.signature = true ∧ r.specimen = h.specimen ∧ r.die = die ∧ (h.map die).version < r.map.version ∧
  h.well.erased = false

end Sys2Proof.Machine

open Sys2Proof Sys2Proof.Machine

/-- R425, R426, R429 to R433 and R442: the level in force, the kindling order, the ember save, reset, and what an ember image gives back. That
HBM reads as zero after a reset (log entry 4, DESIGN CHOICE), what survives RESET of the host's memory, the maps, the damper table and the
wellhead's record (log entry 42, DEDUCED), and that the command of a queue that comes back from an image at no boundary completes with KILLED,
CAUSE 0 and NODE 0xFFFF (log entry 43, DEDUCED) are the model's. -/
def Obligations.PowerAndEmberSave : Prop :=
  (∀ (s : State) v, ∃ t, exec (.pstepWrite v) s = .next t ∧ HubOnly s t ∧ t.hub.power.level = v.toNat % 16 ∧ SameMemory s t ∧
    LevelTakes s t (if s.hub.power.ember then 15 else max (v.toNat % 16) s.hub.power.pins)) ∧
  (∀ (s : State) v, ∃ t, exec (.pstepPins v) s = .next t ∧ HubOnly s t ∧ t.hub.power.pinRead = v.toNat ∧ t.hub.power.level = s.hub.power.level ∧
    let p := if s.hub.power.pinRead = v.toNat then v.toNat else s.hub.power.pins
    t.hub.power.pins = p ∧ LevelTakes s t (if s.hub.power.ember then 15 else max s.hub.power.level p)) ∧
  (∀ (s : State) u at_, s.hub.power.next = some (u, at_) → at_ ≤ s.tick →
    ∃ t, exec .kindlingStep s = .next t ∧ HubOnly s t ∧ { t.hub with power := s.hub.power } = s.hub ∧
      t.hub.power.inforce = s.hub.power.inforce ∧
      t.hub.power.unitLevel = s.hub.power.unitLevel.set u (some s.hub.power.inforce) ∧
      (∀ w z, t.hub.power.next = some (w, z) → u < w ∧ w < 56 ∧ z = at_ + 60 ∧ t.hub.power.unitLevel.getD w none ≠ some s.hub.power.inforce ∧
        ∀ x, u < x → x < w → t.hub.power.unitLevel.getD x none = some s.hub.power.inforce) ∧
      (t.hub.power.next = none → ∀ x, u < x → x < 56 → t.hub.power.unitLevel.getD x none = some s.hub.power.inforce)) ∧
  (∀ s : State, (s.hub.power.next = none ∨ ∃ u z, s.hub.power.next = some (u, z) ∧ s.tick < z) → exec .kindlingStep s = .next s) ∧
  (∀ s : State, s.hub.power.ember = false →
    ∃ t, exec (.pfail true) s = .next t ∧ t.hub.power.pfail = true ∧ t.hub.power.ember = true ∧ LevelTakes s t 15 ∧
      AsksToHalt s t (fun _ => true) ∧ t.hub.emberEnd = some (s.tick + 1250000) ∧ t.core = s.core ∧ t.parked = s.parked ∧ SameMemory s t) ∧
  (∀ (s : State) b, b = false ∨ s.hub.power.ember = true →
    SetsHub (.pfail b) s { s.hub with power := { s.hub.power with pfail := b } }) ∧
  (∀ (s : State) z f d, s.hub.emberEnd = some z → z ≤ s.tick → s.core.task.isSome = true →
    (s.core.status = .halted ∨ s.core.status = .halting ∨ s.core.status = .killed) → s.core.flight = [f] →
    ((∃ l n sx, f.op = .ordLoad d l n sx) ∨ ∃ k l va, f.op = .sync k l va (some d)) → f.stage ≠ .done → f.stage ≠ .timedOut → d ≠ 0 →
    ∃ t, exec .emberDrainTimeout s = .next t ∧ t.core.flight = [] ∧ t.core.lost = true ∧ (t.core.seq f.q).getXP d = true ∧
      t.hub = { s.hub with emberEnd := none } ∧ t.core.mrf = s.core.mrf ∧ t.core.spad = s.core.spad ∧ t.core.acc = s.core.acc) ∧
  (∀ (s : State) z, s.hub.emberEnd = some z → z ≤ s.tick → (∀ c ∈ s.cores, c.drained = true) →
    SetsHub .emberDrainTimeout s { s.hub with emberEnd := none }) ∧
  (∀ (s : State) e, s.hub.image = some e → e.whole = false → s.hub.power.ember = true → (∀ c ∈ s.cores, c.task = none) →
    ∃ t g, exec .emberImageWritten s = .next t ∧ { t with hub := s.hub, free := s.free } = s ∧ t.hub.image = some g ∧ g.whole = true ∧
      t.hub.emberEnd = none ∧ g.head.magic = 0x45484347 ∧ g.head.ever = 1 ∧ g.head.specimen = s.hub.specimen ∧
      g.head.nrec = g.records.length ∧ g.head.complete = 0xA5 ∧ g.head.digest = emberDigest g.hub g.records ∧
      g.hub.queues = s.hub.queues ∧ g.hub.kicks = s.hub.kicks ∧ g.hub.graphs = s.hub.graphs ∧ g.hub.chain = s.hub.chain ∧
      g.hub.journal = s.hub.journal ∧ g.hub.round = s.hub.round ∧ g.hub.marks = s.hub.ckpt.marks ∧
      g.records.length = s.hub.saved.length - e.before ∧
      (∀ i r, s.hub.saved[e.before + i]? = some r → ∃ r', g.records[i]? = some r' ∧ SameRegisters r.core r'.core ∧
        (emberNode s.hub.graphs r = true → r' = r) ∧
        (emberNode s.hub.graphs r = false → r'.core.acc = [] ∧ r'.core.spad = [] ∧ r'.core.mrf = r.core.mrf)) ∧ SameMemory s t) ∧
  (∀ s : State, ∃ t, exec .reset s = .next t ∧ t.agenda = [] ∧ t.parked.length = s.parked.length ∧
    (∀ c ∈ t.cores, c.task = none ∧ c.status = .free ∧ c.tl = 0 ∧ c.tvec1 = 0x80000000 ∧ c.tvec2 = 0x80000000 ∧ c.tkwdog = 0x1000000 ∧
      c.flight = [] ∧ ∀ q r, (c.seq q).getX r = 0) ∧
    t.hub.funcs = [] ∧ t.hub.queues = [] ∧ t.hub.graphs = [] ∧ t.hub.hbm = [] ∧ t.hub.power.level = 0 ∧ t.hub.power.inforce = 0 ∧
    t.hub.power.ember = false ∧ t.hub.power.next = some (0, s.tick) ∧ (∀ u, t.hub.power.unitLevel.getD u none = none) ∧
    t.hub.power.table = s.hub.power.table ∧ t.hub.well.seqNo = s.hub.well.seqNo ∧ t.hub.well.cfg = s.hub.well.cfg ∧ t.hub.map0 = s.hub.map0 ∧
    t.hub.map1 = s.hub.map1 ∧ t.hub.host = s.hub.host ∧ t.hub.embstat = t.hub.image.isSome ∧
    ∀ e, t.hub.image = some e ↔ s.hub.image = some e ∧ e.whole = true ∧ e.head.digest = emberDigest e.hub e.records ∧
      e.head.specimen = s.hub.specimen ∧ e.head.ever = 1) ∧
  (∀ (s : State) e q c g, s.hub.image = some e → s.hub.embstat = true → (AMap.get Queue.reset e.hub.queues q).cur = some c →
    c.run = .graph g →
    ∃ t, exec .embstatResume s = .next t ∧ HubOnly s t ∧ SameMemory s t ∧ t.hub.image = none ∧ t.hub.embstat = false ∧
      t.hub.queue q = { AMap.get Queue.reset e.hub.queues q with cur := some { c with run := .over 1 0 0xFFFF } } ∧
      ∀ x ∈ t.hub.graphs, x.queue ≠ q) ∧
  (∀ (s : State) e q m, s.hub.image = some e → s.hub.embstat = true →
    let x := AMap.get Queue.reset e.hub.queues q
    x.cur = none → x.op = some 4 → m ∈ e.hub.marks → m.queue = q → m.whole = true → e.records = [] →
    ∃ t, exec .embstatResume s = .next t ∧ t.hub.queue q = x ∧ t.hub.kicks = e.hub.kicks ∧ t.hub.round = e.hub.round) ∧
  (∀ (s : State) e q c m, s.hub.image = some e → s.hub.embstat = true → (AMap.get Queue.reset e.hub.queues q).cur = some c → c.run = .chain →
    e.hub.chain.owner = some q → e.hub.chain.done = true → m ∈ e.hub.marks → m.tenant = (AMap.get Queue.reset e.hub.queues q).tenant →
    e.hub.chain.graphEnd ≤ m.start → m.whole = true →
    ∃ t, exec .embstatResume s = .next t ∧ t.hub.queue q = AMap.get Queue.reset e.hub.queues q ∧
      t.hub.chain = { e.hub.chain with last := s.tick }) ∧
  (∀ s : State, s.hub.embstat = false → exec .embstatResume s = .next s ∧ exec .embstatDiscard s = .next s) ∧
  (∀ s : State, s.hub.embstat = true → SetsHub .embstatDiscard s { s.hub with image := none, embstat := false })

/-- R295, R311, R312, R329, R387 and R434 to R440: checkpoints, soundings, new maps, the wellhead, uncorrectable errors and updates. -/
def Obligations.OperatingTheFleet : Prop :=
  (∀ (s : State) d n dies, s.hub.ckpt.asked = some (n, dies) → d ∈ dies → s.hub.stackOpen d = true → (dies.length = 8 → s.hub.ckpt.pages = []) →
    ∃ t, exec (.markRecord d) s = .next t ∧ HubOnly s t ∧ SameMemory s t ∧ d ∉ t.hub.ckpt.all ∧
      (d ∉ s.hub.ckpt.all → ∀ p, p ∈ t.hub.ckpt.pages ↔ p ∈ s.hub.ckpt.pages ∨ (p ∈ s.hub.ckpt.dirty ∧ baseDieOf p = d)) ∧
      (d ∈ s.hub.ckpt.all → ∀ p, p ∈ t.hub.ckpt.pages ↔ p ∈ s.hub.ckpt.pages ∨ (p < 12582912 ∧ baseDieOf p = d)) ∧
      (∀ p, p ∈ t.hub.ckpt.dirty ↔ p ∈ s.hub.ckpt.dirty ∧ baseDieOf p ≠ d) ∧
      (dies.length = 8 → t.hub.ckpt.markNo = n ∧ t.hub.ckpt.ue = false) ∧
      t.hub.ckpt.asked = (if dies.filter (fun x => x != d) = [] then none else some (n, dies.filter fun x => x != d))) ∧
  (∀ (s : State) d n dies, s.hub.ckpt.asked = some (n, dies) → (dies.length = 8 ∧ s.hub.ckpt.pages ≠ []) ∨ s.hub.stackOpen d = false →
    exec (.markRecord d) s = .next s) ∧
  (∀ (s : State) p rest, s.hub.ckpt.pages = p :: rest → s.hub.ckpt.ctl.getLsbD 0 = true → s.hub.ckpt.ctl.getLsbD 1 = false →
    ∃ t bs, exec .checkpointPageCopy s = .next t ∧ HubOnly s t ∧ (∀ a, memGet t.hub.hbm a = memGet s.hub.hbm a) ∧ t.hub.ckpt.pages = rest ∧
      Writes s.hub.host t.hub.host (s.hub.ckpt.dst.toNat + s.hub.ckpt.place) bs ∧ t.hub.ckpt.place = s.hub.ckpt.place + bs.length ∧
      (∀ x ∈ t.hub.ckpt.staged, x.1 ≠ p) ∧ bs.take 8 = wordBytes p 8 ∧ (bs.drop 8).take 4 = wordBytes s.hub.ckpt.markNo 4 ∧
      ((∀ x ∈ s.hub.ckpt.staged, x.1 ≠ p) → (∀ a ∈ s.hub.hbmUe, ¬(p * 65536 ≤ a ∧ a < p * 65536 + 65536)) →
        bs.drop 12 = [0, 0, 0, 0] ++ memRead s.hub.hbm (p * 65536) 65536 ∧ t.hub.ckpt.ue = s.hub.ckpt.ue) ∧
      ((∀ x ∈ s.hub.ckpt.staged, x.1 ≠ p) → (∃ a ∈ s.hub.hbmUe, p * 65536 ≤ a ∧ a < p * 65536 + 65536) →
        bs.drop 12 = [1, 0, 0, 0] ∧ t.hub.ckpt.ue = true) ∧
      (∀ old, s.hub.ckpt.staged.find? (fun x => x.1 = p) = some (p, old, []) → bs.drop 12 = [0, 0, 0, 0] ++ old)) ∧
  (∀ (s : State) w, s.hub.heldWrites.find? s.hub.admits = some w →
    ∃ t, exec .stagedWriteAdmit s = .next t ∧ HubOnly s t ∧ Writes s.hub.hbm t.hub.hbm w.pa w.bytes ∧
      t.hub.heldWrites = s.hub.heldWrites.filter (fun x => x.id != w.id) ∧
      ∀ p, p ∈ s.hub.ckpt.pages → p * 65536 < w.pa + w.bytes.length → w.pa < p * 65536 + 65536 → (∀ x ∈ s.hub.ckpt.staged, x.1 ≠ p) →
        ∃ m, (p, memRead s.hub.hbm (p * 65536) 65536, m) ∈ t.hub.ckpt.staged) ∧
  (∀ s : State, s.hub.heldWrites.find? s.hub.admits = none → exec .stagedWriteAdmit s = .next s) ∧
  (∀ s : State, s.hub.sounding.armed = true → s.hub.sounding.opened = false → s.hub.sounding.start.toNat ≤ s.tick →
    ∃ t, exec .soundingWindowOpen s = .next t ∧ t.core = s.core ∧ t.parked = s.parked ∧ SameMemory s t ∧
      (∀ c, c ∈ t.hub.sounding.todo ↔ c < 42 ∧ s.hub.sounding.mask.testBit c = true) ∧
      t.hub.sounding.opened = decide (t.hub.sounding.todo ≠ []) ∧ t.hub.sounding.soundings = 0 ∧
      AsksToHalt s t (fun k => s.hub.sounding.mask.testBit (21 * k.die + k.cluster) && decide (21 * k.die + k.cluster < 42))) ∧
  (∀ s : State, s.hub.sounding.armed = false ∨ s.tick < s.hub.sounding.start.toNat → exec .soundingWindowOpen s = .next s) ∧
  (∀ (s : State) c rest, s.hub.sounding.opened = true → s.hub.sounding.todo = c :: rest → s.hub.sounding.cur = none →
    s.hub.well.halted = false → s.hub.power.ember = false →
    (∀ k ∈ s.cores, 21 * k.die + k.cluster = c → k.task = none ∧ k.status = .free) →
    SetsHub .soundingStart s { s.hub with sounding := { s.hub.sounding with cur := some (c, s.tick + 15000000, true) } }) ∧
  (∀ s : State, s.hub.sounding.cur ≠ none → exec .soundingStart s = .next s) ∧
  (∀ (s : State) c z, s.hub.sounding.cur = some (c, z, true) → z ≤ s.tick →
    ∃ t, exec .soundingEnd s = .next t ∧ t.core = s.core ∧ t.parked = s.parked ∧ SameMemory s t ∧ t.hub.sounding.cur = none ∧
      t.hub.sounding.soundings = s.hub.sounding.soundings + 1 ∧ t.hub.sounding.todo = s.hub.sounding.todo.drop 1 ∧
      (t.hub.newMap = s.hub.newMap ∨ (s.hub.well.erased = false ∧ ∃ bs, t.hub.newMap = s.hub.newMap ++ [(c / 21, bs)])) ∧
      t.hub.map0 = s.hub.map0 ∧ t.hub.map1 = s.hub.map1) ∧
  (∀ (s : State) c z w, s.hub.sounding.cur = some (c, z, w) → s.tick < z → exec .soundingEnd s = .next s) ∧
  (∀ (s : State) die bs rest, s.hub.newMap = (die, bs) :: rest → die < 2 →
    ∃ t, exec .mapInstall s = .next t ∧ t.hub.newMap = rest ∧ SameMemory s t ∧ SameProgram s.core t.core ∧
      t.hub.map (1 - die) = s.hub.map (1 - die) ∧
      ((∃ r, parseMap bs = some r ∧ MapRecordOk s.hub die r ∧ t.hub.map die = r.map ∧ t.hub.oldMaps = s.hub.oldMaps ++ [(die, s.hub.map die)] ∧
          (t.hub.func 0).msix = (s.hub.func 0).msix ++ [254]) ∨
        ((∀ r, parseMap bs = some r → ¬MapRecordOk s.hub die r) ∧ t = { s with hub := { s.hub with newMap := rest } }))) ∧
  (∀ (s : State) c, c < 5 →
    (s.hub.well.policy.getD c 0 = 0 → SetsHub (.sensorEvent c) s { s.hub with well := { s.hub.well with alarms := setBit s.hub.well.alarms c true } }) ∧
    (s.hub.well.policy.getD c 0 = 1 → SetsHub (.sensorEvent c) s { s.hub with well := { s.hub.well with halted := true } }) ∧
    (s.hub.well.policy.getD c 0 = 2 → ∃ t, exec (.sensorEvent c) s = .next t ∧ HubOnly s t ∧ SameMemory s t ∧
      t.hub.well = { s.hub.well with halted := true, erased := true } ∧ t.hub.cache = s.hub.cache)) ∧
  (∀ (s : State) v, ∃ t, exec (.cfgload v) s = .next t ∧ HubOnly s t ∧ SameMemory s t ∧
    let bs := s.hub.readHbm v.toNat 264
    (ConfigRecordOk s.hub bs → t.hub.well.seqNo = fieldAt bs 24 4 ∧ t.hub.well.cfg = sha384 bs ∧
      (∀ i, i < 5 → t.hub.well.policy.getD i 0 = fieldAt bs (28 + i) 1) ∧
      ∀ l i, l < 16 → i < 7 → (t.hub.power.table.getD l []).getD i 0 = fieldAt bs (40 + 8 * l + i) 1) ∧
    (¬ConfigRecordOk s.hub bs → t = s)) ∧
  (∀ (s : State) m a n c, s.coreAt m = some c → (∀ k ∈ s.cores, k.id = m → k = c) →
    ∃ t d, exec (.uncorrectableError (some m) a n) s = .next t ∧ t.hub = s.hub ∧ t.coreAt m = some d ∧ d.spad = c.spad ∧
      (∀ x, x < spadSize → (x ∈ d.spadUe ↔ x ∈ c.spadUe ∨ (a ≤ x ∧ x < a + n))) ∧ ∀ k, k ≠ m → t.coreAt k = s.coreAt k) ∧
  (∀ (s : State) a n, 0 < n → a < 2 ^ 52 →
    ∃ t, exec (.uncorrectableError none a n) s = .next t ∧ HubOnly s t ∧ { t.hub with hbmUe := s.hub.hbmUe } = s.hub ∧
    ∀ x, x ∈ t.hub.hbmUe ↔ x ∈ s.hub.hbmUe ∨ (a ≤ x ∧ x < a + n)) ∧
  (∀ (s : State) a, s.hub.takeover = none → SetsHub (.uncorrectableError none a 0) s { s.hub with takeover := some (s.tick + 25000) }) ∧
  (∀ (s : State) v, SetsHub (.firmwareUpdate v) s { s.hub with firmware := v, cache := [], translations := [] }) ∧
  (∀ s : State, SetsHub .reProvisioning s { s.hub with well := { s.hub.well with erased := false } })

namespace Sys2Proof.Machine

/-! The machine as a whole: decoding, the step, the clock, reset and the invariant. -/

/-- The bytes of parcels, as R124 stores them. -/
def parcelBytes (ws : List Nat) : List Byte := ws.flatMap fun w => wordBytes w 4

/-- A unit reads as an instruction, whatever follows its parcels. -/
def ReadsAsUnit (ws : List Nat) (i : Instr) : Prop := ∀ rest : List Byte, decode (parcelBytes ws ++ rest) = .unit i ws.length true

/-- The sequencer in turn fetches a unit: nothing else is due, the core runs, and no operation, trap or watchdog comes first. -/
structure Fetches (s : State) : Prop where
  turn : s.agenda = [] ∧ s.phase = .issue ∧ s.core.mayIssue s.who = true
  code : ¬(s.who = .ct ∧ inRuntime s.seq.pc.toNat = true)
  wait : s.core.stalls s.who = false

/-- A core may be held so: its scratchpad in canonical form, its trap level one that exists (R287). -/
def Core.legal (c : Core) : Bool := Memory.wf c.spad && decide (c.tl ≤ 2)

/-- The cores that an ember image holds may be held so. -/
def Ember.legal (e : Ember) : Bool := e.records.all fun r => r.core.legal

/-- Every memory is in its canonical form, and every core, saved core and core of an ember image, also of one that is still to be put into
the flash, stands at a trap level that exists. -/
def State.legal (s : State) : Bool :=
  Memory.wf s.hub.hbm && Memory.wf s.hub.host && s.cores.all Core.legal && (s.hub.saved.all fun r => r.core.legal) &&
    s.hub.image.all Ember.legal && s.pokes.all fun x => match x.2 with
      | .flash e => e.all Ember.legal
      | _ => true

end Sys2Proof.Machine

open Sys2Proof Sys2Proof.Machine

/-- R124 to R149: words of the spec's own encodings, parcel by parcel, read as the instructions that they stand for. -/
def Obligations.EncodedWordsDecode : Prop :=
  ReadsAsUnit [0x10000019, 0x60420004] (.addi ⟨false, { Pfx.none with imm := some 3 }⟩ ⟨2, 2, 0⟩) ∧
  ReadsAsUnit [0x01040002, 0x02008612] (.vmul ⟨false, Pfx.none, 2, 0⟩ ⟨1, 2, 0, 1, 0, 2, 0, 0⟩) ∧
  ReadsAsUnit [0x02000001, 0x23060006, 0x03008424]
    (.vadd ⟨false, { Pfx.none with arith := some ⟨1, false, false, false⟩ }, 3, 0⟩ ⟨2, 4, 2, 3, 0, 3, 0, 0⟩) ∧
  ReadsAsUnit [0x86000402, 0x8283C008] (.tmma ⟨false, Pfx.none, 0x82, 0x83⟩ ⟨1, 2, 3, 0, 1⟩) ∧
  ReadsAsUnit [0x87F00110] (.cmpi ⟨false, Pfx.none⟩ ⟨7, 0x1C, 0, 0x22⟩) ∧
  ReadsAsUnit [0x004F8002, 0x3500C410] (.accrd ⟨false, Pfx.none, 0x35, 0⟩ ⟨0x100, 0x27, 3, 0⟩) ∧
  ReadsAsUnit [0x0003E602, 0x83004220] (.cpacc ⟨false, Pfx.none, 0x83, 0⟩ ⟨4, 0, 0x1F, 0, 3, false⟩) ∧
  ReadsAsUnit [0xEC0B2800] (.wrsr ⟨false, Pfx.none⟩ ⟨0x0B, 5⟩)

/-- R124, R128 and R137: where the bytes at the PC of the sequencer in turn are a unit, its delta has passed and none of its bytes is marked,
the step is exec of the instruction that they decode to: exec itself moves the PC behind the unit (R126) and passes the turn on. What stands on
the agenda comes first. A unit with a marked byte raises UE_CONSUMED (R296, R298), and bytes that are no instruction raise the decode error's
cause, with EPC at the unit. The cycle of a unit that is no instruction, and how far it is fetched, are inferred (log entry 74, DEDUCED). -/
def Obligations.StepRunsTheDecodedInstruction : Prop :=
  (∀ s i len, Fetches s → decode (s.codeAt s.who s.seq.pc.toNat) = .unit i len true →
    s.core.deltaDone s.who ((i.info.map (issueDelta i)).getD 0) = true → s.unitMarked len = none → step s = exec i s) ∧
  (∀ s a, Fetches s → s.mayEnter →
    ((∃ i len ok, decode (s.codeAt s.who s.seq.pc.toNat) = .unit i len ok ∧
        s.core.deltaDone s.who ((i.info.map (issueDelta i)).getD 0) = true ∧ s.unitMarked len = some a) ∨
      ∃ e, decode (s.codeAt s.who s.seq.pc.toNat) = .bad e ∧
        s.core.deltaDone s.who (badDelta (toParcels (s.codeAt s.who s.seq.pc.toNat))) = true ∧
        s.unitMarked (badLen (toParcels (s.codeAt s.who s.seq.pc.toNat))) = some a) →
    ∃ t, step s = .next t ∧ t.core.tl = s.core.tl + 1 ∧ t.core.ct.pc = s.core.tvec (s.core.tl + 1) ∧
      t.core.trapSet (s.core.tl + 1) = ⟨0x50, s.seq.pc, BitVec.ofNat 64 a, BitVec.ofNat 64 (seqCode s.who),
        if s.who = .ct then (s.core.trapSet (s.core.tl + 1)).ret else s.core.ct.pc⟩ ∧
      t.core.errrec = errorRecord s.core.errrec 0 3 (seqCode s.who) a ∧ SameMemory s t ∧ SameRegisters s.core t.core) ∧
  (∀ (s : State) i rest, s.agenda = i :: rest → step s = exec i { s with agenda := rest }) ∧
  (∀ s e, Fetches s → decode (s.codeAt s.who s.seq.pc.toNat) = .bad e → s.core.deltaDone s.who (badDelta (toParcels (s.codeAt s.who s.seq.pc.toNat))) = true →
    s.unitMarked (badLen (toParcels (s.codeAt s.who s.seq.pc.toNat))) = none → s.mayEnter →
    ∃ t, step s = .next t ∧ Entered s t s.who (match e with
      | .truncated _ => 0x20
      | .illegalLength => 0x01
      | .badPrefixes => 0x03
      | .orphanPrefix => 0x04
      | .illegalOpcode p => if p then 0x04 else 0x02) s.seq.pc (match e with
      | .truncated n => s.seq.pc + BitVec.ofNat 64 (4 * n)
      | _ => 0)) ∧
  (∀ (s : State), s.agenda = [] → s.phase = .issue → s.core.mayIssue s.who = false → step s = .next s.pass)

/-- R16, R17, R22, R30, R31, R35, R39, R119, R425 and R427: a pulse begins, moves the timed domain on by one schedule cycle unless the domain is
held, and ends with its posts; in a pulse that is swallowed only the ordered operations of the core, which wait for the wheel, may be performed.
That the turn then passes to the next core, with CT first, is the model's turn order (log entry 2, DESIGN CHOICE). -/
def Obligations.PulsesMoveTheTimedDomain : Prop :=
  (∀ s : State, s.agenda = [] → s.phase = .begin → s.delivered = true → s.core.status = .running → s.core.replayLeft = 0 →
    s.core.restored = false → s.core.tl = 0 → s.core.mxWait = false → s.core.resuming = false → s.core.drainForms = false → s.core.ilk = 0 → s.core.lateForms = [] → s.core.topk = [] →
    ∃ t, step s = .next t ∧ t.core.cycle = s.core.cycle + 1 ∧ t.core.pulse = s.core.pulse + 1 ∧ t.phase = .issue ∧ t.who = .ct ∧
      SameMemory s t ∧ SameRegisters s.core t.core ∧ t.hub = s.hub ∧ t.parked = s.parked ∧
      (s.core.mwr.filter (fun w => w.fin = s.core.cycle) = [] → t.core.mrf = s.core.landSide.mrf ∧ t.core.mwr = s.core.mwr) ∧
      (∀ w, s.core.mwr.filter (fun w => w.fin = s.core.cycle) = [w] → w ∉ t.core.mwr ∧
        (∀ e, e < 32 → w.mask.getLsbD e = true →
          (readVec t.core.mrf w.m).cell e = w.v.cell e ∧ (readVec t.core.mrf w.m).pois e = w.v.pois e) ∧
        ∀ k, (∀ e, e < 32 → w.mask.getLsbD e = true → k ≠ mrfKey w.m e) → AMap.get 0 t.core.mrf k = AMap.get 0 s.core.landSide.mrf k) ∧
      (s.core.accWr.filter (fun w => w.cyc = s.core.cycle) = [] → t.core.acc = s.core.acc ∧ t.core.accWr = s.core.accWr) ∧
      (∀ w row n, s.core.accWr.filter (fun w => w.cyc = s.core.cycle) = [w] → w.eff = .zero row n →
        ∀ r c, c < 128 → t.core.getAcc r c = if row ≤ r ∧ r < row + n then 0 else s.core.getAcc r c) ∧
      (∀ w row vs, s.core.accWr.filter (fun w => w.cyc = s.core.cycle) = [w] → w.eff = .cols row vs → (vs.map Prod.fst).Nodup →
        (∀ q ∈ vs, q.1 < 128) → (∀ q ∈ vs, t.core.getAcc row q.1 = q.2) ∧
        ∀ r c, c < 128 → (r ≠ row ∨ ∀ q ∈ vs, q.1 ≠ c) → t.core.getAcc r c = s.core.getAcc r c) ∧
      (∀ d, s.core.drives = [d] → d.cyc = s.core.cycle → d.pos ≤ 14 →
        t.core.driven (s.core.cycle + s.core.map.hop.getD d.pos 1) d.flow (d.pos + 1) = some d.v)) ∧
  (∀ s : State, s.agenda = [] → s.phase = .begin → s.delivered = true → s.core.status = .running → s.core.replayLeft = 0 →
    s.core.restored = false → s.core.resuming = false → s.core.drainForms = false → (s.core.tookTrap = false ∨ s.core.portable = false) →
    (s.core.tl ≠ 0 ∨ s.core.mxWait = true) →
    ∃ t, step s = .next t ∧ t.core.cycle = s.core.cycle ∧ t.core.pulse = s.core.pulse + 1 ∧ t.phase = .issue ∧ t.who = .ct ∧ SameMemory s t ∧
      SameStores s.core.landSide t.core ∧ t.core.drives = s.core.drives ∧ t.core.mwr = s.core.mwr ∧ t.core.accWr = s.core.accWr ∧ t.hub = s.hub) ∧
  (∀ s : State, s.agenda = [] → s.phase = .begin → s.delivered = false →
    step s = .next { s with phase := .rotate, agenda := if s.hub.well.halted then [] else s.core.orderedEvents }) ∧
  (∀ (s : State) p, s.agenda = [] → s.phase = .close → s.core.cmds = [] → s.core.posts = [p] →
    ∃ t, step s = .next t ∧ t.phase = .rotate ∧ t.core.posts = [] ∧ SameMemory s t ∧ SameRegisters s.core t.core ∧ t.hub = s.hub ∧
      ((s.core.getTok p.queue).count + p.n ≤ 63 →
        ∀ n, (t.core.getTok n).count = (s.core.getTok n).count + if n = p.queue then p.n else 0) ∧
      (63 < (s.core.getTok p.queue).count + p.n → (∀ n, (t.core.getTok n).count = (s.core.getTok n).count) ∧
        ⟨p.q, 0x32, some p.pc, 0, false, 0, false⟩ ∈ t.core.pend)) ∧
  (∀ (s : State) c rest, s.agenda = [] → s.phase = .rotate → s.parked = c :: rest →
    (1 < s.turns ∨ ∀ c ∈ s.cores, c.landing = []) →
    ∃ t, step s = .next t ∧ t.core = c ∧ t.parked = rest ++ [s.core] ∧ t.hub = s.hub ∧ t.who = .ct)

/-- What reset leaves: R1 (336 cores), R10, R20, R26, R77, R83, R287, R288, R298, R300 and R419 for a core; R367, R393, R394, R418, R425 to R427,
R434, R436 and R439 for the package. That a core which holds no task stands as at a launch, the nominal maps, the disabled queues and the empty
memories are the model's choices (log entries 3, 4, 6 and 7). -/
def Obligations.ResetLeaves : Prop :=
  State.reset.cores.length = 336 ∧
  (∀ c ∈ State.reset.cores, c.task = none ∧ c.tl = 0 ∧ c.chkcfg = 0 ∧ c.tkwdog = 0x1000000 ∧ c.fstat = 0 ∧ c.errrec = 0 ∧ c.replays = 0 ∧
    c.ecause1 = 0 ∧ c.ecause2 = 0 ∧ c.epc1 = 0 ∧ c.epc2 = 0 ∧ c.eaddr1 = 0 ∧ c.eaddr2 = 0 ∧ c.eseq1 = 0 ∧ c.eseq2 = 0 ∧
    c.tvec1 = 0x80000000 ∧ c.tvec2 = 0x80000000 ∧ (∀ b, c.getBf b = 0) ∧ (∀ h, (c.getH h).valid = false) ∧
    ∀ q, (c.seq q).tmask = 0 ∧ (c.seq q).srseed = 1 ∧ (c.seq q).loops = [] ∧ (∀ r, (c.seq q).getX r = 0 ∧ (c.seq q).getXP r = false) ∧
      (c.seq q).getP 0 = BitVec.allOnes 32 ∧ ∀ r, r ≠ 0 → (c.seq q).getP r = 0) ∧
  (let h := State.reset.hub;
    (∀ f, (h.func f).hpdrv = 0 ∧ (h.func f).agree = 0 ∧ (h.func f).s1root = 0 ∧ (h.func f).s2root = 0 ∧ (h.func f).frbase = 0 ∧
      (h.func f).frctl = 0 ∧ (h.func f).tenant = 0 ∧ (h.func f).migen = false ∧ (h.func f).migthr = 16 ∧ (h.func f).dircnt = 0) ∧
    h.fto = 100 ∧ h.ptsel = 0 ∧ h.mcsel = 0 ∧ h.power.level = 0 ∧ h.power.inforce = 0 ∧ h.power.ember = false ∧
    (∀ u, u < 56 → h.power.unitLevel.getD u none = none) ∧ h.power.table.getD 0 [] = [0x8C, 8, 8, 8, 8, 8, 8] ∧
    h.power.table.getD 6 [] = [0x62, 0, 4, 1, 8, 8, 8] ∧ h.sounding.mask = 0 ∧ h.sounding.armed = false ∧ h.sounding.idle = 168 ∧
    h.ckpt.ctl = 0 ∧ h.ckpt.dst = 0 ∧ h.well.erased = false ∧ h.embstat = false ∧ h.chain.bubUp = 0 ∧ h.chain.bubDown = 0 ∧
    h.chain.bubStash = 0 ∧ h.chain.bubSlot = 0 ∧ h.groups = [] ∧ h.graphs = [] ∧ (∀ q, (h.queue q).state = 0) ∧ h.hbm = [] ∧ h.host = [])

/-- The reset state meets the invariant of `EveryStepKeepsTheMachineLegal`. -/
def Obligations.ResetIsLegal : Prop := State.reset.legal = true

/-- R124 to R149: decoding what the encoder writes of a well-formed instruction gives it back, with every field and prefix, whatever bytes
follow; its length is that of its parcels, and every must-be-zero bit is found zero. -/
def Obligations.DecodeEncodeAgree : Prop :=
  ∀ i : Instr, i.info.isSome = true → i.wf = true →
    ∀ rest : List Byte, decode (encode i ++ rest) = .unit i (encodeParcels i).length true

/-- Every step keeps the machine legal: the canonical form of every memory (HBM, the host's, every scratchpad, also a saved one), so that equal
memories are equal data, and trap levels 0 to 2 (R287) on every core, in every saved record and in the ember image. -/
def Obligations.EveryStepKeepsTheMachineLegal : Prop :=
  ∀ s t : State, s.legal = true → step s = .next t → t.legal = true
end

