-- ==== Sys2Proof/Laws/Layout.lean ====
section
/-!
SUPPORT. Each operand layout reads back what it wrote: `T.dec` of a word that holds `T.enc o` in its operand bits, with
any bits above and the P and length bits below, is `o` with nothing reserved set.
-/

namespace Sys2Proof

theorem fld_eq {w lo n : Nat} {x : BitVec n} (h : w / 2 ^ lo % 2 ^ n = x.toNat) : fld w lo n = x := by
  apply BitVec.eq_of_toNat_eq
  simp [fld, h]

theorem bitAt_eq {w lo : Nat} {b : Bool} (h : w / 2 ^ lo % 2 = b.toNat) : bitAt w lo = b := by
  cases b <;> simp [bitAt, h]

theorem zer_eq {w lo n : Nat} (h : w / 2 ^ lo % 2 ^ n = 0) : zer w lo n = true := by
  simp [zer, h]

theorem RRR.dec_enc (o : RRR) (hi lo : Nat) (hl : lo < 8) :
    RRR.dec (hi * 2 ^ 26 + (o.enc) + lo) = (o, true) := by
  obtain ⟨d_, a_, b_, w_⟩ := o
  have h0 := d_.isLt
  have h1 := a_.isLt
  have h2 := b_.isLt
  have h3 := w_.toNat_lt
  simp only [RRR.dec, RRR.enc, Prod.mk.injEq, RRR.mk.injEq]
  exact ⟨⟨fld_eq (by omega), fld_eq (by omega), fld_eq (by omega), bitAt_eq (by omega)⟩, zer_eq (by omega)⟩

theorem RR.dec_enc (o : RR) (hi lo : Nat) (hl : lo < 8) :
    RR.dec (hi * 2 ^ 26 + (o.enc) + lo) = (o, true) := by
  obtain ⟨d_, a_, w_⟩ := o
  have h0 := d_.isLt
  have h1 := a_.isLt
  have h2 := w_.toNat_lt
  simp only [RR.dec, RR.enc, Prod.mk.injEq, RR.mk.injEq, Bool.and_eq_true]
  exact ⟨⟨fld_eq (by omega), fld_eq (by omega), bitAt_eq (by omega)⟩, ⟨zer_eq (by omega), zer_eq (by omega)⟩⟩

theorem Sel.dec_enc (o : Sel) (hi lo : Nat) (hl : lo < 8) :
    Sel.dec (hi * 2 ^ 26 + (o.enc) + lo) = (o, true) := by
  obtain ⟨d_, a_, b_, w_, t_⟩ := o
  have h0 := d_.isLt
  have h1 := a_.isLt
  have h2 := b_.isLt
  have h3 := w_.toNat_lt
  have h4 := t_.isLt
  simp only [Sel.dec, Sel.enc, Prod.mk.injEq, Sel.mk.injEq]
  exact ⟨⟨fld_eq (by omega), fld_eq (by omega), fld_eq (by omega), bitAt_eq (by omega), fld_eq (by omega)⟩, zer_eq (by omega)⟩

theorem Mov.dec_enc (o : Mov) (hi lo : Nat) (hl : lo < 8) :
    Mov.dec (hi * 2 ^ 26 + (o.enc) + lo) = (o, true) := by
  obtain ⟨d_, a_⟩ := o
  have h0 := d_.isLt
  have h1 := a_.isLt
  simp only [Mov.dec, Mov.enc, Prod.mk.injEq, Mov.mk.injEq]
  exact ⟨⟨fld_eq (by omega), fld_eq (by omega)⟩, zer_eq (by omega)⟩

theorem RI.dec_enc (o : RI) (hi lo : Nat) (hl : lo < 8) :
    RI.dec (hi * 2 ^ 26 + (o.enc) + lo) = (o, true) := by
  obtain ⟨d_, a_, i_⟩ := o
  have h0 := d_.isLt
  have h1 := a_.isLt
  have h2 := i_.isLt
  simp only [RI.dec, RI.enc, Prod.mk.injEq, RI.mk.injEq, and_true]
  exact ⟨fld_eq (by omega), fld_eq (by omega), fld_eq (by omega)⟩

theorem Li.dec_enc (o : Li) (hi lo : Nat) (hl : lo < 8) :
    Li.dec (hi * 2 ^ 26 + (o.enc) + lo) = (o, true) := by
  obtain ⟨d_, i_⟩ := o
  have h0 := d_.isLt
  have h1 := i_.isLt
  simp only [Li.dec, Li.enc, Prod.mk.injEq, Li.mk.injEq]
  exact ⟨⟨fld_eq (by omega), fld_eq (by omega)⟩, zer_eq (by omega)⟩

theorem Cmp.dec_enc (o : Cmp) (hi lo : Nat) (hl : lo < 8) :
    Cmp.dec (hi * 2 ^ 26 + (o.enc) + lo) = (o, true) := by
  obtain ⟨e_, a_, b_, c_, w_⟩ := o
  have h0 := e_.isLt
  have h1 := a_.isLt
  have h2 := b_.isLt
  have h3 := c_.isLt
  have h4 := w_.toNat_lt
  simp only [Cmp.dec, Cmp.enc, Prod.mk.injEq, Cmp.mk.injEq]
  exact ⟨⟨fld_eq (by omega), fld_eq (by omega), fld_eq (by omega), fld_eq (by omega), bitAt_eq (by omega)⟩, zer_eq (by omega)⟩

theorem Cmpi.dec_enc (o : Cmpi) (hi lo : Nat) (hl : lo < 8) :
    Cmpi.dec (hi * 2 ^ 26 + (o.enc) + lo) = (o, true) := by
  obtain ⟨e_, a_, c_, i_⟩ := o
  have h0 := e_.isLt
  have h1 := a_.isLt
  have h2 := c_.isLt
  have h3 := i_.isLt
  simp only [Cmpi.dec, Cmpi.enc, Prod.mk.injEq, Cmpi.mk.injEq, and_true]
  exact ⟨fld_eq (by omega), fld_eq (by omega), fld_eq (by omega), fld_eq (by omega)⟩

theorem PPP.dec_enc (o : PPP) (hi lo : Nat) (hl : lo < 8) :
    PPP.dec (hi * 2 ^ 26 + (o.enc) + lo) = (o, true) := by
  obtain ⟨e_, f_, g_⟩ := o
  have h0 := e_.isLt
  have h1 := f_.isLt
  have h2 := g_.isLt
  simp only [PPP.dec, PPP.enc, Prod.mk.injEq, PPP.mk.injEq]
  exact ⟨⟨fld_eq (by omega), fld_eq (by omega), fld_eq (by omega)⟩, zer_eq (by omega)⟩

theorem PP.dec_enc (o : PP) (hi lo : Nat) (hl : lo < 8) :
    PP.dec (hi * 2 ^ 26 + (o.enc) + lo) = (o, true) := by
  obtain ⟨e_, f_⟩ := o
  have h0 := e_.isLt
  have h1 := f_.isLt
  simp only [PP.dec, PP.enc, Prod.mk.injEq, PP.mk.injEq]
  exact ⟨⟨fld_eq (by omega), fld_eq (by omega)⟩, zer_eq (by omega)⟩

theorem Off23.dec_enc (o : Off23) (hi lo : Nat) (hl : lo < 8) :
    Off23.dec (hi * 2 ^ 26 + (o.enc) + lo) = (o, true) := by
  obtain ⟨o_⟩ := o
  have h0 := o_.isLt
  simp only [Off23.dec, Off23.enc, Prod.mk.injEq, Off23.mk.injEq, and_true]
  exact fld_eq (by omega)

theorem BrP.dec_enc (o : BrP) (hi lo : Nat) (hl : lo < 8) :
    BrP.dec (hi * 2 ^ 26 + (o.enc) + lo) = (o, true) := by
  obtain ⟨f_, o_⟩ := o
  have h0 := f_.isLt
  have h1 := o_.isLt
  simp only [BrP.dec, BrP.enc, Prod.mk.injEq, BrP.mk.injEq, and_true]
  exact ⟨fld_eq (by omega), fld_eq (by omega)⟩

theorem JmpX.dec_enc (o : JmpX) (hi lo : Nat) (hl : lo < 8) :
    JmpX.dec (hi * 2 ^ 26 + (o.enc) + lo) = (o, true) := by
  obtain ⟨a_⟩ := o
  have h0 := a_.isLt
  simp only [JmpX.dec, JmpX.enc, Prod.mk.injEq, JmpX.mk.injEq]
  exact ⟨fld_eq (by omega), zer_eq (by omega)⟩

theorem LoopX.dec_enc (o : LoopX) (hi lo : Nat) (hl : lo < 8) :
    LoopX.dec (hi * 2 ^ 26 + (o.enc) + lo) = (o, true) := by
  obtain ⟨a_, o_⟩ := o
  have h0 := a_.isLt
  have h1 := o_.isLt
  simp only [LoopX.dec, LoopX.enc, Prod.mk.injEq, LoopX.mk.injEq, and_true]
  exact ⟨fld_eq (by omega), fld_eq (by omega)⟩

theorem Tk.dec_enc (o : Tk) (hi lo : Nat) (hl : lo < 8) :
    Tk.dec (hi * 2 ^ 26 + (o.enc) + lo) = (o, true) := by
  obtain ⟨q_, n_⟩ := o
  have h0 := q_.isLt
  have h1 := n_.isLt
  simp only [Tk.dec, Tk.enc, Prod.mk.injEq, Tk.mk.injEq]
  exact ⟨⟨fld_eq (by omega), fld_eq (by omega)⟩, zer_eq (by omega)⟩

theorem TkCnt.dec_enc (o : TkCnt) (hi lo : Nat) (hl : lo < 8) :
    TkCnt.dec (hi * 2 ^ 26 + (o.enc) + lo) = (o, true) := by
  obtain ⟨d_, q_⟩ := o
  have h0 := d_.isLt
  have h1 := q_.isLt
  simp only [TkCnt.dec, TkCnt.enc, Prod.mk.injEq, TkCnt.mk.injEq]
  exact ⟨⟨fld_eq (by omega), fld_eq (by omega)⟩, zer_eq (by omega)⟩

theorem Code.dec_enc (o : Code) (hi lo : Nat) (hl : lo < 8) :
    Code.dec (hi * 2 ^ 26 + (o.enc) + lo) = (o, true) := by
  obtain ⟨k_⟩ := o
  have h0 := k_.isLt
  simp only [Code.dec, Code.enc, Prod.mk.injEq, Code.mk.injEq]
  exact ⟨fld_eq (by omega), zer_eq (by omega)⟩

theorem Ldx.dec_enc (o : Ldx) (hi lo : Nat) (hl : lo < 8) :
    Ldx.dec (hi * 2 ^ 26 + (o.enc) + lo) = (o, true) := by
  obtain ⟨d_, a_, y_, x_, o_⟩ := o
  have h0 := d_.isLt
  have h1 := a_.isLt
  have h2 := y_.isLt
  have h3 := x_.toNat_lt
  have h4 := o_.isLt
  simp only [Ldx.dec, Ldx.enc, Prod.mk.injEq, Ldx.mk.injEq, and_true]
  exact ⟨fld_eq (by omega), fld_eq (by omega), fld_eq (by omega), bitAt_eq (by omega), fld_eq (by omega)⟩

theorem Stx.dec_enc (o : Stx) (hi lo : Nat) (hl : lo < 8) :
    Stx.dec (hi * 2 ^ 26 + (o.enc) + lo) = (o, true) := by
  obtain ⟨s_, a_, y_, o_⟩ := o
  have h0 := s_.isLt
  have h1 := a_.isLt
  have h2 := y_.isLt
  have h3 := o_.isLt
  simp only [Stx.dec, Stx.enc, Prod.mk.injEq, Stx.mk.injEq]
  exact ⟨⟨fld_eq (by omega), fld_eq (by omega), fld_eq (by omega), fld_eq (by omega)⟩, zer_eq (by omega)⟩

theorem Rdsr.dec_enc (o : Rdsr) (hi lo : Nat) (hl : lo < 8) :
    Rdsr.dec (hi * 2 ^ 26 + (o.enc) + lo) = (o, true) := by
  obtain ⟨d_, r_⟩ := o
  have h0 := d_.isLt
  have h1 := r_.isLt
  simp only [Rdsr.dec, Rdsr.enc, Prod.mk.injEq, Rdsr.mk.injEq]
  exact ⟨⟨fld_eq (by omega), fld_eq (by omega)⟩, zer_eq (by omega)⟩

theorem Wrsr.dec_enc (o : Wrsr) (hi lo : Nat) (hl : lo < 8) :
    Wrsr.dec (hi * 2 ^ 26 + (o.enc) + lo) = (o, true) := by
  obtain ⟨r_, a_⟩ := o
  have h0 := r_.isLt
  have h1 := a_.isLt
  simp only [Wrsr.dec, Wrsr.enc, Prod.mk.injEq, Wrsr.mk.injEq]
  exact ⟨⟨fld_eq (by omega), fld_eq (by omega)⟩, zer_eq (by omega)⟩

theorem AddiL.dec_enc (o : AddiL) (hi lo : Nat) (hl : lo < 8) :
    AddiL.dec (hi * 2 ^ 40 + (o.enc) + lo) = (o, true) := by
  obtain ⟨d_, a_, w_, i_⟩ := o
  have h0 := d_.isLt
  have h1 := a_.isLt
  have h2 := w_.toNat_lt
  have h3 := i_.isLt
  simp only [AddiL.dec, AddiL.enc, Prod.mk.injEq, AddiL.mk.injEq, and_true]
  exact ⟨fld_eq (by omega), fld_eq (by omega), bitAt_eq (by omega), fld_eq (by omega)⟩

theorem Lih.dec_enc (o : Lih) (hi lo : Nat) (hl : lo < 8) :
    Lih.dec (hi * 2 ^ 40 + (o.enc) + lo) = (o, true) := by
  obtain ⟨d_, i_⟩ := o
  have h0 := d_.isLt
  have h1 := i_.isLt
  simp only [Lih.dec, Lih.enc, Prod.mk.injEq, Lih.mk.injEq, and_true]
  exact ⟨fld_eq (by omega), fld_eq (by omega)⟩

theorem Mad.dec_enc (o : Mad) (hi lo : Nat) (hl : lo < 8) :
    Mad.dec (hi * 2 ^ 40 + (o.enc) + lo) = (o, true) := by
  obtain ⟨d_, a_, b_, c_, w_⟩ := o
  have h0 := d_.isLt
  have h1 := a_.isLt
  have h2 := b_.isLt
  have h3 := c_.isLt
  have h4 := w_.toNat_lt
  simp only [Mad.dec, Mad.enc, Prod.mk.injEq, Mad.mk.injEq]
  exact ⟨⟨fld_eq (by omega), fld_eq (by omega), fld_eq (by omega), fld_eq (by omega), bitAt_eq (by omega)⟩, zer_eq (by omega)⟩

theorem CmpL.dec_enc (o : CmpL) (hi lo : Nat) (hl : lo < 8) :
    CmpL.dec (hi * 2 ^ 40 + (o.enc) + lo) = (o, true) := by
  obtain ⟨e_, a_, c_, w_, i_⟩ := o
  have h0 := e_.isLt
  have h1 := a_.isLt
  have h2 := c_.isLt
  have h3 := w_.toNat_lt
  have h4 := i_.isLt
  simp only [CmpL.dec, CmpL.enc, Prod.mk.injEq, CmpL.mk.injEq, and_true]
  exact ⟨fld_eq (by omega), fld_eq (by omega), fld_eq (by omega), bitAt_eq (by omega), fld_eq (by omega)⟩

theorem LoopL.dec_enc (o : LoopL) (hi lo : Nat) (hl : lo < 8) :
    LoopL.dec (hi * 2 ^ 40 + (o.enc) + lo) = (o, true) := by
  obtain ⟨o_, n_⟩ := o
  have h0 := o_.isLt
  have h1 := n_.isLt
  simp only [LoopL.dec, LoopL.enc, Prod.mk.injEq, LoopL.mk.injEq, and_true]
  exact ⟨fld_eq (by omega), fld_eq (by omega)⟩

theorem CrgnOpen.dec_enc (o : CrgnOpen) (hi lo : Nat) (hl : lo < 8) :
    CrgnOpen.dec (hi * 2 ^ 40 + (o.enc) + lo) = (o, true) := by
  obtain ⟨id_, o_⟩ := o
  have h0 := id_.isLt
  have h1 := o_.isLt
  simp only [CrgnOpen.dec, CrgnOpen.enc, Prod.mk.injEq, CrgnOpen.mk.injEq, and_true]
  exact ⟨fld_eq (by omega), fld_eq (by omega)⟩

theorem Rot.dec_enc (o : Rot) (hi lo : Nat) (hl : lo < 8) :
    Rot.dec (hi * 2 ^ 40 + (o.enc) + lo) = (o, true) := by
  obtain ⟨k_⟩ := o
  have h0 := k_.isLt
  simp only [Rot.dec, Rot.enc, Prod.mk.injEq, Rot.mk.injEq]
  exact ⟨fld_eq (by omega), zer_eq (by omega)⟩

theorem Xlate.dec_enc (o : Xlate) (hi lo : Nat) (hl : lo < 8) :
    Xlate.dec (hi * 2 ^ 40 + (o.enc) + lo) = (o, true) := by
  obtain ⟨h_, a_⟩ := o
  have h0 := h_.isLt
  have h1 := a_.isLt
  simp only [Xlate.dec, Xlate.enc, Prod.mk.injEq, Xlate.mk.injEq]
  exact ⟨⟨fld_eq (by omega), fld_eq (by omega)⟩, zer_eq (by omega)⟩

theorem Hinv.dec_enc (o : Hinv) (hi lo : Nat) (hl : lo < 8) :
    Hinv.dec (hi * 2 ^ 40 + (o.enc) + lo) = (o, true) := by
  obtain ⟨h_, all_⟩ := o
  have h0 := h_.isLt
  have h1 := all_.toNat_lt
  simp only [Hinv.dec, Hinv.enc, Prod.mk.injEq, Hinv.mk.injEq]
  exact ⟨⟨fld_eq (by omega), bitAt_eq (by omega)⟩, zer_eq (by omega)⟩

theorem Hqry.dec_enc (o : Hqry) (hi lo : Nat) (hl : lo < 8) :
    Hqry.dec (hi * 2 ^ 40 + (o.enc) + lo) = (o, true) := by
  obtain ⟨d_, h_, part_⟩ := o
  have h0 := d_.isLt
  have h1 := h_.isLt
  have h2 := part_.isLt
  simp only [Hqry.dec, Hqry.enc, Prod.mk.injEq, Hqry.mk.injEq]
  exact ⟨⟨fld_eq (by omega), fld_eq (by omega), fld_eq (by omega)⟩, zer_eq (by omega)⟩

theorem HX.dec_enc (o : HX) (hi lo : Nat) (hl : lo < 8) :
    HX.dec (hi * 2 ^ 40 + (o.enc) + lo) = (o, true) := by
  obtain ⟨h_, o_⟩ := o
  have h0 := h_.isLt
  have h1 := o_.isLt
  simp only [HX.dec, HX.enc, Prod.mk.injEq, HX.mk.injEq]
  exact ⟨⟨fld_eq (by omega), fld_eq (by omega)⟩, zer_eq (by omega)⟩

theorem ChkpM.dec_enc (o : ChkpM) (hi lo : Nat) (v : Nat) (hl : lo < 8) (_hv : v < 2) :
    ChkpM.dec (hi * 2 ^ 40 + (o.enc + v * 2 ^ 39) + lo) = (o, true) := by
  obtain ⟨m_, o_⟩ := o
  have h0 := m_.isLt
  have h1 := o_.isLt
  simp only [ChkpM.dec, ChkpM.enc, Prod.mk.injEq, ChkpM.mk.injEq, and_true]
  exact ⟨fld_eq (by omega), fld_eq (by omega)⟩

theorem ChkpX.dec_enc (o : ChkpX) (hi lo : Nat) (v : Nat) (hl : lo < 8) (_hv : v < 2) :
    ChkpX.dec (hi * 2 ^ 40 + (o.enc + v * 2 ^ 39) + lo) = (o, true) := by
  obtain ⟨a_, o_⟩ := o
  have h0 := a_.isLt
  have h1 := o_.isLt
  simp only [ChkpX.dec, ChkpX.enc, Prod.mk.injEq, ChkpX.mk.injEq]
  exact ⟨⟨fld_eq (by omega), fld_eq (by omega)⟩, zer_eq (by omega)⟩

theorem Chkr.dec_enc (o : Chkr) (hi lo : Nat) (hl : lo < 8) :
    Chkr.dec (hi * 2 ^ 40 + (o.enc) + lo) = (o, true) := by
  obtain ⟨sq_, pr_, o_⟩ := o
  have h0 := sq_.isLt
  have h1 := pr_.isLt
  have h2 := o_.isLt
  simp only [Chkr.dec, Chkr.enc, Prod.mk.injEq, Chkr.mk.injEq]
  exact ⟨⟨fld_eq (by omega), fld_eq (by omega), fld_eq (by omega)⟩, zer_eq (by omega)⟩

theorem Ldg.dec_enc (o : Ldg) (hi lo : Nat) (v : Nat) (hl : lo < 8) (hv : v < 2) :
    Ldg.dec (hi * 2 ^ 40 + (o.enc + v * 2 ^ 21) + lo) = (o, true) := by
  obtain ⟨d_, h_, o_, y_, x_, disp_⟩ := o
  have h0 := d_.isLt
  have h1 := h_.isLt
  have h2 := o_.isLt
  have h3 := y_.isLt
  have h4 := x_.toNat_lt
  have h5 := disp_.isLt
  simp only [Ldg.dec, Ldg.enc, Prod.mk.injEq, Ldg.mk.injEq]
  exact ⟨⟨fld_eq (by omega), fld_eq (by omega), fld_eq (by omega), fld_eq (by omega), bitAt_eq (by omega), fld_eq (by omega)⟩, zer_eq (by omega)⟩

theorem LdgP.dec_enc (o : LdgP) (hi lo : Nat) (v : Nat) (hl : lo < 8) (hv : v < 2) :
    LdgP.dec (hi * 2 ^ 40 + (o.enc + v * 2 ^ 21) + lo) = (o, true) := by
  obtain ⟨d_, h_, o_, y_, x_, f_, disp_⟩ := o
  have h0 := d_.isLt
  have h1 := h_.isLt
  have h2 := o_.isLt
  have h3 := y_.isLt
  have h4 := x_.toNat_lt
  have h5 := f_.isLt
  have h6 := disp_.isLt
  simp only [LdgP.dec, LdgP.enc, Prod.mk.injEq, LdgP.mk.injEq, and_true]
  exact ⟨fld_eq (by omega), fld_eq (by omega), fld_eq (by omega), fld_eq (by omega), bitAt_eq (by omega), fld_eq (by omega), fld_eq (by omega)⟩

theorem Stg.dec_enc (o : Stg) (hi lo : Nat) (hl : lo < 8) :
    Stg.dec (hi * 2 ^ 40 + (o.enc) + lo) = (o, true) := by
  obtain ⟨s_, h_, o_, y_, disp_⟩ := o
  have h0 := s_.isLt
  have h1 := h_.isLt
  have h2 := o_.isLt
  have h3 := y_.isLt
  have h4 := disp_.isLt
  simp only [Stg.dec, Stg.enc, Prod.mk.injEq, Stg.mk.injEq]
  exact ⟨⟨fld_eq (by omega), fld_eq (by omega), fld_eq (by omega), fld_eq (by omega), fld_eq (by omega)⟩, zer_eq (by omega)⟩

theorem Vld.dec_enc (o : Vld) (hi lo : Nat) (hl : lo < 8) :
    Vld.dec (hi * 2 ^ 40 + (o.enc) + lo) = (o, true) := by
  obtain ⟨m_, a_, deco_, int_, blk_, disp_⟩ := o
  have h0 := m_.isLt
  have h1 := a_.isLt
  have h2 := deco_.toNat_lt
  have h3 := int_.toNat_lt
  have h4 := blk_.isLt
  have h5 := disp_.isLt
  simp only [Vld.dec, Vld.enc, Prod.mk.injEq, Vld.mk.injEq, and_true]
  exact ⟨fld_eq (by omega), fld_eq (by omega), bitAt_eq (by omega), bitAt_eq (by omega), fld_eq (by omega), fld_eq (by omega)⟩

theorem Vst.dec_enc (o : Vst) (hi lo : Nat) (hl : lo < 8) :
    Vst.dec (hi * 2 ^ 40 + (o.enc) + lo) = (o, true) := by
  obtain ⟨m_, a_, disp_⟩ := o
  have h0 := m_.isLt
  have h1 := a_.isLt
  have h2 := disp_.isLt
  simp only [Vst.dec, Vst.enc, Prod.mk.injEq, Vst.mk.injEq]
  exact ⟨⟨fld_eq (by omega), fld_eq (by omega), fld_eq (by omega)⟩, zer_eq (by omega)⟩

theorem Vldg.dec_enc (o : Vldg) (hi lo : Nat) (hl : lo < 8) :
    Vldg.dec (hi * 2 ^ 40 + (o.enc) + lo) = (o, true) := by
  obtain ⟨m_, f_, h_, o_, disp_⟩ := o
  have h0 := m_.isLt
  have h1 := f_.isLt
  have h2 := h_.isLt
  have h3 := o_.isLt
  have h4 := disp_.isLt
  simp only [Vldg.dec, Vldg.enc, Prod.mk.injEq, Vldg.mk.injEq, and_true]
  exact ⟨fld_eq (by omega), fld_eq (by omega), fld_eq (by omega), fld_eq (by omega), fld_eq (by omega)⟩

theorem Vstg.dec_enc (o : Vstg) (hi lo : Nat) (hl : lo < 8) :
    Vstg.dec (hi * 2 ^ 40 + (o.enc) + lo) = (o, true) := by
  obtain ⟨m_, h_, o_, disp_⟩ := o
  have h0 := m_.isLt
  have h1 := h_.isLt
  have h2 := o_.isLt
  have h3 := disp_.isLt
  simp only [Vstg.dec, Vstg.enc, Prod.mk.injEq, Vstg.mk.injEq]
  exact ⟨⟨fld_eq (by omega), fld_eq (by omega), fld_eq (by omega), fld_eq (by omega)⟩, zer_eq (by omega)⟩

theorem Vldb.dec_enc (o : Vldb) (hi lo : Nat) (hl : lo < 8) :
    Vldb.dec (hi * 2 ^ 40 + (o.enc) + lo) = (o, true) := by
  obtain ⟨m_, n_, a_, disp_⟩ := o
  have h0 := m_.isLt
  have h1 := n_.isLt
  have h2 := a_.isLt
  have h3 := disp_.isLt
  simp only [Vldb.dec, Vldb.enc, Prod.mk.injEq, Vldb.mk.injEq]
  exact ⟨⟨fld_eq (by omega), fld_eq (by omega), fld_eq (by omega), fld_eq (by omega)⟩, zer_eq (by omega)⟩

theorem Bxld.dec_enc (o : Bxld) (hi lo : Nat) (hl : lo < 8) :
    Bxld.dec (hi * 2 ^ 40 + (o.enc) + lo) = (o, true) := by
  obtain ⟨n_, a_⟩ := o
  have h0 := n_.isLt
  have h1 := a_.isLt
  simp only [Bxld.dec, Bxld.enc, Prod.mk.injEq, Bxld.mk.injEq]
  exact ⟨⟨fld_eq (by omega), fld_eq (by omega)⟩, zer_eq (by omega)⟩

theorem OrdLd.dec_enc (o : OrdLd) (hi lo : Nat) (hl : lo < 8) :
    OrdLd.dec (hi * 2 ^ 40 + (o.enc) + lo) = (o, true) := by
  obtain ⟨d_, h_, o_, y_, x_⟩ := o
  have h0 := d_.isLt
  have h1 := h_.isLt
  have h2 := o_.isLt
  have h3 := y_.isLt
  have h4 := x_.toNat_lt
  simp only [OrdLd.dec, OrdLd.enc, Prod.mk.injEq, OrdLd.mk.injEq]
  exact ⟨⟨fld_eq (by omega), fld_eq (by omega), fld_eq (by omega), fld_eq (by omega), bitAt_eq (by omega)⟩, zer_eq (by omega)⟩

theorem OrdSt.dec_enc (o : OrdSt) (hi lo : Nat) (hl : lo < 8) :
    OrdSt.dec (hi * 2 ^ 40 + (o.enc) + lo) = (o, true) := by
  obtain ⟨s_, h_, o_, y_⟩ := o
  have h0 := s_.isLt
  have h1 := h_.isLt
  have h2 := o_.isLt
  have h3 := y_.isLt
  simp only [OrdSt.dec, OrdSt.enc, Prod.mk.injEq, OrdSt.mk.injEq]
  exact ⟨⟨fld_eq (by omega), fld_eq (by omega), fld_eq (by omega), fld_eq (by omega)⟩, zer_eq (by omega)⟩

theorem Waita.dec_enc (o : Waita) (hi lo : Nat) (hl : lo < 8) :
    Waita.dec (hi * 2 ^ 40 + (o.enc) + lo) = (o, true) := by
  obtain ⟨e_, a_, v_, lim_⟩ := o
  have h0 := e_.isLt
  have h1 := a_.isLt
  have h2 := v_.isLt
  have h3 := lim_.isLt
  simp only [Waita.dec, Waita.enc, Prod.mk.injEq, Waita.mk.injEq]
  exact ⟨⟨fld_eq (by omega), fld_eq (by omega), fld_eq (by omega), fld_eq (by omega)⟩, zer_eq (by omega)⟩

theorem Cplv.dec_enc (o : Cplv) (hi lo : Nat) (hl : lo < 8) :
    Cplv.dec (hi * 2 ^ 40 + (o.enc) + lo) = (o, true) := by
  obtain ⟨n_, c_, s_, d_⟩ := o
  have h0 := n_.isLt
  have h1 := c_.isLt
  have h2 := s_.isLt
  have h3 := d_.isLt
  simp only [Cplv.dec, Cplv.enc, Prod.mk.injEq, Cplv.mk.injEq]
  exact ⟨⟨fld_eq (by omega), fld_eq (by omega), fld_eq (by omega), fld_eq (by omega)⟩, zer_eq (by omega)⟩

theorem Cpgo.dec_enc (o : Cpgo) (hi lo : Nat) (hl : lo < 8) :
    Cpgo.dec (hi * 2 ^ 40 + (o.enc) + lo) = (o, true) := by
  obtain ⟨d_, s_, b_, dep_, f_, v_, tm_, fl_, ord_, mx_⟩ := o
  have h0 := d_.isLt
  have h1 := s_.isLt
  have h2 := b_.isLt
  have h3 := dep_.isLt
  have h4 := f_.isLt
  have h5 := v_.isLt
  have h6 := tm_.toNat_lt
  have h7 := fl_.toNat_lt
  have h8 := ord_.toNat_lt
  have h9 := mx_.toNat_lt
  simp only [Cpgo.dec, Cpgo.enc, Prod.mk.injEq, Cpgo.mk.injEq]
  exact ⟨⟨fld_eq (by omega), fld_eq (by omega), fld_eq (by omega), fld_eq (by omega), fld_eq (by omega), fld_eq (by omega), bitAt_eq (by omega), bitAt_eq (by omega), bitAt_eq (by omega), bitAt_eq (by omega)⟩, zer_eq (by omega)⟩

theorem Cpacc.dec_enc (o : Cpacc) (hi lo : Nat) (hl : lo < 8) :
    Cpacc.dec (hi * 2 ^ 40 + (o.enc) + lo) = (o, true) := by
  obtain ⟨d_, row_, nr_, cg_, ncg_, f32_⟩ := o
  have h0 := d_.isLt
  have h1 := row_.isLt
  have h2 := nr_.isLt
  have h3 := cg_.isLt
  have h4 := ncg_.isLt
  have h5 := f32_.toNat_lt
  simp only [Cpacc.dec, Cpacc.enc, Prod.mk.injEq, Cpacc.mk.injEq]
  exact ⟨⟨fld_eq (by omega), fld_eq (by omega), fld_eq (by omega), fld_eq (by omega), fld_eq (by omega), bitAt_eq (by omega)⟩, zer_eq (by omega)⟩

theorem MxStage.dec_enc (o : MxStage) (hi lo : Nat) (hl : lo < 8) :
    MxStage.dec (hi * 2 ^ 40 + (o.enc) + lo) = (o, true) := by
  obtain ⟨a_, b_, s_, row_, mode_, op_⟩ := o
  have h0 := a_.isLt
  have h1 := b_.isLt
  have h2 := s_.isLt
  have h3 := row_.isLt
  have h4 := mode_.isLt
  have h5 := op_.isLt
  simp only [MxStage.dec, MxStage.enc, Prod.mk.injEq, MxStage.mk.injEq]
  exact ⟨⟨fld_eq (by omega), fld_eq (by omega), fld_eq (by omega), fld_eq (by omega), fld_eq (by omega), fld_eq (by omega)⟩, zer_eq (by omega)⟩

theorem Bfmt.dec_enc (o : Bfmt) (hi lo : Nat) (hl : lo < 8) :
    Bfmt.dec (hi * 2 ^ 40 + (o.enc) + lo) = (o, true) := by
  obtain ⟨b_, v_⟩ := o
  have h0 := b_.isLt
  have h1 := v_.isLt
  simp only [Bfmt.dec, Bfmt.enc, Prod.mk.injEq, Bfmt.mk.injEq, and_true]
  exact ⟨fld_eq (by omega), fld_eq (by omega)⟩

theorem Bfmtr.dec_enc (o : Bfmtr) (hi lo : Nat) (hl : lo < 8) :
    Bfmtr.dec (hi * 2 ^ 40 + (o.enc) + lo) = (o, true) := by
  obtain ⟨b_, a_⟩ := o
  have h0 := b_.isLt
  have h1 := a_.isLt
  simp only [Bfmtr.dec, Bfmtr.enc, Prod.mk.injEq, Bfmtr.mk.injEq]
  exact ⟨⟨fld_eq (by omega), fld_eq (by omega)⟩, zer_eq (by omega)⟩

theorem Saq.dec_enc (o : Saq) (hi lo : Nat) (hl : lo < 8) :
    Saq.dec (hi * 2 ^ 40 + (o.enc) + lo) = (o, true) := by
  obtain ⟨b_, i_, v_, n_, op_, ty_⟩ := o
  have h0 := b_.isLt
  have h1 := i_.isLt
  have h2 := v_.isLt
  have h3 := n_.isLt
  have h4 := op_.isLt
  have h5 := ty_.isLt
  simp only [Saq.dec, Saq.enc, Prod.mk.injEq, Saq.mk.injEq]
  exact ⟨⟨fld_eq (by omega), fld_eq (by omega), fld_eq (by omega), fld_eq (by omega), fld_eq (by omega), fld_eq (by omega)⟩, zer_eq (by omega)⟩

theorem Fsig.dec_enc (o : Fsig) (hi lo : Nat) (hl : lo < 8) :
    Fsig.dec (hi * 2 ^ 40 + (o.enc) + lo) = (o, true) := by
  obtain ⟨t_, v_⟩ := o
  have h0 := t_.isLt
  have h1 := v_.isLt
  simp only [Fsig.dec, Fsig.enc, Prod.mk.injEq, Fsig.mk.injEq]
  exact ⟨⟨fld_eq (by omega), fld_eq (by omega)⟩, zer_eq (by omega)⟩

theorem Obj.dec_enc (o : Obj) (hi lo : Nat) (v : Nat) (hl : lo < 8) (hv : v < 4) :
    Obj.dec (hi * 2 ^ 40 + (o.enc + v * 2 ^ 28) + lo) = (o, true) := by
  obtain ⟨a_⟩ := o
  have h0 := a_.isLt
  simp only [Obj.dec, Obj.enc, Prod.mk.injEq, Obj.mk.injEq, Bool.and_eq_true]
  exact ⟨fld_eq (by omega), ⟨zer_eq (by omega), zer_eq (by omega)⟩⟩

theorem ObjV.dec_enc (o : ObjV) (hi lo : Nat) (v : Nat) (hl : lo < 8) (hv : v < 4) :
    ObjV.dec (hi * 2 ^ 40 + (o.enc + v * 2 ^ 28) + lo) = (o, true) := by
  obtain ⟨a_, b_⟩ := o
  have h0 := a_.isLt
  have h1 := b_.isLt
  simp only [ObjV.dec, ObjV.enc, Prod.mk.injEq, ObjV.mk.injEq]
  exact ⟨⟨fld_eq (by omega), fld_eq (by omega)⟩, zer_eq (by omega)⟩

theorem Bind.dec_enc (o : Bind) (hi lo : Nat) (hl : lo < 8) :
    Bind.dec (hi * 2 ^ 40 + (o.enc) + lo) = (o, true) := by
  obtain ⟨a_, b_, l_⟩ := o
  have h0 := a_.isLt
  have h1 := b_.isLt
  have h2 := l_.isLt
  simp only [Bind.dec, Bind.enc, Prod.mk.injEq, Bind.mk.injEq]
  exact ⟨⟨fld_eq (by omega), fld_eq (by omega), fld_eq (by omega)⟩, zer_eq (by omega)⟩

theorem Sycas.dec_enc (o : Sycas) (hi lo : Nat) (hl : lo < 8) :
    Sycas.dec (hi * 2 ^ 40 + (o.enc) + lo) = (o, true) := by
  obtain ⟨d_, a_, e_, n_⟩ := o
  have h0 := d_.isLt
  have h1 := a_.isLt
  have h2 := e_.isLt
  have h3 := n_.isLt
  simp only [Sycas.dec, Sycas.enc, Prod.mk.injEq, Sycas.mk.injEq]
  exact ⟨⟨fld_eq (by omega), fld_eq (by omega), fld_eq (by omega), fld_eq (by omega)⟩, zer_eq (by omega)⟩

theorem Syrd.dec_enc (o : Syrd) (hi lo : Nat) (hl : lo < 8) :
    Syrd.dec (hi * 2 ^ 40 + (o.enc) + lo) = (o, true) := by
  obtain ⟨d_, a_⟩ := o
  have h0 := d_.isLt
  have h1 := a_.isLt
  simp only [Syrd.dec, Syrd.enc, Prod.mk.injEq, Syrd.mk.injEq]
  exact ⟨⟨fld_eq (by omega), fld_eq (by omega)⟩, zer_eq (by omega)⟩

theorem Xfence.dec_enc (o : Xfence) (hi lo : Nat) (hl : lo < 8) :
    Xfence.dec (hi * 2 ^ 40 + (o.enc) + lo) = (o, true) := by
  obtain ⟨a_, b_⟩ := o
  have h0 := a_.isLt
  have h1 := b_.isLt
  simp only [Xfence.dec, Xfence.enc, Prod.mk.injEq, Xfence.mk.injEq]
  exact ⟨⟨fld_eq (by omega), fld_eq (by omega)⟩, zer_eq (by omega)⟩

theorem Cstash.dec_enc (o : Cstash) (hi lo : Nat) (hl : lo < 8) :
    Cstash.dec (hi * 2 ^ 40 + (o.enc) + lo) = (o, true) := by
  obtain ⟨d_, sel_⟩ := o
  have h0 := d_.isLt
  have h1 := sel_.isLt
  simp only [Cstash.dec, Cstash.enc, Prod.mk.injEq, Cstash.mk.injEq]
  exact ⟨⟨fld_eq (by omega), fld_eq (by omega)⟩, zer_eq (by omega)⟩

theorem Cunstash.dec_enc (o : Cunstash) (hi lo : Nat) (hl : lo < 8) :
    Cunstash.dec (hi * 2 ^ 40 + (o.enc) + lo) = (o, true) := by
  obtain ⟨d_⟩ := o
  have h0 := d_.isLt
  simp only [Cunstash.dec, Cunstash.enc, Prod.mk.injEq, Cunstash.mk.injEq]
  exact ⟨fld_eq (by omega), zer_eq (by omega)⟩

theorem Csend.dec_enc (o : Csend) (hi lo : Nat) (hl : lo < 8) :
    Csend.dec (hi * 2 ^ 40 + (o.enc) + lo) = (o, true) := by
  obtain ⟨s_, b_, dep_, dir_⟩ := o
  have h0 := s_.isLt
  have h1 := b_.isLt
  have h2 := dep_.isLt
  have h3 := dir_.toNat_lt
  simp only [Csend.dec, Csend.enc, Prod.mk.injEq, Csend.mk.injEq]
  exact ⟨⟨fld_eq (by omega), fld_eq (by omega), fld_eq (by omega), bitAt_eq (by omega)⟩, zer_eq (by omega)⟩

theorem Cfree.dec_enc (o : Cfree) (hi lo : Nat) (hl : lo < 8) :
    Cfree.dec (hi * 2 ^ 40 + (o.enc) + lo) = (o, true) := by
  obtain ⟨kind_⟩ := o
  have h0 := kind_.toNat_lt
  simp only [Cfree.dec, Cfree.enc, Prod.mk.injEq, Cfree.mk.injEq]
  exact ⟨bitAt_eq (by omega), zer_eq (by omega)⟩

theorem Vrd.dec_enc (o : Vrd) (hi lo : Nat) (hl : lo < 8) :
    Vrd.dec (hi * 2 ^ 40 + (o.enc) + lo) = (o, true) := by
  obtain ⟨pos_, f_, m_⟩ := o
  have h0 := pos_.isLt
  have h1 := f_.isLt
  have h2 := m_.isLt
  simp only [Vrd.dec, Vrd.enc, Prod.mk.injEq, Vrd.mk.injEq]
  exact ⟨⟨fld_eq (by omega), fld_eq (by omega), fld_eq (by omega)⟩, zer_eq (by omega)⟩

theorem Vwr.dec_enc (o : Vwr) (hi lo : Nat) (hl : lo < 8) :
    Vwr.dec (hi * 2 ^ 40 + (o.enc) + lo) = (o, true) := by
  obtain ⟨pos_, f_, m_, masked_, pr_⟩ := o
  have h0 := pos_.isLt
  have h1 := f_.isLt
  have h2 := m_.isLt
  have h3 := masked_.toNat_lt
  have h4 := pr_.isLt
  simp only [Vwr.dec, Vwr.enc, Prod.mk.injEq, Vwr.mk.injEq, Bool.and_eq_true]
  exact ⟨⟨fld_eq (by omega), fld_eq (by omega), fld_eq (by omega), bitAt_eq (by omega), fld_eq (by omega)⟩, ⟨zer_eq (by omega), zer_eq (by omega)⟩⟩

theorem Slot.dec_enc (o : Slot) (hi lo : Nat) (hl : lo < 8) :
    Slot.dec (hi * 2 ^ 40 + (o.enc) + lo) = (o, true) := by
  obtain ⟨pos_, fd_, fa_, fb_, fc_, lt_, minor_, imm_⟩ := o
  have h0 := pos_.isLt
  have h1 := fd_.isLt
  have h2 := fa_.isLt
  have h3 := fb_.isLt
  have h4 := fc_.isLt
  have h5 := lt_.isLt
  have h6 := minor_.isLt
  have h7 := imm_.isLt
  simp only [Slot.dec, Slot.enc, Prod.mk.injEq, Slot.mk.injEq, and_true]
  exact ⟨fld_eq (by omega), fld_eq (by omega), fld_eq (by omega), fld_eq (by omega), fld_eq (by omega), fld_eq (by omega), fld_eq (by omega), fld_eq (by omega)⟩

theorem Port.dec_enc (o : Port) (hi lo : Nat) (hl : lo < 8) :
    Port.dec (hi * 2 ^ 40 + (o.enc) + lo) = (o, true) := by
  obtain ⟨lt_, minor_, d_, a_, b_⟩ := o
  have h0 := lt_.isLt
  have h1 := minor_.isLt
  have h2 := d_.isLt
  have h3 := a_.isLt
  have h4 := b_.isLt
  simp only [Port.dec, Port.enc, Prod.mk.injEq, Port.mk.injEq, and_true]
  exact ⟨fld_eq (by omega), fld_eq (by omega), fld_eq (by omega), fld_eq (by omega), fld_eq (by omega)⟩

theorem Mat.dec_enc (o : Mat) (hi lo : Nat) (hl : lo < 8) :
    Mat.dec (hi * 2 ^ 40 + (o.enc) + lo) = (o, true) := by
  obtain ⟨a_, b_, s_, row_, mode_⟩ := o
  have h0 := a_.isLt
  have h1 := b_.isLt
  have h2 := s_.isLt
  have h3 := row_.isLt
  have h4 := mode_.isLt
  simp only [Mat.dec, Mat.enc, Prod.mk.injEq, Mat.mk.injEq]
  exact ⟨⟨fld_eq (by omega), fld_eq (by omega), fld_eq (by omega), fld_eq (by omega), fld_eq (by omega)⟩, zer_eq (by omega)⟩

theorem Ttopk.dec_enc (o : Ttopk) (hi lo : Nat) (hl : lo < 8) :
    Ttopk.dec (hi * 2 ^ 40 + (o.enc) + lo) = (o, true) := by
  obtain ⟨m_, row_, nr_, k_, max_, f32_, nc_⟩ := o
  have h0 := m_.isLt
  have h1 := row_.isLt
  have h2 := nr_.isLt
  have h3 := k_.isLt
  have h4 := max_.toNat_lt
  have h5 := f32_.toNat_lt
  have h6 := nc_.isLt
  simp only [Ttopk.dec, Ttopk.enc, Prod.mk.injEq, Ttopk.mk.injEq]
  exact ⟨⟨fld_eq (by omega), fld_eq (by omega), fld_eq (by omega), fld_eq (by omega), bitAt_eq (by omega), bitAt_eq (by omega), fld_eq (by omega)⟩, zer_eq (by omega)⟩

theorem AccMov.dec_enc (o : AccMov) (hi lo : Nat) (hl : lo < 8) :
    AccMov.dec (hi * 2 ^ 40 + (o.enc) + lo) = (o, true) := by
  obtain ⟨m_, row_, cg_, xr_⟩ := o
  have h0 := m_.isLt
  have h1 := row_.isLt
  have h2 := cg_.isLt
  have h3 := xr_.isLt
  simp only [AccMov.dec, AccMov.enc, Prod.mk.injEq, AccMov.mk.injEq]
  exact ⟨⟨fld_eq (by omega), fld_eq (by omega), fld_eq (by omega), fld_eq (by omega)⟩, zer_eq (by omega)⟩

theorem Accz.dec_enc (o : Accz) (hi lo : Nat) (hl : lo < 8) :
    Accz.dec (hi * 2 ^ 40 + (o.enc) + lo) = (o, true) := by
  obtain ⟨row_, n_, xr_⟩ := o
  have h0 := row_.isLt
  have h1 := n_.isLt
  have h2 := xr_.isLt
  simp only [Accz.dec, Accz.enc, Prod.mk.injEq, Accz.mk.injEq]
  exact ⟨⟨fld_eq (by omega), fld_eq (by omega), fld_eq (by omega)⟩, zer_eq (by omega)⟩

end Sys2Proof
end

