-- ==== Sys2Proof/Laws/Encoding.lean ====
section
/-!
SUPPORT. Decoding what the encoder wrote (R124 to R148): bytes to parcels, prefixes, and the one theorem per word length
from which the round trip of every instruction follows.
-/

namespace Sys2Proof

theorem toParcels_flatMap (ws : List Nat) (rest : List Byte) (h : ∀ w ∈ ws, w < 2 ^ 32) :
    toParcels (ws.flatMap parcelBytes ++ rest) = ws ++ toParcels rest := by
  induction ws with
  | nil => rfl
  | cons w ws ih =>
    have hw : w < 2 ^ 32 := h w (by simp)
    have ih := ih fun v hv => h v (by simp [hv])
    simp only [List.flatMap_cons, parcelBytes, List.cons_append, List.nil_append, toParcels, ih, List.cons.injEq, and_true]
    simp only [BitVec.toNat_ofNat]
    omega

/-! Prefixes. -/

theorem addPrefix_arith (x : Pfx) (ok q : Bool) (a : Arith) (h : x.arith = none) :
    addPrefix (x, ok) (a.parcel + q.toNat * 4) = some ({ x with arith := some a }, ok) := by
  obtain ⟨rm, sat, nanz, ftz⟩ := a
  have h0 := rm.isLt
  have h1 := sat.toNat_lt
  have h2 := nanz.toNat_lt
  have h3 := ftz.toNat_lt
  have h4 := q.toNat_lt
  have hk : (Arith.parcel ⟨rm, sat, nanz, ftz⟩ + q.toNat * 4) / 2 ^ 28 % 2 ^ 4 = 0 := by simp only [Arith.parcel]; omega
  have hz : zer (Arith.parcel ⟨rm, sat, nanz, ftz⟩ + q.toNat * 4) 3 19 = true := zer_eq (by simp only [Arith.parcel]; omega)
  have e0 : fld (Arith.parcel ⟨rm, sat, nanz, ftz⟩ + q.toNat * 4) 25 3 = rm := fld_eq (by simp only [Arith.parcel]; omega)
  have e1 : bitAt (Arith.parcel ⟨rm, sat, nanz, ftz⟩ + q.toNat * 4) 24 = sat := bitAt_eq (by simp only [Arith.parcel]; omega)
  have e2 : bitAt (Arith.parcel ⟨rm, sat, nanz, ftz⟩ + q.toNat * 4) 23 = nanz := bitAt_eq (by simp only [Arith.parcel]; omega)
  have e3 : bitAt (Arith.parcel ⟨rm, sat, nanz, ftz⟩ + q.toNat * 4) 22 = ftz := bitAt_eq (by simp only [Arith.parcel]; omega)
  simp only [addPrefix, hk, h, hz, e0, e1, e2, e3, Option.isSome_none, Bool.false_eq_true, ↓reduceIte, Bool.and_true]

theorem addPrefix_imm (x : Pfx) (ok q : Bool) (i : BitVec 25) (h : x.imm = none) :
    addPrefix (x, ok) (immParcel i + q.toNat * 4) = some ({ x with imm := some i }, ok) := by
  have h0 := i.isLt
  have h4 := q.toNat_lt
  have hk : (immParcel i + q.toNat * 4) / 2 ^ 28 % 2 ^ 4 = 1 := by simp only [immParcel]; omega
  have e0 : fld (immParcel i + q.toNat * 4) 3 25 = i := fld_eq (by simp only [immParcel]; omega)
  simp only [addPrefix, hk, h, e0, Option.isSome_none, Bool.false_eq_true, ↓reduceIte]

theorem addPrefix_mem (x : Pfx) (ok q : Bool) (m : MemPfx) (h : x.mem = none) :
    addPrefix (x, ok) (m.parcel + q.toNat * 4) = some ({ x with mem := some m }, ok) := by
  obtain ⟨cls, scope, hint⟩ := m
  have h0 := cls.isLt
  have h1 := scope.isLt
  have h2 := hint.isLt
  have h4 := q.toNat_lt
  have hk : (MemPfx.parcel ⟨cls, scope, hint⟩ + q.toNat * 4) / 2 ^ 28 % 2 ^ 4 = 2 := by simp only [MemPfx.parcel]; omega
  have hz : zer (MemPfx.parcel ⟨cls, scope, hint⟩ + q.toNat * 4) 3 17 = true := zer_eq (by simp only [MemPfx.parcel]; omega)
  have e0 : fld (MemPfx.parcel ⟨cls, scope, hint⟩ + q.toNat * 4) 25 3 = cls := fld_eq (by simp only [MemPfx.parcel]; omega)
  have e1 : fld (MemPfx.parcel ⟨cls, scope, hint⟩ + q.toNat * 4) 22 3 = scope := fld_eq (by simp only [MemPfx.parcel]; omega)
  have e2 : fld (MemPfx.parcel ⟨cls, scope, hint⟩ + q.toNat * 4) 20 2 = hint := fld_eq (by simp only [MemPfx.parcel]; omega)
  simp only [addPrefix, hk, h, hz, e0, e1, e2, Option.isSome_none, Bool.false_eq_true, ↓reduceIte, Bool.and_true]

theorem addPrefix_pred (x : Pfx) (ok q : Bool) (m : PredPfx) (h : x.pred = none) :
    addPrefix (x, ok) (m.parcel + q.toNat * 4) = some ({ x with pred := some m }, ok) := by
  obtain ⟨preg, inv⟩ := m
  have h0 := preg.isLt
  have h1 := inv.toNat_lt
  have h4 := q.toNat_lt
  have hk : (PredPfx.parcel ⟨preg, inv⟩ + q.toNat * 4) / 2 ^ 28 % 2 ^ 4 = 3 := by simp only [PredPfx.parcel]; omega
  have hz : zer (PredPfx.parcel ⟨preg, inv⟩ + q.toNat * 4) 3 21 = true := zer_eq (by simp only [PredPfx.parcel]; omega)
  have e0 : fld (PredPfx.parcel ⟨preg, inv⟩ + q.toNat * 4) 25 3 = preg := fld_eq (by simp only [PredPfx.parcel]; omega)
  have e1 : bitAt (PredPfx.parcel ⟨preg, inv⟩ + q.toNat * 4) 24 = inv := bitAt_eq (by simp only [PredPfx.parcel]; omega)
  simp only [addPrefix, hk, h, hz, e0, e1, Option.isSome_none, Bool.false_eq_true, ↓reduceIte, Bool.and_true]

/-- What holds of a prefix parcel: its length selector is 01, it fits 32 bits, and its P bit is free for `withP`. -/
def PrefixParcel (a : Nat) : Prop := a % 8 = 1 ∧ a < 2 ^ 30

theorem prefixParcel_of_mem {x : Pfx} {a : Nat} (h : a ∈ x.parcels) : PrefixParcel a := by
  obtain ⟨ar, im, me, pr⟩ := x
  simp only [Pfx.parcels, List.mem_append, Option.mem_toList, Option.map_eq_some_iff] at h
  rcases h with ((⟨y, _, rfl⟩ | ⟨y, _, rfl⟩) | ⟨y, _, rfl⟩) | ⟨y, _, rfl⟩
  · have h0 := y.rm.isLt
    have h1 := y.sat.toNat_lt
    have h2 := y.nanz.toNat_lt
    have h3 := y.ftz.toNat_lt
    constructor <;> simp only [Arith.parcel] <;> omega
  · have h0 := y.isLt
    constructor <;> simp only [immParcel] <;> omega
  · have h0 := y.cls.isLt
    have h1 := y.scope.isLt
    have h2 := y.hint.isLt
    constructor <;> simp only [MemPfx.parcel] <;> omega
  · have h0 := y.preg.isLt
    have h1 := y.inv.toNat_lt
    constructor <;> simp only [PredPfx.parcel] <;> omega

theorem addPrefixes_cons {w : Nat} {ws : List Nat} {a b : Pfx × Bool} (h : addPrefix a w = some b) :
    addPrefixes (w :: ws) a = addPrefixes ws b := by
  rw [addPrefixes, h]

/-- Parcels of an optional prefix, with any P bits, read back as the prefix. -/
def ReadsAs (ws : List Nat) (x y : Pfx) : Prop := ∀ ok, addPrefixes ws (x, ok) = some (y, ok)

theorem ReadsAs.nil (x : Pfx) : ReadsAs [] x x := fun _ => rfl

theorem ReadsAs.cons {w : Nat} {ws : List Nat} {x y z : Pfx} (h : ∀ ok, addPrefix (x, ok) w = some (y, ok))
    (h' : ReadsAs ws y z) : ReadsAs (w :: ws) x z := fun ok => (addPrefixes_cons (h ok)).trans (h' ok)

theorem add_four (n : Nat) : n + 4 = n + true.toNat * 4 := by simp

theorem readsAs_arith (x : Pfx) (a : Arith) (h : x.arith = none) (ok : Bool) :
    addPrefix (x, ok) (a.parcel + 4) = some ({ x with arith := some a }, ok) := by
  rw [add_four]; exact addPrefix_arith x ok true a h

theorem readsAs_imm (x : Pfx) (i : BitVec 25) (h : x.imm = none) (ok : Bool) :
    addPrefix (x, ok) (immParcel i + 4) = some ({ x with imm := some i }, ok) := by
  rw [add_four]; exact addPrefix_imm x ok true i h

theorem readsAs_mem (x : Pfx) (m : MemPfx) (h : x.mem = none) (ok : Bool) :
    addPrefix (x, ok) (m.parcel + 4) = some ({ x with mem := some m }, ok) := by
  rw [add_four]; exact addPrefix_mem x ok true m h

theorem readsAs_pred (x : Pfx) (m : PredPfx) (h : x.pred = none) (ok : Bool) :
    addPrefix (x, ok) (m.parcel + 4) = some ({ x with pred := some m }, ok) := by
  rw [add_four]; exact addPrefix_pred x ok true m h

/-- The parcels after a unit's first. -/
theorem readsAs_pred_tail (x : Pfx) (h : x.pred = none) (pr : Option PredPfx) :
    ReadsAs ((pr.map PredPfx.parcel).toList.map (· + 4)) x { x with pred := pr } := by
  obtain ⟨ar, im, me, _⟩ := x
  cases h
  cases pr with
  | none => exact ReadsAs.nil _
  | some m => exact ReadsAs.cons (readsAs_pred _ m rfl) (ReadsAs.nil _)

theorem readsAs_mem_tail (x : Pfx) (h : x.mem = none) (h' : x.pred = none) (me : Option MemPfx) (pr : Option PredPfx) :
    ReadsAs (((me.map MemPfx.parcel).toList ++ (pr.map PredPfx.parcel).toList).map (· + 4)) x
      { x with mem := me, pred := pr } := by
  obtain ⟨ar, im, _, _⟩ := x
  cases h
  cases h'
  cases me with
  | none => exact readsAs_pred_tail _ rfl pr
  | some m => exact ReadsAs.cons (readsAs_mem _ m rfl) (readsAs_pred_tail ⟨ar, im, some m, none⟩ rfl pr)

theorem readsAs_imm_tail (x : Pfx) (h0 : x.imm = none) (h : x.mem = none) (h' : x.pred = none) (im : Option (BitVec 25))
    (me : Option MemPfx) (pr : Option PredPfx) :
    ReadsAs (((im.map immParcel).toList ++ ((me.map MemPfx.parcel).toList ++ (pr.map PredPfx.parcel).toList)).map (· + 4)) x
      { x with imm := im, mem := me, pred := pr } := by
  obtain ⟨ar, _, _, _⟩ := x
  cases h0
  cases h
  cases h'
  cases im with
  | none => exact readsAs_mem_tail _ rfl rfl me pr
  | some i => exact ReadsAs.cons (readsAs_imm _ i rfl) (readsAs_mem_tail ⟨ar, some i, none, none⟩ rfl rfl me pr)

/-- The prefixes read back, whatever the P bit of the first. -/
theorem addPrefixes_parcels (x : Pfx) (p : Bool) (w : Nat) :
    addPrefixes (withP p x.parcels w).1 (Pfx.none, true) = some (x, true) := by
  obtain ⟨ar, im, me, pr⟩ := x
  suffices h : ReadsAs (withP p (Pfx.parcels ⟨ar, im, me, pr⟩) w).1 Pfx.none ⟨ar, im, me, pr⟩ from h true
  rw [Pfx.parcels, List.append_assoc, List.append_assoc]
  cases ar with
  | some a => exact ReadsAs.cons (fun ok => addPrefix_arith _ ok p a rfl) (readsAs_imm_tail ⟨some a, none, none, none⟩ rfl rfl rfl im me pr)
  | none =>
    cases im with
    | some i => exact ReadsAs.cons (fun ok => addPrefix_imm _ ok p i rfl) (readsAs_mem_tail ⟨none, some i, none, none⟩ rfl rfl me pr)
    | none =>
      cases me with
      | some m => exact ReadsAs.cons (fun ok => addPrefix_mem _ ok p m rfl) (readsAs_pred_tail ⟨none, none, some m, none⟩ rfl pr)
      | none =>
        cases pr with
        | some m => exact ReadsAs.cons (fun ok => addPrefix_pred _ ok p m rfl) (ReadsAs.nil _)
        | none => exact ReadsAs.nil _

/-! Units. -/

theorem takePrefixes_append (k : Nat) (pre : List Nat) (w : Nat) (rest : List Nat) (hk : pre.length < k)
    (hp : ∀ a ∈ pre, a % 4 = 1) (hw : w % 4 ≠ 1) : takePrefixes k (pre ++ w :: rest) = (pre, w :: rest) := by
  induction pre generalizing k with
  | nil =>
    cases k with
    | zero => simp at hk
    | succ k => simp [takePrefixes, hw]
  | cons a pre ih =>
    cases k with
    | zero => simp at hk
    | succ k =>
      have := ih k (by simpa using hk) fun b hb => hp b (by simp [hb])
      simp [takePrefixes, hp a (by simp), this]

/-- The parcels of a unit decode as its prefixes and its word. -/
theorem decodeParcels_unit (pre : List Nat) (long : Bool) (w : Nat) (rest : List Nat) (hl : pre.length ≤ 2)
    (hp : ∀ a ∈ pre, a % 4 = 1) (hs : w % 4 = if long then 2 else 0) (hw : w < 2 ^ (if long then 64 else 32)) :
    decodeParcels (pre ++ (wordParcels long w ++ rest)) = decodeBody pre long w := by
  have h3 : pre.length ≠ 3 := by omega
  cases long with
  | false =>
    simp only [Bool.false_eq_true, ↓reduceIte] at hs hw
    have hm : w % 2 ^ 32 = w := Nat.mod_eq_of_lt hw
    simp only [wordParcels, Bool.false_eq_true, ↓reduceIte, hm, List.cons_append, List.nil_append, decodeParcels,
      takePrefixes_append 3 pre w rest (by omega) hp (by omega), h3]
    simp [hs]
  | true =>
    simp only [↓reduceIte] at hs hw
    have hm : w % 2 ^ 32 + w / 2 ^ 32 % 2 ^ 32 * 2 ^ 32 = w := by omega
    have h4 : w % 2 ^ 32 % 4 = 2 := by omega
    simp only [wordParcels, ↓reduceIte, List.cons_append, List.nil_append, decodeParcels,
      takePrefixes_append 3 pre (w % 2 ^ 32) _ (by omega) hp (by omega), h3, h4, hm]
    simp

theorem withP_length (p : Bool) (pre : List Nat) (w : Nat) : (withP p pre w).1.length = pre.length := by
  cases pre <;> simp [withP]

theorem withP_pre (p : Bool) (pre : List Nat) (w : Nat) (h : ∀ a ∈ pre, PrefixParcel a) :
    ∀ a ∈ (withP p pre w).1, a % 4 = 1 ∧ a < 2 ^ 32 := by
  cases pre with
  | nil => simp [withP]
  | cons b rest =>
    have hq := p.toNat_lt
    intro a ha
    simp only [withP, List.mem_cons, List.mem_map] at ha
    rcases ha with rfl | ⟨c, hc, rfl⟩
    · have := h b (by simp)
      simp only [PrefixParcel] at this
      omega
    · have := h c (by simp [hc])
      simp only [PrefixParcel] at this
      omega

/-- The word of a unit keeps its value but for bit 2, which tells P. -/
theorem withP_word (p : Bool) (pre : List Nat) (w : Nat) : ∃ q : Bool, (withP p pre w).2 = w + q.toNat * 4 := by
  cases pre with
  | nil => exact ⟨p, rfl⟩
  | cons => exact ⟨true, rfl⟩

theorem bitAt_two_withP (a : Nat) (q : Bool) (h : a % 8 < 4) : bitAt (a + q.toNat * 4) 2 = q :=
  bitAt_eq (by have := q.toNat_lt; omega)

/-- P bits: the first parcel's is `p`, the others' are 1. -/
theorem withP_bits (p : Bool) (pre : List Nat) (w : Nat) (h : ∀ a ∈ pre, PrefixParcel a) (hw : w % 8 < 4) :
    bitAt (((withP p pre w).1 ++ [(withP p pre w).2]).headD 0) 2 = p ∧
      allP (((withP p pre w).1 ++ [(withP p pre w).2]).drop 1) = true := by
  cases pre with
  | nil => exact ⟨by simpa [withP] using bitAt_two_withP w p hw, by simp [withP, allP]⟩
  | cons b rest =>
    have hb := (h b (by simp)).1
    refine ⟨by simpa [withP] using bitAt_two_withP b p (by omega), ?_⟩
    simp only [withP, List.cons_append, List.drop_succ_cons, List.drop_zero, allP, List.all_append, List.all_map, List.all_cons,
      List.all_nil, Bool.and_true, Bool.and_eq_true, List.all_eq_true, Function.comp]
    exact ⟨fun a ha => bitAt_two_withP a true (by have := (h a (by simp [ha])).1; omega), bitAt_two_withP w true hw⟩

/-- The round trip of an instruction, from what its table says of its word. -/
theorem decode_encode {i : Instr} {f : Info} (hi : i.info = some f) (hc : f.pfx.count ≤ 2)
    (hs : wordOf f i.body % 8 = if f.long then 2 else 0) (hw : wordOf f i.body + 4 < 2 ^ (if f.long then 64 else 32))
    (ht : ∀ q : Bool, decodeWord f.long f.p f.pfx (wordOf f i.body + q.toNat * 4) = some (i, true)) (rest : List Byte) :
    decode (encode i ++ rest) = .unit i (encodeParcels i).length true := by
  have hpre : ∀ a ∈ f.pfx.parcels, PrefixParcel a := fun a ha => prefixParcel_of_mem ha
  have hlen : f.pfx.parcels.length = f.pfx.count := by
    cases h1 : f.pfx.arith <;> cases h2 : f.pfx.imm <;> cases h3 : f.pfx.mem <;> cases h4 : f.pfx.pred <;>
      simp [Pfx.parcels, Pfx.count, h1, h2, h3, h4]
  obtain ⟨q, hq⟩ := withP_word f.p f.pfx.parcels (wordOf f i.body)
  have hql := q.toNat_lt
  have hpw := withP_pre f.p f.pfx.parcels (wordOf f i.body) hpre
  have hbits := withP_bits f.p f.pfx.parcels (wordOf f i.body) hpre (by split at hs <;> omega)
  have hep : encodeParcels i =
      (withP f.p f.pfx.parcels (wordOf f i.body)).1 ++ wordParcels f.long (wordOf f i.body + q.toNat * 4) := by
    simp [encodeParcels, hi, hq]
  have hall : ∀ w ∈ encodeParcels i, w < 2 ^ 32 := by
    intro w hm
    rw [hep, List.mem_append] at hm
    rcases hm with hm | hm
    · exact (hpw w hm).2
    · unfold wordParcels at hm
      split at hm <;> simp at hm <;> omega
  have hwl : (wordParcels f.long (wordOf f i.body + q.toNat * 4)).length = if f.long then 2 else 1 := by
    unfold wordParcels
    split <;> rfl
  rw [decode, encode, toParcels_flatMap _ _ hall, hep, List.append_assoc,
    decodeParcels_unit _ _ _ _ (by rw [withP_length, hlen]; exact hc) (fun a ha => (hpw a ha).1)
      (by split at hs <;> simp_all <;> omega) (by split at hw <;> simp_all <;> omega)]
  rw [hq] at hbits
  simp only [decodeBody, addPrefixes_parcels, hbits, ht, Bool.and_self, ↓reduceIte, List.length_append, hwl]

end Sys2Proof
end

