-- ==== Sys2Proof/Laws/State.lean ====
section
/-!
SUPPORT. What each update of the state leaves and sets, field by field, for `simp`.
-/

namespace Sys2Proof.Machine

open Sys2Proof

/-! Updates of the whole state. -/

@[simp] theorem State.updCore_who (s : State) (g : Core → Core) : (s.updCore g).who = s.who := rfl
@[simp] theorem State.updCore_phase (s : State) (g : Core → Core) : (s.updCore g).phase = s.phase := rfl
@[simp] theorem State.updCore_parked (s : State) (g : Core → Core) : (s.updCore g).parked = s.parked := rfl
@[simp] theorem State.updCore_turns (s : State) (g : Core → Core) : (s.updCore g).turns = s.turns := rfl
@[simp] theorem State.updCore_agenda (s : State) (g : Core → Core) : (s.updCore g).agenda = s.agenda := rfl
@[simp] theorem State.updCore_inputs (s : State) (g : Core → Core) : (s.updCore g).inputs = s.inputs := rfl
@[simp] theorem State.updCore_pokes (s : State) (g : Core → Core) : (s.updCore g).pokes = s.pokes := rfl
@[simp] theorem State.updCore_free (s : State) (g : Core → Core) : (s.updCore g).free = s.free := rfl
@[simp] theorem State.updCore_tick (s : State) (g : Core → Core) : (s.updCore g).tick = s.tick := rfl
@[simp] theorem State.updCore_hub (s : State) (g : Core → Core) : (s.updCore g).hub = s.hub := rfl
@[simp] theorem State.updCore_core (s : State) (g : Core → Core) : (s.updCore g).core = g s.core := rfl
@[simp] theorem State.updHub_core (s : State) (g : Hub → Hub) : (s.updHub g).core = s.core := rfl
@[simp] theorem State.updHub_who (s : State) (g : Hub → Hub) : (s.updHub g).who = s.who := rfl
@[simp] theorem State.updHub_phase (s : State) (g : Hub → Hub) : (s.updHub g).phase = s.phase := rfl
@[simp] theorem State.updHub_parked (s : State) (g : Hub → Hub) : (s.updHub g).parked = s.parked := rfl
@[simp] theorem State.updHub_turns (s : State) (g : Hub → Hub) : (s.updHub g).turns = s.turns := rfl
@[simp] theorem State.updHub_agenda (s : State) (g : Hub → Hub) : (s.updHub g).agenda = s.agenda := rfl
@[simp] theorem State.updHub_inputs (s : State) (g : Hub → Hub) : (s.updHub g).inputs = s.inputs := rfl
@[simp] theorem State.updHub_pokes (s : State) (g : Hub → Hub) : (s.updHub g).pokes = s.pokes := rfl
@[simp] theorem State.updHub_free (s : State) (g : Hub → Hub) : (s.updHub g).free = s.free := rfl
@[simp] theorem State.updHub_tick (s : State) (g : Hub → Hub) : (s.updHub g).tick = s.tick := rfl
@[simp] theorem State.updHub_hub (s : State) (g : Hub → Hub) : (s.updHub g).hub = g s.hub := rfl
@[simp] theorem State.updSeq_who (s : State) (g : Seq → Seq) : (s.updSeq g).who = s.who := rfl
@[simp] theorem State.updSeq_phase (s : State) (g : Seq → Seq) : (s.updSeq g).phase = s.phase := rfl
@[simp] theorem State.updSeq_parked (s : State) (g : Seq → Seq) : (s.updSeq g).parked = s.parked := rfl
@[simp] theorem State.updSeq_turns (s : State) (g : Seq → Seq) : (s.updSeq g).turns = s.turns := rfl
@[simp] theorem State.updSeq_agenda (s : State) (g : Seq → Seq) : (s.updSeq g).agenda = s.agenda := rfl
@[simp] theorem State.updSeq_inputs (s : State) (g : Seq → Seq) : (s.updSeq g).inputs = s.inputs := rfl
@[simp] theorem State.updSeq_pokes (s : State) (g : Seq → Seq) : (s.updSeq g).pokes = s.pokes := rfl
@[simp] theorem State.updSeq_free (s : State) (g : Seq → Seq) : (s.updSeq g).free = s.free := rfl
@[simp] theorem State.updSeq_tick (s : State) (g : Seq → Seq) : (s.updSeq g).tick = s.tick := rfl
@[simp] theorem State.updSeq_hub (s : State) (g : Seq → Seq) : (s.updSeq g).hub = s.hub := rfl
@[simp] theorem State.updSeq_core (s : State) (g : Seq → Seq) : (s.updSeq g).core = s.core.updSeq s.who g := rfl
@[simp] theorem State.pass_core (s : State) : s.pass.core = s.core := by unfold State.pass; split <;> rfl
@[simp] theorem State.pass_parked (s : State) : s.pass.parked = s.parked := by unfold State.pass; split <;> rfl
@[simp] theorem State.pass_turns (s : State) : s.pass.turns = s.turns := by unfold State.pass; split <;> rfl
@[simp] theorem State.pass_agenda (s : State) : s.pass.agenda = s.agenda := by unfold State.pass; split <;> rfl
@[simp] theorem State.pass_inputs (s : State) : s.pass.inputs = s.inputs := by unfold State.pass; split <;> rfl
@[simp] theorem State.pass_pokes (s : State) : s.pass.pokes = s.pokes := by unfold State.pass; split <;> rfl
@[simp] theorem State.pass_free (s : State) : s.pass.free = s.free := by unfold State.pass; split <;> rfl
@[simp] theorem State.pass_tick (s : State) : s.pass.tick = s.tick := by unfold State.pass; split <;> rfl
@[simp] theorem State.pass_hub (s : State) : s.pass.hub = s.hub := by unfold State.pass; split <;> rfl

/-! A sequencer of a core. -/

@[simp] theorem Core.seq_setSeq (c : Core) (q : SeqId) (v : Seq) : (c.setSeq q v).seq q = v := by cases q <;> rfl
theorem Core.seq_setSeq_ne (c : Core) {q p : SeqId} (v : Seq) (h : p ≠ q) : (c.setSeq q v).seq p = c.seq p := by
  cases q <;> cases p <;> first | rfl | exact absurd rfl h
@[simp] theorem Core.seq_updSeq (c : Core) (q : SeqId) (g : Seq → Seq) : (c.updSeq q g).seq q = g (c.seq q) := by
  simp [Core.updSeq]
theorem Core.seq_updSeq_ne (c : Core) {q p : SeqId} (g : Seq → Seq) (h : p ≠ q) : (c.updSeq q g).seq p = c.seq p := by
  simp [Core.updSeq, Core.seq_setSeq_ne _ _ h]
@[simp] theorem Core.setSeq_die (c : Core) (q : SeqId) (v : Seq) : (c.setSeq q v).die = c.die := by cases q <;> rfl
@[simp] theorem Core.updSeq_die (c : Core) (q : SeqId) (g : Seq → Seq) : (c.updSeq q g).die = c.die := by simp [Core.updSeq]
@[simp] theorem Core.setSeq_cluster (c : Core) (q : SeqId) (v : Seq) : (c.setSeq q v).cluster = c.cluster := by cases q <;> rfl
@[simp] theorem Core.updSeq_cluster (c : Core) (q : SeqId) (g : Seq → Seq) : (c.updSeq q g).cluster = c.cluster := by simp [Core.updSeq]
@[simp] theorem Core.setSeq_core (c : Core) (q : SeqId) (v : Seq) : (c.setSeq q v).core = c.core := by cases q <;> rfl
@[simp] theorem Core.updSeq_core (c : Core) (q : SeqId) (g : Seq → Seq) : (c.updSeq q g).core = c.core := by simp [Core.updSeq]
@[simp] theorem Core.setSeq_status (c : Core) (q : SeqId) (v : Seq) : (c.setSeq q v).status = c.status := by cases q <;> rfl
@[simp] theorem Core.updSeq_status (c : Core) (q : SeqId) (g : Seq → Seq) : (c.updSeq q g).status = c.status := by simp [Core.updSeq]
@[simp] theorem Core.setSeq_task (c : Core) (q : SeqId) (v : Seq) : (c.setSeq q v).task = c.task := by cases q <;> rfl
@[simp] theorem Core.updSeq_task (c : Core) (q : SeqId) (g : Seq → Seq) : (c.updSeq q g).task = c.task := by simp [Core.updSeq]
@[simp] theorem Core.setSeq_tl (c : Core) (q : SeqId) (v : Seq) : (c.setSeq q v).tl = c.tl := by cases q <;> rfl
@[simp] theorem Core.updSeq_tl (c : Core) (q : SeqId) (g : Seq → Seq) : (c.updSeq q g).tl = c.tl := by simp [Core.updSeq]
@[simp] theorem Core.setSeq_ecause1 (c : Core) (q : SeqId) (v : Seq) : (c.setSeq q v).ecause1 = c.ecause1 := by cases q <;> rfl
@[simp] theorem Core.updSeq_ecause1 (c : Core) (q : SeqId) (g : Seq → Seq) : (c.updSeq q g).ecause1 = c.ecause1 := by simp [Core.updSeq]
@[simp] theorem Core.setSeq_ecause2 (c : Core) (q : SeqId) (v : Seq) : (c.setSeq q v).ecause2 = c.ecause2 := by cases q <;> rfl
@[simp] theorem Core.updSeq_ecause2 (c : Core) (q : SeqId) (g : Seq → Seq) : (c.updSeq q g).ecause2 = c.ecause2 := by simp [Core.updSeq]
@[simp] theorem Core.setSeq_epc1 (c : Core) (q : SeqId) (v : Seq) : (c.setSeq q v).epc1 = c.epc1 := by cases q <;> rfl
@[simp] theorem Core.updSeq_epc1 (c : Core) (q : SeqId) (g : Seq → Seq) : (c.updSeq q g).epc1 = c.epc1 := by simp [Core.updSeq]
@[simp] theorem Core.setSeq_epc2 (c : Core) (q : SeqId) (v : Seq) : (c.setSeq q v).epc2 = c.epc2 := by cases q <;> rfl
@[simp] theorem Core.updSeq_epc2 (c : Core) (q : SeqId) (g : Seq → Seq) : (c.updSeq q g).epc2 = c.epc2 := by simp [Core.updSeq]
@[simp] theorem Core.setSeq_eaddr1 (c : Core) (q : SeqId) (v : Seq) : (c.setSeq q v).eaddr1 = c.eaddr1 := by cases q <;> rfl
@[simp] theorem Core.updSeq_eaddr1 (c : Core) (q : SeqId) (g : Seq → Seq) : (c.updSeq q g).eaddr1 = c.eaddr1 := by simp [Core.updSeq]
@[simp] theorem Core.setSeq_eaddr2 (c : Core) (q : SeqId) (v : Seq) : (c.setSeq q v).eaddr2 = c.eaddr2 := by cases q <;> rfl
@[simp] theorem Core.updSeq_eaddr2 (c : Core) (q : SeqId) (g : Seq → Seq) : (c.updSeq q g).eaddr2 = c.eaddr2 := by simp [Core.updSeq]
@[simp] theorem Core.setSeq_eseq1 (c : Core) (q : SeqId) (v : Seq) : (c.setSeq q v).eseq1 = c.eseq1 := by cases q <;> rfl
@[simp] theorem Core.updSeq_eseq1 (c : Core) (q : SeqId) (g : Seq → Seq) : (c.updSeq q g).eseq1 = c.eseq1 := by simp [Core.updSeq]
@[simp] theorem Core.setSeq_eseq2 (c : Core) (q : SeqId) (v : Seq) : (c.setSeq q v).eseq2 = c.eseq2 := by cases q <;> rfl
@[simp] theorem Core.updSeq_eseq2 (c : Core) (q : SeqId) (g : Seq → Seq) : (c.updSeq q g).eseq2 = c.eseq2 := by simp [Core.updSeq]
@[simp] theorem Core.setSeq_tvec1 (c : Core) (q : SeqId) (v : Seq) : (c.setSeq q v).tvec1 = c.tvec1 := by cases q <;> rfl
@[simp] theorem Core.updSeq_tvec1 (c : Core) (q : SeqId) (g : Seq → Seq) : (c.updSeq q g).tvec1 = c.tvec1 := by simp [Core.updSeq]
@[simp] theorem Core.setSeq_tvec2 (c : Core) (q : SeqId) (v : Seq) : (c.setSeq q v).tvec2 = c.tvec2 := by cases q <;> rfl
@[simp] theorem Core.updSeq_tvec2 (c : Core) (q : SeqId) (g : Seq → Seq) : (c.updSeq q g).tvec2 = c.tvec2 := by simp [Core.updSeq]
@[simp] theorem Core.setSeq_ret1 (c : Core) (q : SeqId) (v : Seq) : (c.setSeq q v).ret1 = c.ret1 := by cases q <;> rfl
@[simp] theorem Core.updSeq_ret1 (c : Core) (q : SeqId) (g : Seq → Seq) : (c.updSeq q g).ret1 = c.ret1 := by simp [Core.updSeq]
@[simp] theorem Core.setSeq_ctWd (c : Core) (q : SeqId) (v : Seq) : (c.setSeq q v).ctWd = c.ctWd := by cases q <;> rfl
@[simp] theorem Core.updSeq_ctWd (c : Core) (q : SeqId) (g : Seq → Seq) : (c.updSeq q g).ctWd = c.ctWd := by simp [Core.updSeq]
@[simp] theorem Core.setSeq_ret2 (c : Core) (q : SeqId) (v : Seq) : (c.setSeq q v).ret2 = c.ret2 := by cases q <;> rfl
@[simp] theorem Core.updSeq_ret2 (c : Core) (q : SeqId) (g : Seq → Seq) : (c.updSeq q g).ret2 = c.ret2 := by simp [Core.updSeq]
@[simp] theorem Core.setSeq_chkcfg (c : Core) (q : SeqId) (v : Seq) : (c.setSeq q v).chkcfg = c.chkcfg := by cases q <;> rfl
@[simp] theorem Core.updSeq_chkcfg (c : Core) (q : SeqId) (g : Seq → Seq) : (c.updSeq q g).chkcfg = c.chkcfg := by simp [Core.updSeq]
@[simp] theorem Core.setSeq_cycle (c : Core) (q : SeqId) (v : Seq) : (c.setSeq q v).cycle = c.cycle := by cases q <;> rfl
@[simp] theorem Core.updSeq_cycle (c : Core) (q : SeqId) (g : Seq → Seq) : (c.updSeq q g).cycle = c.cycle := by simp [Core.updSeq]
@[simp] theorem Core.setSeq_mapver (c : Core) (q : SeqId) (v : Seq) : (c.setSeq q v).mapver = c.mapver := by cases q <;> rfl
@[simp] theorem Core.updSeq_mapver (c : Core) (q : SeqId) (g : Seq → Seq) : (c.updSeq q g).mapver = c.mapver := by simp [Core.updSeq]
@[simp] theorem Core.setSeq_coreClass (c : Core) (q : SeqId) (v : Seq) : (c.setSeq q v).coreClass = c.coreClass := by cases q <;> rfl
@[simp] theorem Core.updSeq_coreClass (c : Core) (q : SeqId) (g : Seq → Seq) : (c.updSeq q g).coreClass = c.coreClass := by simp [Core.updSeq]
@[simp] theorem Core.setSeq_rbase (c : Core) (q : SeqId) (v : Seq) : (c.setSeq q v).rbase = c.rbase := by cases q <;> rfl
@[simp] theorem Core.updSeq_rbase (c : Core) (q : SeqId) (g : Seq → Seq) : (c.updSeq q g).rbase = c.rbase := by simp [Core.updSeq]
@[simp] theorem Core.setSeq_bvalid (c : Core) (q : SeqId) (v : Seq) : (c.setSeq q v).bvalid = c.bvalid := by cases q <;> rfl
@[simp] theorem Core.updSeq_bvalid (c : Core) (q : SeqId) (g : Seq → Seq) : (c.updSeq q g).bvalid = c.bvalid := by simp [Core.updSeq]
@[simp] theorem Core.setSeq_suspended (c : Core) (q : SeqId) (v : Seq) : (c.setSeq q v).suspended = c.suspended := by cases q <;> rfl
@[simp] theorem Core.updSeq_suspended (c : Core) (q : SeqId) (g : Seq → Seq) : (c.updSeq q g).suspended = c.suspended := by simp [Core.updSeq]
@[simp] theorem Core.setSeq_tkwdog (c : Core) (q : SeqId) (v : Seq) : (c.setSeq q v).tkwdog = c.tkwdog := by cases q <;> rfl
@[simp] theorem Core.updSeq_tkwdog (c : Core) (q : SeqId) (g : Seq → Seq) : (c.updSeq q g).tkwdog = c.tkwdog := by simp [Core.updSeq]
@[simp] theorem Core.setSeq_fstat (c : Core) (q : SeqId) (v : Seq) : (c.setSeq q v).fstat = c.fstat := by cases q <;> rfl
@[simp] theorem Core.updSeq_fstat (c : Core) (q : SeqId) (g : Seq → Seq) : (c.updSeq q g).fstat = c.fstat := by simp [Core.updSeq]
@[simp] theorem Core.setSeq_replays (c : Core) (q : SeqId) (v : Seq) : (c.setSeq q v).replays = c.replays := by cases q <;> rfl
@[simp] theorem Core.updSeq_replays (c : Core) (q : SeqId) (g : Seq → Seq) : (c.updSeq q g).replays = c.replays := by simp [Core.updSeq]
@[simp] theorem Core.setSeq_bf (c : Core) (q : SeqId) (v : Seq) : (c.setSeq q v).bf = c.bf := by cases q <;> rfl
@[simp] theorem Core.updSeq_bf (c : Core) (q : SeqId) (g : Seq → Seq) : (c.updSeq q g).bf = c.bf := by simp [Core.updSeq]
@[simp] theorem Core.setSeq_hnd (c : Core) (q : SeqId) (v : Seq) : (c.setSeq q v).hnd = c.hnd := by cases q <;> rfl
@[simp] theorem Core.updSeq_hnd (c : Core) (q : SeqId) (g : Seq → Seq) : (c.updSeq q g).hnd = c.hnd := by simp [Core.updSeq]
@[simp] theorem Core.setSeq_tok (c : Core) (q : SeqId) (v : Seq) : (c.setSeq q v).tok = c.tok := by cases q <;> rfl
@[simp] theorem Core.updSeq_tok (c : Core) (q : SeqId) (g : Seq → Seq) : (c.updSeq q g).tok = c.tok := by simp [Core.updSeq]
@[simp] theorem Core.setSeq_ord (c : Core) (q : SeqId) (v : Seq) : (c.setSeq q v).ord = c.ord := by cases q <;> rfl
@[simp] theorem Core.updSeq_ord (c : Core) (q : SeqId) (g : Seq → Seq) : (c.updSeq q g).ord = c.ord := by simp [Core.updSeq]
@[simp] theorem Core.setSeq_bx (c : Core) (q : SeqId) (v : Seq) : (c.setSeq q v).bx = c.bx := by cases q <;> rfl
@[simp] theorem Core.updSeq_bx (c : Core) (q : SeqId) (g : Seq → Seq) : (c.updSeq q g).bx = c.bx := by simp [Core.updSeq]
@[simp] theorem Core.setSeq_errrec (c : Core) (q : SeqId) (v : Seq) : (c.setSeq q v).errrec = c.errrec := by cases q <;> rfl
@[simp] theorem Core.updSeq_errrec (c : Core) (q : SeqId) (g : Seq → Seq) : (c.updSeq q g).errrec = c.errrec := by simp [Core.updSeq]
@[simp] theorem Core.setSeq_mrf (c : Core) (q : SeqId) (v : Seq) : (c.setSeq q v).mrf = c.mrf := by cases q <;> rfl
@[simp] theorem Core.updSeq_mrf (c : Core) (q : SeqId) (g : Seq → Seq) : (c.updSeq q g).mrf = c.mrf := by simp [Core.updSeq]
@[simp] theorem Core.setSeq_acc (c : Core) (q : SeqId) (v : Seq) : (c.setSeq q v).acc = c.acc := by cases q <;> rfl
@[simp] theorem Core.updSeq_acc (c : Core) (q : SeqId) (g : Seq → Seq) : (c.updSeq q g).acc = c.acc := by simp [Core.updSeq]
@[simp] theorem Core.setSeq_spad (c : Core) (q : SeqId) (v : Seq) : (c.setSeq q v).spad = c.spad := by cases q <;> rfl
@[simp] theorem Core.updSeq_spad (c : Core) (q : SeqId) (g : Seq → Seq) : (c.updSeq q g).spad = c.spad := by simp [Core.updSeq]
@[simp] theorem Core.setSeq_spadUe (c : Core) (q : SeqId) (v : Seq) : (c.setSeq q v).spadUe = c.spadUe := by cases q <;> rfl
@[simp] theorem Core.updSeq_spadUe (c : Core) (q : SeqId) (g : Seq → Seq) : (c.updSeq q g).spadUe = c.spadUe := by simp [Core.updSeq]
@[simp] theorem Core.setSeq_veil (c : Core) (q : SeqId) (v : Seq) : (c.setSeq q v).veil = c.veil := by cases q <;> rfl
@[simp] theorem Core.updSeq_veil (c : Core) (q : SeqId) (g : Seq → Seq) : (c.updSeq q g).veil = c.veil := by simp [Core.updSeq]
@[simp] theorem Core.setSeq_drives (c : Core) (q : SeqId) (v : Seq) : (c.setSeq q v).drives = c.drives := by cases q <;> rfl
@[simp] theorem Core.updSeq_drives (c : Core) (q : SeqId) (g : Seq → Seq) : (c.updSeq q g).drives = c.drives := by simp [Core.updSeq]
@[simp] theorem Core.setSeq_slotRes (c : Core) (q : SeqId) (v : Seq) : (c.setSeq q v).slotRes = c.slotRes := by cases q <;> rfl
@[simp] theorem Core.updSeq_slotRes (c : Core) (q : SeqId) (g : Seq → Seq) : (c.updSeq q g).slotRes = c.slotRes := by simp [Core.updSeq]
@[simp] theorem Core.setSeq_slotLast (c : Core) (q : SeqId) (v : Seq) : (c.setSeq q v).slotLast = c.slotLast := by cases q <;> rfl
@[simp] theorem Core.updSeq_slotLast (c : Core) (q : SeqId) (g : Seq → Seq) : (c.updSeq q g).slotLast = c.slotLast := by simp [Core.updSeq]
@[simp] theorem Core.setSeq_lateReads (c : Core) (q : SeqId) (v : Seq) : (c.setSeq q v).lateReads = c.lateReads := by cases q <;> rfl
@[simp] theorem Core.updSeq_lateReads (c : Core) (q : SeqId) (g : Seq → Seq) : (c.updSeq q g).lateReads = c.lateReads := by simp [Core.updSeq]
@[simp] theorem Core.setSeq_lateForms (c : Core) (q : SeqId) (v : Seq) : (c.setSeq q v).lateForms = c.lateForms := by cases q <;> rfl
@[simp] theorem Core.updSeq_lateForms (c : Core) (q : SeqId) (g : Seq → Seq) : (c.updSeq q g).lateForms = c.lateForms := by simp [Core.updSeq]
@[simp] theorem Core.setSeq_mwr (c : Core) (q : SeqId) (v : Seq) : (c.setSeq q v).mwr = c.mwr := by cases q <;> rfl
@[simp] theorem Core.updSeq_mwr (c : Core) (q : SeqId) (g : Seq → Seq) : (c.updSeq q g).mwr = c.mwr := by simp [Core.updSeq]
@[simp] theorem Core.setSeq_ports (c : Core) (q : SeqId) (v : Seq) : (c.setSeq q v).ports = c.ports := by cases q <;> rfl
@[simp] theorem Core.updSeq_ports (c : Core) (q : SeqId) (g : Seq → Seq) : (c.updSeq q g).ports = c.ports := by simp [Core.updSeq]
@[simp] theorem Core.setSeq_accWr (c : Core) (q : SeqId) (v : Seq) : (c.setSeq q v).accWr = c.accWr := by cases q <;> rfl
@[simp] theorem Core.updSeq_accWr (c : Core) (q : SeqId) (g : Seq → Seq) : (c.updSeq q g).accWr = c.accWr := by simp [Core.updSeq]
@[simp] theorem Core.setSeq_arr (c : Core) (q : SeqId) (v : Seq) : (c.setSeq q v).arr = c.arr := by cases q <;> rfl
@[simp] theorem Core.updSeq_arr (c : Core) (q : SeqId) (g : Seq → Seq) : (c.updSeq q g).arr = c.arr := by simp [Core.updSeq]
@[simp] theorem Core.setSeq_arrBusy (c : Core) (q : SeqId) (v : Seq) : (c.setSeq q v).arrBusy = c.arrBusy := by cases q <;> rfl
@[simp] theorem Core.updSeq_arrBusy (c : Core) (q : SeqId) (g : Seq → Seq) : (c.updSeq q g).arrBusy = c.arrBusy := by simp [Core.updSeq]
@[simp] theorem Core.setSeq_heldB (c : Core) (q : SeqId) (v : Seq) : (c.setSeq q v).heldB = c.heldB := by cases q <;> rfl
@[simp] theorem Core.updSeq_heldB (c : Core) (q : SeqId) (g : Seq → Seq) : (c.updSeq q g).heldB = c.heldB := by simp [Core.updSeq]
@[simp] theorem Core.setSeq_topkUntil (c : Core) (q : SeqId) (v : Seq) : (c.setSeq q v).topkUntil = c.topkUntil := by cases q <;> rfl
@[simp] theorem Core.updSeq_topkUntil (c : Core) (q : SeqId) (g : Seq → Seq) : (c.updSeq q g).topkUntil = c.topkUntil := by simp [Core.updSeq]
@[simp] theorem Core.setSeq_topk (c : Core) (q : SeqId) (v : Seq) : (c.setSeq q v).topk = c.topk := by cases q <;> rfl
@[simp] theorem Core.updSeq_topk (c : Core) (q : SeqId) (g : Seq → Seq) : (c.updSeq q g).topk = c.topk := by simp [Core.updSeq]
@[simp] theorem Core.setSeq_sideFree (c : Core) (q : SeqId) (v : Seq) : (c.setSeq q v).sideFree = c.sideFree := by cases q <;> rfl
@[simp] theorem Core.updSeq_sideFree (c : Core) (q : SeqId) (g : Seq → Seq) : (c.updSeq q g).sideFree = c.sideFree := by simp [Core.updSeq]
@[simp] theorem Core.setSeq_sideNow (c : Core) (q : SeqId) (v : Seq) : (c.setSeq q v).sideNow = c.sideNow := by cases q <;> rfl
@[simp] theorem Core.updSeq_sideNow (c : Core) (q : SeqId) (g : Seq → Seq) : (c.updSeq q g).sideNow = c.sideNow := by simp [Core.updSeq]
@[simp] theorem Core.setSeq_sideWr (c : Core) (q : SeqId) (v : Seq) : (c.setSeq q v).sideWr = c.sideWr := by cases q <;> rfl
@[simp] theorem Core.updSeq_sideWr (c : Core) (q : SeqId) (g : Seq → Seq) : (c.updSeq q g).sideWr = c.sideWr := by simp [Core.updSeq]
@[simp] theorem Core.setSeq_mxCount (c : Core) (q : SeqId) (v : Seq) : (c.setSeq q v).mxCount = c.mxCount := by cases q <;> rfl
@[simp] theorem Core.updSeq_mxCount (c : Core) (q : SeqId) (g : Seq → Seq) : (c.updSeq q g).mxCount = c.mxCount := by simp [Core.updSeq]
@[simp] theorem Core.setSeq_mxReads (c : Core) (q : SeqId) (v : Seq) : (c.setSeq q v).mxReads = c.mxReads := by cases q <;> rfl
@[simp] theorem Core.updSeq_mxReads (c : Core) (q : SeqId) (g : Seq → Seq) : (c.updSeq q g).mxReads = c.mxReads := by simp [Core.updSeq]
@[simp] theorem Core.setSeq_mxWrites (c : Core) (q : SeqId) (v : Seq) : (c.setSeq q v).mxWrites = c.mxWrites := by cases q <;> rfl
@[simp] theorem Core.updSeq_mxWrites (c : Core) (q : SeqId) (g : Seq → Seq) : (c.updSeq q g).mxWrites = c.mxWrites := by simp [Core.updSeq]
@[simp] theorem Core.setSeq_done (c : Core) (q : SeqId) (v : Seq) : (c.setSeq q v).done = c.done := by cases q <;> rfl
@[simp] theorem Core.updSeq_done (c : Core) (q : SeqId) (g : Seq → Seq) : (c.updSeq q g).done = c.done := by simp [Core.updSeq]
@[simp] theorem Core.setSeq_posts (c : Core) (q : SeqId) (v : Seq) : (c.setSeq q v).posts = c.posts := by cases q <;> rfl
@[simp] theorem Core.updSeq_posts (c : Core) (q : SeqId) (g : Seq → Seq) : (c.updSeq q g).posts = c.posts := by simp [Core.updSeq]
@[simp] theorem Core.setSeq_flight (c : Core) (q : SeqId) (v : Seq) : (c.setSeq q v).flight = c.flight := by cases q <;> rfl
@[simp] theorem Core.updSeq_flight (c : Core) (q : SeqId) (g : Seq → Seq) : (c.updSeq q g).flight = c.flight := by simp [Core.updSeq]
@[simp] theorem Core.setSeq_cmds (c : Core) (q : SeqId) (v : Seq) : (c.setSeq q v).cmds = c.cmds := by cases q <;> rfl
@[simp] theorem Core.updSeq_cmds (c : Core) (q : SeqId) (g : Seq → Seq) : (c.updSeq q g).cmds = c.cmds := by simp [Core.updSeq]
@[simp] theorem Core.setSeq_lastCopy (c : Core) (q : SeqId) (v : Seq) : (c.setSeq q v).lastCopy = c.lastCopy := by cases q <;> rfl
@[simp] theorem Core.updSeq_lastCopy (c : Core) (q : SeqId) (g : Seq → Seq) : (c.updSeq q g).lastCopy = c.lastCopy := by simp [Core.updSeq]
@[simp] theorem Core.setSeq_staged (c : Core) (q : SeqId) (v : Seq) : (c.setSeq q v).staged = c.staged := by cases q <;> rfl
@[simp] theorem Core.updSeq_staged (c : Core) (q : SeqId) (g : Seq → Seq) : (c.updSeq q g).staged = c.staged := by simp [Core.updSeq]
@[simp] theorem Core.setSeq_stagedDue (c : Core) (q : SeqId) (v : Seq) : (c.setSeq q v).stagedDue = c.stagedDue := by cases q <;> rfl
@[simp] theorem Core.updSeq_stagedDue (c : Core) (q : SeqId) (g : Seq → Seq) : (c.updSeq q g).stagedDue = c.stagedDue := by simp [Core.updSeq]
@[simp] theorem Core.setSeq_sae (c : Core) (q : SeqId) (v : Seq) : (c.setSeq q v).sae = c.sae := by cases q <;> rfl
@[simp] theorem Core.updSeq_sae (c : Core) (q : SeqId) (g : Seq → Seq) : (c.updSeq q g).sae = c.sae := by simp [Core.updSeq]
@[simp] theorem Core.setSeq_pend (c : Core) (q : SeqId) (v : Seq) : (c.setSeq q v).pend = c.pend := by cases q <;> rfl
@[simp] theorem Core.updSeq_pend (c : Core) (q : SeqId) (g : Seq → Seq) : (c.updSeq q g).pend = c.pend := by simp [Core.updSeq]
@[simp] theorem Core.setSeq_consumed (c : Core) (q : SeqId) (v : Seq) : (c.setSeq q v).consumed = c.consumed := by cases q <;> rfl
@[simp] theorem Core.updSeq_consumed (c : Core) (q : SeqId) (g : Seq → Seq) : (c.updSeq q g).consumed = c.consumed := by simp [Core.updSeq]
@[simp] theorem Core.setSeq_regions (c : Core) (q : SeqId) (v : Seq) : (c.setSeq q v).regions = c.regions := by cases q <;> rfl
@[simp] theorem Core.updSeq_regions (c : Core) (q : SeqId) (g : Seq → Seq) : (c.updSeq q g).regions = c.regions := by simp [Core.updSeq]
@[simp] theorem Core.setSeq_abort (c : Core) (q : SeqId) (v : Seq) : (c.setSeq q v).abort = c.abort := by cases q <;> rfl
@[simp] theorem Core.updSeq_abort (c : Core) (q : SeqId) (g : Seq → Seq) : (c.updSeq q g).abort = c.abort := by simp [Core.updSeq]
@[simp] theorem Core.setSeq_tlb (c : Core) (q : SeqId) (v : Seq) : (c.setSeq q v).tlb = c.tlb := by cases q <;> rfl
@[simp] theorem Core.updSeq_tlb (c : Core) (q : SeqId) (g : Seq → Seq) : (c.updSeq q g).tlb = c.tlb := by simp [Core.updSeq]
@[simp] theorem Core.setSeq_pulse (c : Core) (q : SeqId) (v : Seq) : (c.setSeq q v).pulse = c.pulse := by cases q <;> rfl
@[simp] theorem Core.updSeq_pulse (c : Core) (q : SeqId) (g : Seq → Seq) : (c.updSeq q g).pulse = c.pulse := by simp [Core.updSeq]
@[simp] theorem Core.setSeq_nextId (c : Core) (q : SeqId) (v : Seq) : (c.setSeq q v).nextId = c.nextId := by cases q <;> rfl
@[simp] theorem Core.updSeq_nextId (c : Core) (q : SeqId) (g : Seq → Seq) : (c.updSeq q g).nextId = c.nextId := by simp [Core.updSeq]
@[simp] theorem Core.setSeq_trapped (c : Core) (q : SeqId) (v : Seq) : (c.setSeq q v).trapped = c.trapped := by cases q <;> rfl
@[simp] theorem Core.updSeq_trapped (c : Core) (q : SeqId) (g : Seq → Seq) : (c.updSeq q g).trapped = c.trapped := by simp [Core.updSeq]
@[simp] theorem Core.setSeq_preTrap (c : Core) (q : SeqId) (v : Seq) : (c.setSeq q v).preTrap = c.preTrap := by cases q <;> rfl
@[simp] theorem Core.updSeq_preTrap (c : Core) (q : SeqId) (g : Seq → Seq) : (c.updSeq q g).preTrap = c.preTrap := by simp [Core.updSeq]
@[simp] theorem Core.setSeq_mxOver (c : Core) (q : SeqId) (v : Seq) : (c.setSeq q v).mxOver = c.mxOver := by cases q <;> rfl
@[simp] theorem Core.updSeq_mxOver (c : Core) (q : SeqId) (g : Seq → Seq) : (c.updSeq q g).mxOver = c.mxOver := by simp [Core.updSeq]
@[simp] theorem Core.setSeq_pOld (c : Core) (q : SeqId) (v : Seq) : (c.setSeq q v).pOld = c.pOld := by cases q <;> rfl
@[simp] theorem Core.updSeq_pOld (c : Core) (q : SeqId) (g : Seq → Seq) : (c.updSeq q g).pOld = c.pOld := by simp [Core.updSeq]
@[simp] theorem Core.setSeq_reads (c : Core) (q : SeqId) (v : Seq) : (c.setSeq q v).reads = c.reads := by cases q <;> rfl
@[simp] theorem Core.updSeq_reads (c : Core) (q : SeqId) (g : Seq → Seq) : (c.updSeq q g).reads = c.reads := by simp [Core.updSeq]
@[simp] theorem Core.setSeq_resuming (c : Core) (q : SeqId) (v : Seq) : (c.setSeq q v).resuming = c.resuming := by cases q <;> rfl
@[simp] theorem Core.updSeq_resuming (c : Core) (q : SeqId) (g : Seq → Seq) : (c.updSeq q g).resuming = c.resuming := by simp [Core.updSeq]
@[simp] theorem Core.setSeq_mxWait (c : Core) (q : SeqId) (v : Seq) : (c.setSeq q v).mxWait = c.mxWait := by cases q <;> rfl
@[simp] theorem Core.updSeq_mxWait (c : Core) (q : SeqId) (g : Seq → Seq) : (c.updSeq q g).mxWait = c.mxWait := by simp [Core.updSeq]
@[simp] theorem Core.setSeq_ilk (c : Core) (q : SeqId) (v : Seq) : (c.setSeq q v).ilk = c.ilk := by cases q <;> rfl
@[simp] theorem Core.updSeq_ilk (c : Core) (q : SeqId) (g : Seq → Seq) : (c.updSeq q g).ilk = c.ilk := by simp [Core.updSeq]
@[simp] theorem Core.setSeq_replayLeft (c : Core) (q : SeqId) (v : Seq) : (c.setSeq q v).replayLeft = c.replayLeft := by cases q <;> rfl
@[simp] theorem Core.updSeq_replayLeft (c : Core) (q : SeqId) (g : Seq → Seq) : (c.updSeq q g).replayLeft = c.replayLeft := by simp [Core.updSeq]
@[simp] theorem Core.setSeq_drainForms (c : Core) (q : SeqId) (v : Seq) : (c.setSeq q v).drainForms = c.drainForms := by cases q <;> rfl
@[simp] theorem Core.updSeq_drainForms (c : Core) (q : SeqId) (g : Seq → Seq) : (c.updSeq q g).drainForms = c.drainForms := by simp [Core.updSeq]
@[simp] theorem Core.setSeq_ended (c : Core) (q : SeqId) (v : Seq) : (c.setSeq q v).ended = c.ended := by cases q <;> rfl
@[simp] theorem Core.updSeq_ended (c : Core) (q : SeqId) (g : Seq → Seq) : (c.updSeq q g).ended = c.ended := by simp [Core.updSeq]
@[simp] theorem Core.setSeq_leaveAt (c : Core) (q : SeqId) (v : Seq) : (c.setSeq q v).leaveAt = c.leaveAt := by cases q <;> rfl
@[simp] theorem Core.updSeq_leaveAt (c : Core) (q : SeqId) (g : Seq → Seq) : (c.updSeq q g).leaveAt = c.leaveAt := by simp [Core.updSeq]
@[simp] theorem Core.setSeq_restored (c : Core) (q : SeqId) (v : Seq) : (c.setSeq q v).restored = c.restored := by cases q <;> rfl
@[simp] theorem Core.updSeq_restored (c : Core) (q : SeqId) (g : Seq → Seq) : (c.updSeq q g).restored = c.restored := by simp [Core.updSeq]
@[simp] theorem Core.setSeq_preempt (c : Core) (q : SeqId) (v : Seq) : (c.setSeq q v).preempt = c.preempt := by cases q <;> rfl
@[simp] theorem Core.updSeq_preempt (c : Core) (q : SeqId) (g : Seq → Seq) : (c.updSeq q g).preempt = c.preempt := by simp [Core.updSeq]
@[simp] theorem Core.setSeq_rtWait (c : Core) (q : SeqId) (v : Seq) : (c.setSeq q v).rtWait = c.rtWait := by cases q <;> rfl
@[simp] theorem Core.updSeq_rtWait (c : Core) (q : SeqId) (g : Seq → Seq) : (c.updSeq q g).rtWait = c.rtWait := by simp [Core.updSeq]
@[simp] theorem Core.setSeq_lost (c : Core) (q : SeqId) (v : Seq) : (c.setSeq q v).lost = c.lost := by cases q <;> rfl
@[simp] theorem Core.updSeq_lost (c : Core) (q : SeqId) (g : Seq → Seq) : (c.updSeq q g).lost = c.lost := by simp [Core.updSeq]
@[simp] theorem Core.setSeq_map (c : Core) (q : SeqId) (v : Seq) : (c.setSeq q v).map = c.map := by cases q <;> rfl
@[simp] theorem Core.updSeq_map (c : Core) (q : SeqId) (g : Seq → Seq) : (c.updSeq q g).map = c.map := by simp [Core.updSeq]

/-! Completions and posts. -/

@[simp] theorem Core.complete_die (c : Core) (q : SeqId) (pc : Word) (n : Nat) (ws : List RegWrite) (b : BitVec 8) : (c.complete q pc n ws b).die = c.die := rfl
@[simp] theorem Core.complete_cluster (c : Core) (q : SeqId) (pc : Word) (n : Nat) (ws : List RegWrite) (b : BitVec 8) : (c.complete q pc n ws b).cluster = c.cluster := rfl
@[simp] theorem Core.complete_core (c : Core) (q : SeqId) (pc : Word) (n : Nat) (ws : List RegWrite) (b : BitVec 8) : (c.complete q pc n ws b).core = c.core := rfl
@[simp] theorem Core.complete_status (c : Core) (q : SeqId) (pc : Word) (n : Nat) (ws : List RegWrite) (b : BitVec 8) : (c.complete q pc n ws b).status = c.status := rfl
@[simp] theorem Core.complete_task (c : Core) (q : SeqId) (pc : Word) (n : Nat) (ws : List RegWrite) (b : BitVec 8) : (c.complete q pc n ws b).task = c.task := rfl
@[simp] theorem Core.complete_ct (c : Core) (q : SeqId) (pc : Word) (n : Nat) (ws : List RegWrite) (b : BitVec 8) : (c.complete q pc n ws b).ct = c.ct := rfl
@[simp] theorem Core.complete_ld (c : Core) (q : SeqId) (pc : Word) (n : Nat) (ws : List RegWrite) (b : BitVec 8) : (c.complete q pc n ws b).ld = c.ld := rfl
@[simp] theorem Core.complete_mx (c : Core) (q : SeqId) (pc : Word) (n : Nat) (ws : List RegWrite) (b : BitVec 8) : (c.complete q pc n ws b).mx = c.mx := rfl
@[simp] theorem Core.complete_st (c : Core) (q : SeqId) (pc : Word) (n : Nat) (ws : List RegWrite) (b : BitVec 8) : (c.complete q pc n ws b).st = c.st := rfl
@[simp] theorem Core.complete_tl (c : Core) (q : SeqId) (pc : Word) (n : Nat) (ws : List RegWrite) (b : BitVec 8) : (c.complete q pc n ws b).tl = c.tl := rfl
@[simp] theorem Core.complete_ecause1 (c : Core) (q : SeqId) (pc : Word) (n : Nat) (ws : List RegWrite) (b : BitVec 8) : (c.complete q pc n ws b).ecause1 = c.ecause1 := rfl
@[simp] theorem Core.complete_ecause2 (c : Core) (q : SeqId) (pc : Word) (n : Nat) (ws : List RegWrite) (b : BitVec 8) : (c.complete q pc n ws b).ecause2 = c.ecause2 := rfl
@[simp] theorem Core.complete_epc1 (c : Core) (q : SeqId) (pc : Word) (n : Nat) (ws : List RegWrite) (b : BitVec 8) : (c.complete q pc n ws b).epc1 = c.epc1 := rfl
@[simp] theorem Core.complete_epc2 (c : Core) (q : SeqId) (pc : Word) (n : Nat) (ws : List RegWrite) (b : BitVec 8) : (c.complete q pc n ws b).epc2 = c.epc2 := rfl
@[simp] theorem Core.complete_eaddr1 (c : Core) (q : SeqId) (pc : Word) (n : Nat) (ws : List RegWrite) (b : BitVec 8) : (c.complete q pc n ws b).eaddr1 = c.eaddr1 := rfl
@[simp] theorem Core.complete_eaddr2 (c : Core) (q : SeqId) (pc : Word) (n : Nat) (ws : List RegWrite) (b : BitVec 8) : (c.complete q pc n ws b).eaddr2 = c.eaddr2 := rfl
@[simp] theorem Core.complete_eseq1 (c : Core) (q : SeqId) (pc : Word) (n : Nat) (ws : List RegWrite) (b : BitVec 8) : (c.complete q pc n ws b).eseq1 = c.eseq1 := rfl
@[simp] theorem Core.complete_eseq2 (c : Core) (q : SeqId) (pc : Word) (n : Nat) (ws : List RegWrite) (b : BitVec 8) : (c.complete q pc n ws b).eseq2 = c.eseq2 := rfl
@[simp] theorem Core.complete_tvec1 (c : Core) (q : SeqId) (pc : Word) (n : Nat) (ws : List RegWrite) (b : BitVec 8) : (c.complete q pc n ws b).tvec1 = c.tvec1 := rfl
@[simp] theorem Core.complete_tvec2 (c : Core) (q : SeqId) (pc : Word) (n : Nat) (ws : List RegWrite) (b : BitVec 8) : (c.complete q pc n ws b).tvec2 = c.tvec2 := rfl
@[simp] theorem Core.complete_ret1 (c : Core) (q : SeqId) (pc : Word) (n : Nat) (ws : List RegWrite) (b : BitVec 8) : (c.complete q pc n ws b).ret1 = c.ret1 := rfl
@[simp] theorem Core.complete_ctWd (c : Core) (q : SeqId) (pc : Word) (n : Nat) (ws : List RegWrite) (b : BitVec 8) : (c.complete q pc n ws b).ctWd = c.ctWd := rfl
@[simp] theorem Core.complete_ret2 (c : Core) (q : SeqId) (pc : Word) (n : Nat) (ws : List RegWrite) (b : BitVec 8) : (c.complete q pc n ws b).ret2 = c.ret2 := rfl
@[simp] theorem Core.complete_chkcfg (c : Core) (q : SeqId) (pc : Word) (n : Nat) (ws : List RegWrite) (b : BitVec 8) : (c.complete q pc n ws b).chkcfg = c.chkcfg := rfl
@[simp] theorem Core.complete_cycle (c : Core) (q : SeqId) (pc : Word) (n : Nat) (ws : List RegWrite) (b : BitVec 8) : (c.complete q pc n ws b).cycle = c.cycle := rfl
@[simp] theorem Core.complete_mapver (c : Core) (q : SeqId) (pc : Word) (n : Nat) (ws : List RegWrite) (b : BitVec 8) : (c.complete q pc n ws b).mapver = c.mapver := rfl
@[simp] theorem Core.complete_coreClass (c : Core) (q : SeqId) (pc : Word) (n : Nat) (ws : List RegWrite) (b : BitVec 8) : (c.complete q pc n ws b).coreClass = c.coreClass := rfl
@[simp] theorem Core.complete_rbase (c : Core) (q : SeqId) (pc : Word) (n : Nat) (ws : List RegWrite) (b : BitVec 8) : (c.complete q pc n ws b).rbase = c.rbase := rfl
@[simp] theorem Core.complete_bvalid (c : Core) (q : SeqId) (pc : Word) (n : Nat) (ws : List RegWrite) (b : BitVec 8) : (c.complete q pc n ws b).bvalid = c.bvalid := rfl
@[simp] theorem Core.complete_suspended (c : Core) (q : SeqId) (pc : Word) (n : Nat) (ws : List RegWrite) (b : BitVec 8) : (c.complete q pc n ws b).suspended = c.suspended := rfl
@[simp] theorem Core.complete_tkwdog (c : Core) (q : SeqId) (pc : Word) (n : Nat) (ws : List RegWrite) (b : BitVec 8) : (c.complete q pc n ws b).tkwdog = c.tkwdog := rfl
@[simp] theorem Core.complete_fstat (c : Core) (q : SeqId) (pc : Word) (n : Nat) (ws : List RegWrite) (b : BitVec 8) : (c.complete q pc n ws b).fstat = c.fstat := rfl
@[simp] theorem Core.complete_replays (c : Core) (q : SeqId) (pc : Word) (n : Nat) (ws : List RegWrite) (b : BitVec 8) : (c.complete q pc n ws b).replays = c.replays := rfl
@[simp] theorem Core.complete_bf (c : Core) (q : SeqId) (pc : Word) (n : Nat) (ws : List RegWrite) (b : BitVec 8) : (c.complete q pc n ws b).bf = c.bf := rfl
@[simp] theorem Core.complete_hnd (c : Core) (q : SeqId) (pc : Word) (n : Nat) (ws : List RegWrite) (b : BitVec 8) : (c.complete q pc n ws b).hnd = c.hnd := rfl
@[simp] theorem Core.complete_tok (c : Core) (q : SeqId) (pc : Word) (n : Nat) (ws : List RegWrite) (b : BitVec 8) : (c.complete q pc n ws b).tok = c.tok := rfl
@[simp] theorem Core.complete_ord (c : Core) (q : SeqId) (pc : Word) (n : Nat) (ws : List RegWrite) (b : BitVec 8) : (c.complete q pc n ws b).ord = c.ord := rfl
@[simp] theorem Core.complete_bx (c : Core) (q : SeqId) (pc : Word) (n : Nat) (ws : List RegWrite) (b : BitVec 8) : (c.complete q pc n ws b).bx = c.bx := rfl
@[simp] theorem Core.complete_errrec (c : Core) (q : SeqId) (pc : Word) (n : Nat) (ws : List RegWrite) (b : BitVec 8) : (c.complete q pc n ws b).errrec = c.errrec := rfl
@[simp] theorem Core.complete_mrf (c : Core) (q : SeqId) (pc : Word) (n : Nat) (ws : List RegWrite) (b : BitVec 8) : (c.complete q pc n ws b).mrf = c.mrf := rfl
@[simp] theorem Core.complete_acc (c : Core) (q : SeqId) (pc : Word) (n : Nat) (ws : List RegWrite) (b : BitVec 8) : (c.complete q pc n ws b).acc = c.acc := rfl
@[simp] theorem Core.complete_spad (c : Core) (q : SeqId) (pc : Word) (n : Nat) (ws : List RegWrite) (b : BitVec 8) : (c.complete q pc n ws b).spad = c.spad := rfl
@[simp] theorem Core.complete_spadUe (c : Core) (q : SeqId) (pc : Word) (n : Nat) (ws : List RegWrite) (b : BitVec 8) : (c.complete q pc n ws b).spadUe = c.spadUe := rfl
@[simp] theorem Core.complete_veil (c : Core) (q : SeqId) (pc : Word) (n : Nat) (ws : List RegWrite) (b : BitVec 8) : (c.complete q pc n ws b).veil = c.veil := rfl
@[simp] theorem Core.complete_drives (c : Core) (q : SeqId) (pc : Word) (n : Nat) (ws : List RegWrite) (b : BitVec 8) : (c.complete q pc n ws b).drives = c.drives := rfl
@[simp] theorem Core.complete_slotRes (c : Core) (q : SeqId) (pc : Word) (n : Nat) (ws : List RegWrite) (b : BitVec 8) : (c.complete q pc n ws b).slotRes = c.slotRes := rfl
@[simp] theorem Core.complete_slotLast (c : Core) (q : SeqId) (pc : Word) (n : Nat) (ws : List RegWrite) (b : BitVec 8) : (c.complete q pc n ws b).slotLast = c.slotLast := rfl
@[simp] theorem Core.complete_lateReads (c : Core) (q : SeqId) (pc : Word) (n : Nat) (ws : List RegWrite) (b : BitVec 8) : (c.complete q pc n ws b).lateReads = c.lateReads := rfl
@[simp] theorem Core.complete_lateForms (c : Core) (q : SeqId) (pc : Word) (n : Nat) (ws : List RegWrite) (b : BitVec 8) : (c.complete q pc n ws b).lateForms = c.lateForms := rfl
@[simp] theorem Core.complete_mwr (c : Core) (q : SeqId) (pc : Word) (n : Nat) (ws : List RegWrite) (b : BitVec 8) : (c.complete q pc n ws b).mwr = c.mwr := rfl
@[simp] theorem Core.complete_ports (c : Core) (q : SeqId) (pc : Word) (n : Nat) (ws : List RegWrite) (b : BitVec 8) : (c.complete q pc n ws b).ports = c.ports := rfl
@[simp] theorem Core.complete_accWr (c : Core) (q : SeqId) (pc : Word) (n : Nat) (ws : List RegWrite) (b : BitVec 8) : (c.complete q pc n ws b).accWr = c.accWr := rfl
@[simp] theorem Core.complete_arr (c : Core) (q : SeqId) (pc : Word) (n : Nat) (ws : List RegWrite) (b : BitVec 8) : (c.complete q pc n ws b).arr = c.arr := rfl
@[simp] theorem Core.complete_arrBusy (c : Core) (q : SeqId) (pc : Word) (n : Nat) (ws : List RegWrite) (b : BitVec 8) : (c.complete q pc n ws b).arrBusy = c.arrBusy := rfl
@[simp] theorem Core.complete_heldB (c : Core) (q : SeqId) (pc : Word) (n : Nat) (ws : List RegWrite) (b : BitVec 8) : (c.complete q pc n ws b).heldB = c.heldB := rfl
@[simp] theorem Core.complete_topkUntil (c : Core) (q : SeqId) (pc : Word) (n : Nat) (ws : List RegWrite) (b : BitVec 8) : (c.complete q pc n ws b).topkUntil = c.topkUntil := rfl
@[simp] theorem Core.complete_topk (c : Core) (q : SeqId) (pc : Word) (n : Nat) (ws : List RegWrite) (b : BitVec 8) : (c.complete q pc n ws b).topk = c.topk := rfl
@[simp] theorem Core.complete_sideFree (c : Core) (q : SeqId) (pc : Word) (n : Nat) (ws : List RegWrite) (b : BitVec 8) : (c.complete q pc n ws b).sideFree = c.sideFree := rfl
@[simp] theorem Core.complete_sideNow (c : Core) (q : SeqId) (pc : Word) (n : Nat) (ws : List RegWrite) (b : BitVec 8) : (c.complete q pc n ws b).sideNow = c.sideNow := rfl
@[simp] theorem Core.complete_sideWr (c : Core) (q : SeqId) (pc : Word) (n : Nat) (ws : List RegWrite) (b : BitVec 8) : (c.complete q pc n ws b).sideWr = c.sideWr := rfl
@[simp] theorem Core.complete_mxCount (c : Core) (q : SeqId) (pc : Word) (n : Nat) (ws : List RegWrite) (b : BitVec 8) : (c.complete q pc n ws b).mxCount = c.mxCount := rfl
@[simp] theorem Core.complete_mxReads (c : Core) (q : SeqId) (pc : Word) (n : Nat) (ws : List RegWrite) (b : BitVec 8) : (c.complete q pc n ws b).mxReads = c.mxReads := rfl
@[simp] theorem Core.complete_mxWrites (c : Core) (q : SeqId) (pc : Word) (n : Nat) (ws : List RegWrite) (b : BitVec 8) : (c.complete q pc n ws b).mxWrites = c.mxWrites := rfl
@[simp] theorem Core.complete_posts (c : Core) (q : SeqId) (pc : Word) (n : Nat) (ws : List RegWrite) (b : BitVec 8) : (c.complete q pc n ws b).posts = c.posts := rfl
@[simp] theorem Core.complete_flight (c : Core) (q : SeqId) (pc : Word) (n : Nat) (ws : List RegWrite) (b : BitVec 8) : (c.complete q pc n ws b).flight = c.flight := rfl
@[simp] theorem Core.complete_cmds (c : Core) (q : SeqId) (pc : Word) (n : Nat) (ws : List RegWrite) (b : BitVec 8) : (c.complete q pc n ws b).cmds = c.cmds := rfl
@[simp] theorem Core.complete_lastCopy (c : Core) (q : SeqId) (pc : Word) (n : Nat) (ws : List RegWrite) (b : BitVec 8) : (c.complete q pc n ws b).lastCopy = c.lastCopy := rfl
@[simp] theorem Core.complete_staged (c : Core) (q : SeqId) (pc : Word) (n : Nat) (ws : List RegWrite) (b : BitVec 8) : (c.complete q pc n ws b).staged = c.staged := rfl
@[simp] theorem Core.complete_stagedDue (c : Core) (q : SeqId) (pc : Word) (n : Nat) (ws : List RegWrite) (b : BitVec 8) : (c.complete q pc n ws b).stagedDue = c.stagedDue := rfl
@[simp] theorem Core.complete_sae (c : Core) (q : SeqId) (pc : Word) (n : Nat) (ws : List RegWrite) (b : BitVec 8) : (c.complete q pc n ws b).sae = c.sae := rfl
@[simp] theorem Core.complete_pend (c : Core) (q : SeqId) (pc : Word) (n : Nat) (ws : List RegWrite) (b : BitVec 8) : (c.complete q pc n ws b).pend = c.pend := rfl
@[simp] theorem Core.complete_consumed (c : Core) (q : SeqId) (pc : Word) (n : Nat) (ws : List RegWrite) (b : BitVec 8) : (c.complete q pc n ws b).consumed = c.consumed := rfl
@[simp] theorem Core.complete_regions (c : Core) (q : SeqId) (pc : Word) (n : Nat) (ws : List RegWrite) (b : BitVec 8) : (c.complete q pc n ws b).regions = c.regions := rfl
@[simp] theorem Core.complete_abort (c : Core) (q : SeqId) (pc : Word) (n : Nat) (ws : List RegWrite) (b : BitVec 8) : (c.complete q pc n ws b).abort = c.abort := rfl
@[simp] theorem Core.complete_tlb (c : Core) (q : SeqId) (pc : Word) (n : Nat) (ws : List RegWrite) (b : BitVec 8) : (c.complete q pc n ws b).tlb = c.tlb := rfl
@[simp] theorem Core.complete_pulse (c : Core) (q : SeqId) (pc : Word) (n : Nat) (ws : List RegWrite) (b : BitVec 8) : (c.complete q pc n ws b).pulse = c.pulse := rfl
@[simp] theorem Core.complete_trapped (c : Core) (q : SeqId) (pc : Word) (n : Nat) (ws : List RegWrite) (b : BitVec 8) : (c.complete q pc n ws b).trapped = c.trapped := rfl
@[simp] theorem Core.complete_preTrap (c : Core) (q : SeqId) (pc : Word) (n : Nat) (ws : List RegWrite) (b : BitVec 8) : (c.complete q pc n ws b).preTrap = c.preTrap := rfl
@[simp] theorem Core.complete_mxOver (c : Core) (q : SeqId) (pc : Word) (n : Nat) (ws : List RegWrite) (b : BitVec 8) : (c.complete q pc n ws b).mxOver = c.mxOver := rfl
@[simp] theorem Core.complete_pOld (c : Core) (q : SeqId) (pc : Word) (n : Nat) (ws : List RegWrite) (b : BitVec 8) : (c.complete q pc n ws b).pOld = c.pOld := rfl
@[simp] theorem Core.complete_reads (c : Core) (q : SeqId) (pc : Word) (n : Nat) (ws : List RegWrite) (b : BitVec 8) : (c.complete q pc n ws b).reads = c.reads := rfl
@[simp] theorem Core.complete_resuming (c : Core) (q : SeqId) (pc : Word) (n : Nat) (ws : List RegWrite) (b : BitVec 8) : (c.complete q pc n ws b).resuming = c.resuming := rfl
@[simp] theorem Core.complete_mxWait (c : Core) (q : SeqId) (pc : Word) (n : Nat) (ws : List RegWrite) (b : BitVec 8) : (c.complete q pc n ws b).mxWait = c.mxWait := rfl
@[simp] theorem Core.complete_ilk (c : Core) (q : SeqId) (pc : Word) (n : Nat) (ws : List RegWrite) (b : BitVec 8) : (c.complete q pc n ws b).ilk = c.ilk := rfl
@[simp] theorem Core.complete_replayLeft (c : Core) (q : SeqId) (pc : Word) (n : Nat) (ws : List RegWrite) (b : BitVec 8) : (c.complete q pc n ws b).replayLeft = c.replayLeft := rfl
@[simp] theorem Core.complete_drainForms (c : Core) (q : SeqId) (pc : Word) (n : Nat) (ws : List RegWrite) (b : BitVec 8) : (c.complete q pc n ws b).drainForms = c.drainForms := rfl
@[simp] theorem Core.complete_ended (c : Core) (q : SeqId) (pc : Word) (n : Nat) (ws : List RegWrite) (b : BitVec 8) : (c.complete q pc n ws b).ended = c.ended := rfl
@[simp] theorem Core.complete_leaveAt (c : Core) (q : SeqId) (pc : Word) (n : Nat) (ws : List RegWrite) (b : BitVec 8) : (c.complete q pc n ws b).leaveAt = c.leaveAt := rfl
@[simp] theorem Core.complete_restored (c : Core) (q : SeqId) (pc : Word) (n : Nat) (ws : List RegWrite) (b : BitVec 8) : (c.complete q pc n ws b).restored = c.restored := rfl
@[simp] theorem Core.complete_preempt (c : Core) (q : SeqId) (pc : Word) (n : Nat) (ws : List RegWrite) (b : BitVec 8) : (c.complete q pc n ws b).preempt = c.preempt := rfl
@[simp] theorem Core.complete_rtWait (c : Core) (q : SeqId) (pc : Word) (n : Nat) (ws : List RegWrite) (b : BitVec 8) : (c.complete q pc n ws b).rtWait = c.rtWait := rfl
@[simp] theorem Core.complete_lost (c : Core) (q : SeqId) (pc : Word) (n : Nat) (ws : List RegWrite) (b : BitVec 8) : (c.complete q pc n ws b).lost = c.lost := rfl
@[simp] theorem Core.complete_map (c : Core) (q : SeqId) (pc : Word) (n : Nat) (ws : List RegWrite) (b : BitVec 8) : (c.complete q pc n ws b).map = c.map := rfl
@[simp] theorem Core.post_die (c : Core) (n : Nat) (q : SeqId) (pc : Word) (b : BitVec 8) : (c.post n q pc b).die = c.die := by unfold Core.post; split <;> rfl
@[simp] theorem Core.post_cluster (c : Core) (n : Nat) (q : SeqId) (pc : Word) (b : BitVec 8) : (c.post n q pc b).cluster = c.cluster := by unfold Core.post; split <;> rfl
@[simp] theorem Core.post_core (c : Core) (n : Nat) (q : SeqId) (pc : Word) (b : BitVec 8) : (c.post n q pc b).core = c.core := by unfold Core.post; split <;> rfl
@[simp] theorem Core.post_status (c : Core) (n : Nat) (q : SeqId) (pc : Word) (b : BitVec 8) : (c.post n q pc b).status = c.status := by unfold Core.post; split <;> rfl
@[simp] theorem Core.post_task (c : Core) (n : Nat) (q : SeqId) (pc : Word) (b : BitVec 8) : (c.post n q pc b).task = c.task := by unfold Core.post; split <;> rfl
@[simp] theorem Core.post_ct (c : Core) (n : Nat) (q : SeqId) (pc : Word) (b : BitVec 8) : (c.post n q pc b).ct = c.ct := by unfold Core.post; split <;> rfl
@[simp] theorem Core.post_ld (c : Core) (n : Nat) (q : SeqId) (pc : Word) (b : BitVec 8) : (c.post n q pc b).ld = c.ld := by unfold Core.post; split <;> rfl
@[simp] theorem Core.post_mx (c : Core) (n : Nat) (q : SeqId) (pc : Word) (b : BitVec 8) : (c.post n q pc b).mx = c.mx := by unfold Core.post; split <;> rfl
@[simp] theorem Core.post_st (c : Core) (n : Nat) (q : SeqId) (pc : Word) (b : BitVec 8) : (c.post n q pc b).st = c.st := by unfold Core.post; split <;> rfl
@[simp] theorem Core.post_tl (c : Core) (n : Nat) (q : SeqId) (pc : Word) (b : BitVec 8) : (c.post n q pc b).tl = c.tl := by unfold Core.post; split <;> rfl
@[simp] theorem Core.post_ecause1 (c : Core) (n : Nat) (q : SeqId) (pc : Word) (b : BitVec 8) : (c.post n q pc b).ecause1 = c.ecause1 := by unfold Core.post; split <;> rfl
@[simp] theorem Core.post_ecause2 (c : Core) (n : Nat) (q : SeqId) (pc : Word) (b : BitVec 8) : (c.post n q pc b).ecause2 = c.ecause2 := by unfold Core.post; split <;> rfl
@[simp] theorem Core.post_epc1 (c : Core) (n : Nat) (q : SeqId) (pc : Word) (b : BitVec 8) : (c.post n q pc b).epc1 = c.epc1 := by unfold Core.post; split <;> rfl
@[simp] theorem Core.post_epc2 (c : Core) (n : Nat) (q : SeqId) (pc : Word) (b : BitVec 8) : (c.post n q pc b).epc2 = c.epc2 := by unfold Core.post; split <;> rfl
@[simp] theorem Core.post_eaddr1 (c : Core) (n : Nat) (q : SeqId) (pc : Word) (b : BitVec 8) : (c.post n q pc b).eaddr1 = c.eaddr1 := by unfold Core.post; split <;> rfl
@[simp] theorem Core.post_eaddr2 (c : Core) (n : Nat) (q : SeqId) (pc : Word) (b : BitVec 8) : (c.post n q pc b).eaddr2 = c.eaddr2 := by unfold Core.post; split <;> rfl
@[simp] theorem Core.post_eseq1 (c : Core) (n : Nat) (q : SeqId) (pc : Word) (b : BitVec 8) : (c.post n q pc b).eseq1 = c.eseq1 := by unfold Core.post; split <;> rfl
@[simp] theorem Core.post_eseq2 (c : Core) (n : Nat) (q : SeqId) (pc : Word) (b : BitVec 8) : (c.post n q pc b).eseq2 = c.eseq2 := by unfold Core.post; split <;> rfl
@[simp] theorem Core.post_tvec1 (c : Core) (n : Nat) (q : SeqId) (pc : Word) (b : BitVec 8) : (c.post n q pc b).tvec1 = c.tvec1 := by unfold Core.post; split <;> rfl
@[simp] theorem Core.post_tvec2 (c : Core) (n : Nat) (q : SeqId) (pc : Word) (b : BitVec 8) : (c.post n q pc b).tvec2 = c.tvec2 := by unfold Core.post; split <;> rfl
@[simp] theorem Core.post_ret1 (c : Core) (n : Nat) (q : SeqId) (pc : Word) (b : BitVec 8) : (c.post n q pc b).ret1 = c.ret1 := by unfold Core.post; split <;> rfl
@[simp] theorem Core.post_ctWd (c : Core) (n : Nat) (q : SeqId) (pc : Word) (b : BitVec 8) : (c.post n q pc b).ctWd = c.ctWd := by unfold Core.post; split <;> rfl
@[simp] theorem Core.post_ret2 (c : Core) (n : Nat) (q : SeqId) (pc : Word) (b : BitVec 8) : (c.post n q pc b).ret2 = c.ret2 := by unfold Core.post; split <;> rfl
@[simp] theorem Core.post_chkcfg (c : Core) (n : Nat) (q : SeqId) (pc : Word) (b : BitVec 8) : (c.post n q pc b).chkcfg = c.chkcfg := by unfold Core.post; split <;> rfl
@[simp] theorem Core.post_cycle (c : Core) (n : Nat) (q : SeqId) (pc : Word) (b : BitVec 8) : (c.post n q pc b).cycle = c.cycle := by unfold Core.post; split <;> rfl
@[simp] theorem Core.post_mapver (c : Core) (n : Nat) (q : SeqId) (pc : Word) (b : BitVec 8) : (c.post n q pc b).mapver = c.mapver := by unfold Core.post; split <;> rfl
@[simp] theorem Core.post_coreClass (c : Core) (n : Nat) (q : SeqId) (pc : Word) (b : BitVec 8) : (c.post n q pc b).coreClass = c.coreClass := by unfold Core.post; split <;> rfl
@[simp] theorem Core.post_rbase (c : Core) (n : Nat) (q : SeqId) (pc : Word) (b : BitVec 8) : (c.post n q pc b).rbase = c.rbase := by unfold Core.post; split <;> rfl
@[simp] theorem Core.post_bvalid (c : Core) (n : Nat) (q : SeqId) (pc : Word) (b : BitVec 8) : (c.post n q pc b).bvalid = c.bvalid := by unfold Core.post; split <;> rfl
@[simp] theorem Core.post_suspended (c : Core) (n : Nat) (q : SeqId) (pc : Word) (b : BitVec 8) : (c.post n q pc b).suspended = c.suspended := by unfold Core.post; split <;> rfl
@[simp] theorem Core.post_tkwdog (c : Core) (n : Nat) (q : SeqId) (pc : Word) (b : BitVec 8) : (c.post n q pc b).tkwdog = c.tkwdog := by unfold Core.post; split <;> rfl
@[simp] theorem Core.post_fstat (c : Core) (n : Nat) (q : SeqId) (pc : Word) (b : BitVec 8) : (c.post n q pc b).fstat = c.fstat := by unfold Core.post; split <;> rfl
@[simp] theorem Core.post_replays (c : Core) (n : Nat) (q : SeqId) (pc : Word) (b : BitVec 8) : (c.post n q pc b).replays = c.replays := by unfold Core.post; split <;> rfl
@[simp] theorem Core.post_bf (c : Core) (n : Nat) (q : SeqId) (pc : Word) (b : BitVec 8) : (c.post n q pc b).bf = c.bf := by unfold Core.post; split <;> rfl
@[simp] theorem Core.post_hnd (c : Core) (n : Nat) (q : SeqId) (pc : Word) (b : BitVec 8) : (c.post n q pc b).hnd = c.hnd := by unfold Core.post; split <;> rfl
@[simp] theorem Core.post_tok (c : Core) (n : Nat) (q : SeqId) (pc : Word) (b : BitVec 8) : (c.post n q pc b).tok = c.tok := by unfold Core.post; split <;> rfl
@[simp] theorem Core.post_ord (c : Core) (n : Nat) (q : SeqId) (pc : Word) (b : BitVec 8) : (c.post n q pc b).ord = c.ord := by unfold Core.post; split <;> rfl
@[simp] theorem Core.post_bx (c : Core) (n : Nat) (q : SeqId) (pc : Word) (b : BitVec 8) : (c.post n q pc b).bx = c.bx := by unfold Core.post; split <;> rfl
@[simp] theorem Core.post_errrec (c : Core) (n : Nat) (q : SeqId) (pc : Word) (b : BitVec 8) : (c.post n q pc b).errrec = c.errrec := by unfold Core.post; split <;> rfl
@[simp] theorem Core.post_mrf (c : Core) (n : Nat) (q : SeqId) (pc : Word) (b : BitVec 8) : (c.post n q pc b).mrf = c.mrf := by unfold Core.post; split <;> rfl
@[simp] theorem Core.post_acc (c : Core) (n : Nat) (q : SeqId) (pc : Word) (b : BitVec 8) : (c.post n q pc b).acc = c.acc := by unfold Core.post; split <;> rfl
@[simp] theorem Core.post_spad (c : Core) (n : Nat) (q : SeqId) (pc : Word) (b : BitVec 8) : (c.post n q pc b).spad = c.spad := by unfold Core.post; split <;> rfl
@[simp] theorem Core.post_spadUe (c : Core) (n : Nat) (q : SeqId) (pc : Word) (b : BitVec 8) : (c.post n q pc b).spadUe = c.spadUe := by unfold Core.post; split <;> rfl
@[simp] theorem Core.post_veil (c : Core) (n : Nat) (q : SeqId) (pc : Word) (b : BitVec 8) : (c.post n q pc b).veil = c.veil := by unfold Core.post; split <;> rfl
@[simp] theorem Core.post_drives (c : Core) (n : Nat) (q : SeqId) (pc : Word) (b : BitVec 8) : (c.post n q pc b).drives = c.drives := by unfold Core.post; split <;> rfl
@[simp] theorem Core.post_slotRes (c : Core) (n : Nat) (q : SeqId) (pc : Word) (b : BitVec 8) : (c.post n q pc b).slotRes = c.slotRes := by unfold Core.post; split <;> rfl
@[simp] theorem Core.post_slotLast (c : Core) (n : Nat) (q : SeqId) (pc : Word) (b : BitVec 8) : (c.post n q pc b).slotLast = c.slotLast := by unfold Core.post; split <;> rfl
@[simp] theorem Core.post_lateReads (c : Core) (n : Nat) (q : SeqId) (pc : Word) (b : BitVec 8) : (c.post n q pc b).lateReads = c.lateReads := by unfold Core.post; split <;> rfl
@[simp] theorem Core.post_lateForms (c : Core) (n : Nat) (q : SeqId) (pc : Word) (b : BitVec 8) : (c.post n q pc b).lateForms = c.lateForms := by unfold Core.post; split <;> rfl
@[simp] theorem Core.post_mwr (c : Core) (n : Nat) (q : SeqId) (pc : Word) (b : BitVec 8) : (c.post n q pc b).mwr = c.mwr := by unfold Core.post; split <;> rfl
@[simp] theorem Core.post_ports (c : Core) (n : Nat) (q : SeqId) (pc : Word) (b : BitVec 8) : (c.post n q pc b).ports = c.ports := by unfold Core.post; split <;> rfl
@[simp] theorem Core.post_accWr (c : Core) (n : Nat) (q : SeqId) (pc : Word) (b : BitVec 8) : (c.post n q pc b).accWr = c.accWr := by unfold Core.post; split <;> rfl
@[simp] theorem Core.post_arr (c : Core) (n : Nat) (q : SeqId) (pc : Word) (b : BitVec 8) : (c.post n q pc b).arr = c.arr := by unfold Core.post; split <;> rfl
@[simp] theorem Core.post_arrBusy (c : Core) (n : Nat) (q : SeqId) (pc : Word) (b : BitVec 8) : (c.post n q pc b).arrBusy = c.arrBusy := by unfold Core.post; split <;> rfl
@[simp] theorem Core.post_heldB (c : Core) (n : Nat) (q : SeqId) (pc : Word) (b : BitVec 8) : (c.post n q pc b).heldB = c.heldB := by unfold Core.post; split <;> rfl
@[simp] theorem Core.post_topkUntil (c : Core) (n : Nat) (q : SeqId) (pc : Word) (b : BitVec 8) : (c.post n q pc b).topkUntil = c.topkUntil := by unfold Core.post; split <;> rfl
@[simp] theorem Core.post_topk (c : Core) (n : Nat) (q : SeqId) (pc : Word) (b : BitVec 8) : (c.post n q pc b).topk = c.topk := by unfold Core.post; split <;> rfl
@[simp] theorem Core.post_sideFree (c : Core) (n : Nat) (q : SeqId) (pc : Word) (b : BitVec 8) : (c.post n q pc b).sideFree = c.sideFree := by unfold Core.post; split <;> rfl
@[simp] theorem Core.post_sideNow (c : Core) (n : Nat) (q : SeqId) (pc : Word) (b : BitVec 8) : (c.post n q pc b).sideNow = c.sideNow := by unfold Core.post; split <;> rfl
@[simp] theorem Core.post_sideWr (c : Core) (n : Nat) (q : SeqId) (pc : Word) (b : BitVec 8) : (c.post n q pc b).sideWr = c.sideWr := by unfold Core.post; split <;> rfl
@[simp] theorem Core.post_mxCount (c : Core) (n : Nat) (q : SeqId) (pc : Word) (b : BitVec 8) : (c.post n q pc b).mxCount = c.mxCount := by unfold Core.post; split <;> rfl
@[simp] theorem Core.post_mxReads (c : Core) (n : Nat) (q : SeqId) (pc : Word) (b : BitVec 8) : (c.post n q pc b).mxReads = c.mxReads := by unfold Core.post; split <;> rfl
@[simp] theorem Core.post_mxWrites (c : Core) (n : Nat) (q : SeqId) (pc : Word) (b : BitVec 8) : (c.post n q pc b).mxWrites = c.mxWrites := by unfold Core.post; split <;> rfl
@[simp] theorem Core.post_done (c : Core) (n : Nat) (q : SeqId) (pc : Word) (b : BitVec 8) : (c.post n q pc b).done = c.done := by unfold Core.post; split <;> rfl
@[simp] theorem Core.post_flight (c : Core) (n : Nat) (q : SeqId) (pc : Word) (b : BitVec 8) : (c.post n q pc b).flight = c.flight := by unfold Core.post; split <;> rfl
@[simp] theorem Core.post_cmds (c : Core) (n : Nat) (q : SeqId) (pc : Word) (b : BitVec 8) : (c.post n q pc b).cmds = c.cmds := by unfold Core.post; split <;> rfl
@[simp] theorem Core.post_lastCopy (c : Core) (n : Nat) (q : SeqId) (pc : Word) (b : BitVec 8) : (c.post n q pc b).lastCopy = c.lastCopy := by unfold Core.post; split <;> rfl
@[simp] theorem Core.post_staged (c : Core) (n : Nat) (q : SeqId) (pc : Word) (b : BitVec 8) : (c.post n q pc b).staged = c.staged := by unfold Core.post; split <;> rfl
@[simp] theorem Core.post_stagedDue (c : Core) (n : Nat) (q : SeqId) (pc : Word) (b : BitVec 8) : (c.post n q pc b).stagedDue = c.stagedDue := by unfold Core.post; split <;> rfl
@[simp] theorem Core.post_sae (c : Core) (n : Nat) (q : SeqId) (pc : Word) (b : BitVec 8) : (c.post n q pc b).sae = c.sae := by unfold Core.post; split <;> rfl
@[simp] theorem Core.post_pend (c : Core) (n : Nat) (q : SeqId) (pc : Word) (b : BitVec 8) : (c.post n q pc b).pend = c.pend := by unfold Core.post; split <;> rfl
@[simp] theorem Core.post_consumed (c : Core) (n : Nat) (q : SeqId) (pc : Word) (b : BitVec 8) : (c.post n q pc b).consumed = c.consumed := by unfold Core.post; split <;> rfl
@[simp] theorem Core.post_regions (c : Core) (n : Nat) (q : SeqId) (pc : Word) (b : BitVec 8) : (c.post n q pc b).regions = c.regions := by unfold Core.post; split <;> rfl
@[simp] theorem Core.post_abort (c : Core) (n : Nat) (q : SeqId) (pc : Word) (b : BitVec 8) : (c.post n q pc b).abort = c.abort := by unfold Core.post; split <;> rfl
@[simp] theorem Core.post_tlb (c : Core) (n : Nat) (q : SeqId) (pc : Word) (b : BitVec 8) : (c.post n q pc b).tlb = c.tlb := by unfold Core.post; split <;> rfl
@[simp] theorem Core.post_pulse (c : Core) (n : Nat) (q : SeqId) (pc : Word) (b : BitVec 8) : (c.post n q pc b).pulse = c.pulse := by unfold Core.post; split <;> rfl
@[simp] theorem Core.post_nextId (c : Core) (n : Nat) (q : SeqId) (pc : Word) (b : BitVec 8) : (c.post n q pc b).nextId = c.nextId := by unfold Core.post; split <;> rfl
@[simp] theorem Core.post_trapped (c : Core) (n : Nat) (q : SeqId) (pc : Word) (b : BitVec 8) : (c.post n q pc b).trapped = c.trapped := by unfold Core.post; split <;> rfl
@[simp] theorem Core.post_preTrap (c : Core) (n : Nat) (q : SeqId) (pc : Word) (b : BitVec 8) : (c.post n q pc b).preTrap = c.preTrap := by unfold Core.post; split <;> rfl
@[simp] theorem Core.post_mxOver (c : Core) (n : Nat) (q : SeqId) (pc : Word) (b : BitVec 8) : (c.post n q pc b).mxOver = c.mxOver := by unfold Core.post; split <;> rfl
@[simp] theorem Core.post_pOld (c : Core) (n : Nat) (q : SeqId) (pc : Word) (b : BitVec 8) : (c.post n q pc b).pOld = c.pOld := by unfold Core.post; split <;> rfl
@[simp] theorem Core.post_reads (c : Core) (n : Nat) (q : SeqId) (pc : Word) (b : BitVec 8) : (c.post n q pc b).reads = c.reads := by unfold Core.post; split <;> rfl
@[simp] theorem Core.post_resuming (c : Core) (n : Nat) (q : SeqId) (pc : Word) (b : BitVec 8) : (c.post n q pc b).resuming = c.resuming := by unfold Core.post; split <;> rfl
@[simp] theorem Core.post_mxWait (c : Core) (n : Nat) (q : SeqId) (pc : Word) (b : BitVec 8) : (c.post n q pc b).mxWait = c.mxWait := by unfold Core.post; split <;> rfl
@[simp] theorem Core.post_ilk (c : Core) (n : Nat) (q : SeqId) (pc : Word) (b : BitVec 8) : (c.post n q pc b).ilk = c.ilk := by unfold Core.post; split <;> rfl
@[simp] theorem Core.post_replayLeft (c : Core) (n : Nat) (q : SeqId) (pc : Word) (b : BitVec 8) : (c.post n q pc b).replayLeft = c.replayLeft := by unfold Core.post; split <;> rfl
@[simp] theorem Core.post_drainForms (c : Core) (n : Nat) (q : SeqId) (pc : Word) (b : BitVec 8) : (c.post n q pc b).drainForms = c.drainForms := by unfold Core.post; split <;> rfl
@[simp] theorem Core.post_ended (c : Core) (n : Nat) (q : SeqId) (pc : Word) (b : BitVec 8) : (c.post n q pc b).ended = c.ended := by unfold Core.post; split <;> rfl
@[simp] theorem Core.post_leaveAt (c : Core) (n : Nat) (q : SeqId) (pc : Word) (b : BitVec 8) : (c.post n q pc b).leaveAt = c.leaveAt := by unfold Core.post; split <;> rfl
@[simp] theorem Core.post_restored (c : Core) (n : Nat) (q : SeqId) (pc : Word) (b : BitVec 8) : (c.post n q pc b).restored = c.restored := by unfold Core.post; split <;> rfl
@[simp] theorem Core.post_preempt (c : Core) (n : Nat) (q : SeqId) (pc : Word) (b : BitVec 8) : (c.post n q pc b).preempt = c.preempt := by unfold Core.post; split <;> rfl
@[simp] theorem Core.post_rtWait (c : Core) (n : Nat) (q : SeqId) (pc : Word) (b : BitVec 8) : (c.post n q pc b).rtWait = c.rtWait := by unfold Core.post; split <;> rfl
@[simp] theorem Core.post_lost (c : Core) (n : Nat) (q : SeqId) (pc : Word) (b : BitVec 8) : (c.post n q pc b).lost = c.lost := by unfold Core.post; split <;> rfl
@[simp] theorem Core.post_map (c : Core) (n : Nat) (q : SeqId) (pc : Word) (b : BitVec 8) : (c.post n q pc b).map = c.map := by unfold Core.post; split <;> rfl
@[simp] theorem Core.takeTokens_die (c : Core) (w : Option (Nat × Nat)) : (c.takeTokens w).die = c.die := by unfold Core.takeTokens; split <;> rfl
@[simp] theorem Core.takeTokens_cluster (c : Core) (w : Option (Nat × Nat)) : (c.takeTokens w).cluster = c.cluster := by unfold Core.takeTokens; split <;> rfl
@[simp] theorem Core.takeTokens_core (c : Core) (w : Option (Nat × Nat)) : (c.takeTokens w).core = c.core := by unfold Core.takeTokens; split <;> rfl
@[simp] theorem Core.takeTokens_status (c : Core) (w : Option (Nat × Nat)) : (c.takeTokens w).status = c.status := by unfold Core.takeTokens; split <;> rfl
@[simp] theorem Core.takeTokens_task (c : Core) (w : Option (Nat × Nat)) : (c.takeTokens w).task = c.task := by unfold Core.takeTokens; split <;> rfl
@[simp] theorem Core.takeTokens_ct (c : Core) (w : Option (Nat × Nat)) : (c.takeTokens w).ct = c.ct := by unfold Core.takeTokens; split <;> rfl
@[simp] theorem Core.takeTokens_ld (c : Core) (w : Option (Nat × Nat)) : (c.takeTokens w).ld = c.ld := by unfold Core.takeTokens; split <;> rfl
@[simp] theorem Core.takeTokens_mx (c : Core) (w : Option (Nat × Nat)) : (c.takeTokens w).mx = c.mx := by unfold Core.takeTokens; split <;> rfl
@[simp] theorem Core.takeTokens_st (c : Core) (w : Option (Nat × Nat)) : (c.takeTokens w).st = c.st := by unfold Core.takeTokens; split <;> rfl
@[simp] theorem Core.takeTokens_tl (c : Core) (w : Option (Nat × Nat)) : (c.takeTokens w).tl = c.tl := by unfold Core.takeTokens; split <;> rfl
@[simp] theorem Core.takeTokens_ecause1 (c : Core) (w : Option (Nat × Nat)) : (c.takeTokens w).ecause1 = c.ecause1 := by unfold Core.takeTokens; split <;> rfl
@[simp] theorem Core.takeTokens_ecause2 (c : Core) (w : Option (Nat × Nat)) : (c.takeTokens w).ecause2 = c.ecause2 := by unfold Core.takeTokens; split <;> rfl
@[simp] theorem Core.takeTokens_epc1 (c : Core) (w : Option (Nat × Nat)) : (c.takeTokens w).epc1 = c.epc1 := by unfold Core.takeTokens; split <;> rfl
@[simp] theorem Core.takeTokens_epc2 (c : Core) (w : Option (Nat × Nat)) : (c.takeTokens w).epc2 = c.epc2 := by unfold Core.takeTokens; split <;> rfl
@[simp] theorem Core.takeTokens_eaddr1 (c : Core) (w : Option (Nat × Nat)) : (c.takeTokens w).eaddr1 = c.eaddr1 := by unfold Core.takeTokens; split <;> rfl
@[simp] theorem Core.takeTokens_eaddr2 (c : Core) (w : Option (Nat × Nat)) : (c.takeTokens w).eaddr2 = c.eaddr2 := by unfold Core.takeTokens; split <;> rfl
@[simp] theorem Core.takeTokens_eseq1 (c : Core) (w : Option (Nat × Nat)) : (c.takeTokens w).eseq1 = c.eseq1 := by unfold Core.takeTokens; split <;> rfl
@[simp] theorem Core.takeTokens_eseq2 (c : Core) (w : Option (Nat × Nat)) : (c.takeTokens w).eseq2 = c.eseq2 := by unfold Core.takeTokens; split <;> rfl
@[simp] theorem Core.takeTokens_tvec1 (c : Core) (w : Option (Nat × Nat)) : (c.takeTokens w).tvec1 = c.tvec1 := by unfold Core.takeTokens; split <;> rfl
@[simp] theorem Core.takeTokens_tvec2 (c : Core) (w : Option (Nat × Nat)) : (c.takeTokens w).tvec2 = c.tvec2 := by unfold Core.takeTokens; split <;> rfl
@[simp] theorem Core.takeTokens_ret1 (c : Core) (w : Option (Nat × Nat)) : (c.takeTokens w).ret1 = c.ret1 := by unfold Core.takeTokens; split <;> rfl
@[simp] theorem Core.takeTokens_ctWd (c : Core) (w : Option (Nat × Nat)) : (c.takeTokens w).ctWd = c.ctWd := by unfold Core.takeTokens; split <;> rfl
@[simp] theorem Core.takeTokens_ret2 (c : Core) (w : Option (Nat × Nat)) : (c.takeTokens w).ret2 = c.ret2 := by unfold Core.takeTokens; split <;> rfl
@[simp] theorem Core.takeTokens_chkcfg (c : Core) (w : Option (Nat × Nat)) : (c.takeTokens w).chkcfg = c.chkcfg := by unfold Core.takeTokens; split <;> rfl
@[simp] theorem Core.takeTokens_cycle (c : Core) (w : Option (Nat × Nat)) : (c.takeTokens w).cycle = c.cycle := by unfold Core.takeTokens; split <;> rfl
@[simp] theorem Core.takeTokens_mapver (c : Core) (w : Option (Nat × Nat)) : (c.takeTokens w).mapver = c.mapver := by unfold Core.takeTokens; split <;> rfl
@[simp] theorem Core.takeTokens_coreClass (c : Core) (w : Option (Nat × Nat)) : (c.takeTokens w).coreClass = c.coreClass := by unfold Core.takeTokens; split <;> rfl
@[simp] theorem Core.takeTokens_rbase (c : Core) (w : Option (Nat × Nat)) : (c.takeTokens w).rbase = c.rbase := by unfold Core.takeTokens; split <;> rfl
@[simp] theorem Core.takeTokens_bvalid (c : Core) (w : Option (Nat × Nat)) : (c.takeTokens w).bvalid = c.bvalid := by unfold Core.takeTokens; split <;> rfl
@[simp] theorem Core.takeTokens_suspended (c : Core) (w : Option (Nat × Nat)) : (c.takeTokens w).suspended = c.suspended := by unfold Core.takeTokens; split <;> rfl
@[simp] theorem Core.takeTokens_tkwdog (c : Core) (w : Option (Nat × Nat)) : (c.takeTokens w).tkwdog = c.tkwdog := by unfold Core.takeTokens; split <;> rfl
@[simp] theorem Core.takeTokens_fstat (c : Core) (w : Option (Nat × Nat)) : (c.takeTokens w).fstat = c.fstat := by unfold Core.takeTokens; split <;> rfl
@[simp] theorem Core.takeTokens_replays (c : Core) (w : Option (Nat × Nat)) : (c.takeTokens w).replays = c.replays := by unfold Core.takeTokens; split <;> rfl
@[simp] theorem Core.takeTokens_bf (c : Core) (w : Option (Nat × Nat)) : (c.takeTokens w).bf = c.bf := by unfold Core.takeTokens; split <;> rfl
@[simp] theorem Core.takeTokens_hnd (c : Core) (w : Option (Nat × Nat)) : (c.takeTokens w).hnd = c.hnd := by unfold Core.takeTokens; split <;> rfl
@[simp] theorem Core.takeTokens_bx (c : Core) (w : Option (Nat × Nat)) : (c.takeTokens w).bx = c.bx := by unfold Core.takeTokens; split <;> rfl
@[simp] theorem Core.takeTokens_errrec (c : Core) (w : Option (Nat × Nat)) : (c.takeTokens w).errrec = c.errrec := by unfold Core.takeTokens; split <;> rfl
@[simp] theorem Core.takeTokens_mrf (c : Core) (w : Option (Nat × Nat)) : (c.takeTokens w).mrf = c.mrf := by unfold Core.takeTokens; split <;> rfl
@[simp] theorem Core.takeTokens_acc (c : Core) (w : Option (Nat × Nat)) : (c.takeTokens w).acc = c.acc := by unfold Core.takeTokens; split <;> rfl
@[simp] theorem Core.takeTokens_spad (c : Core) (w : Option (Nat × Nat)) : (c.takeTokens w).spad = c.spad := by unfold Core.takeTokens; split <;> rfl
@[simp] theorem Core.takeTokens_spadUe (c : Core) (w : Option (Nat × Nat)) : (c.takeTokens w).spadUe = c.spadUe := by unfold Core.takeTokens; split <;> rfl
@[simp] theorem Core.takeTokens_veil (c : Core) (w : Option (Nat × Nat)) : (c.takeTokens w).veil = c.veil := by unfold Core.takeTokens; split <;> rfl
@[simp] theorem Core.takeTokens_drives (c : Core) (w : Option (Nat × Nat)) : (c.takeTokens w).drives = c.drives := by unfold Core.takeTokens; split <;> rfl
@[simp] theorem Core.takeTokens_slotRes (c : Core) (w : Option (Nat × Nat)) : (c.takeTokens w).slotRes = c.slotRes := by unfold Core.takeTokens; split <;> rfl
@[simp] theorem Core.takeTokens_slotLast (c : Core) (w : Option (Nat × Nat)) : (c.takeTokens w).slotLast = c.slotLast := by unfold Core.takeTokens; split <;> rfl
@[simp] theorem Core.takeTokens_lateReads (c : Core) (w : Option (Nat × Nat)) : (c.takeTokens w).lateReads = c.lateReads := by unfold Core.takeTokens; split <;> rfl
@[simp] theorem Core.takeTokens_lateForms (c : Core) (w : Option (Nat × Nat)) : (c.takeTokens w).lateForms = c.lateForms := by unfold Core.takeTokens; split <;> rfl
@[simp] theorem Core.takeTokens_mwr (c : Core) (w : Option (Nat × Nat)) : (c.takeTokens w).mwr = c.mwr := by unfold Core.takeTokens; split <;> rfl
@[simp] theorem Core.takeTokens_ports (c : Core) (w : Option (Nat × Nat)) : (c.takeTokens w).ports = c.ports := by unfold Core.takeTokens; split <;> rfl
@[simp] theorem Core.takeTokens_accWr (c : Core) (w : Option (Nat × Nat)) : (c.takeTokens w).accWr = c.accWr := by unfold Core.takeTokens; split <;> rfl
@[simp] theorem Core.takeTokens_arr (c : Core) (w : Option (Nat × Nat)) : (c.takeTokens w).arr = c.arr := by unfold Core.takeTokens; split <;> rfl
@[simp] theorem Core.takeTokens_arrBusy (c : Core) (w : Option (Nat × Nat)) : (c.takeTokens w).arrBusy = c.arrBusy := by unfold Core.takeTokens; split <;> rfl
@[simp] theorem Core.takeTokens_heldB (c : Core) (w : Option (Nat × Nat)) : (c.takeTokens w).heldB = c.heldB := by unfold Core.takeTokens; split <;> rfl
@[simp] theorem Core.takeTokens_topkUntil (c : Core) (w : Option (Nat × Nat)) : (c.takeTokens w).topkUntil = c.topkUntil := by unfold Core.takeTokens; split <;> rfl
@[simp] theorem Core.takeTokens_topk (c : Core) (w : Option (Nat × Nat)) : (c.takeTokens w).topk = c.topk := by unfold Core.takeTokens; split <;> rfl
@[simp] theorem Core.takeTokens_sideFree (c : Core) (w : Option (Nat × Nat)) : (c.takeTokens w).sideFree = c.sideFree := by unfold Core.takeTokens; split <;> rfl
@[simp] theorem Core.takeTokens_sideNow (c : Core) (w : Option (Nat × Nat)) : (c.takeTokens w).sideNow = c.sideNow := by unfold Core.takeTokens; split <;> rfl
@[simp] theorem Core.takeTokens_sideWr (c : Core) (w : Option (Nat × Nat)) : (c.takeTokens w).sideWr = c.sideWr := by unfold Core.takeTokens; split <;> rfl
@[simp] theorem Core.takeTokens_mxCount (c : Core) (w : Option (Nat × Nat)) : (c.takeTokens w).mxCount = c.mxCount := by unfold Core.takeTokens; split <;> rfl
@[simp] theorem Core.takeTokens_mxReads (c : Core) (w : Option (Nat × Nat)) : (c.takeTokens w).mxReads = c.mxReads := by unfold Core.takeTokens; split <;> rfl
@[simp] theorem Core.takeTokens_mxWrites (c : Core) (w : Option (Nat × Nat)) : (c.takeTokens w).mxWrites = c.mxWrites := by unfold Core.takeTokens; split <;> rfl
@[simp] theorem Core.takeTokens_done (c : Core) (w : Option (Nat × Nat)) : (c.takeTokens w).done = c.done := by unfold Core.takeTokens; split <;> rfl
@[simp] theorem Core.takeTokens_posts (c : Core) (w : Option (Nat × Nat)) : (c.takeTokens w).posts = c.posts := by unfold Core.takeTokens; split <;> rfl
@[simp] theorem Core.takeTokens_flight (c : Core) (w : Option (Nat × Nat)) : (c.takeTokens w).flight = c.flight := by unfold Core.takeTokens; split <;> rfl
@[simp] theorem Core.takeTokens_cmds (c : Core) (w : Option (Nat × Nat)) : (c.takeTokens w).cmds = c.cmds := by unfold Core.takeTokens; split <;> rfl
@[simp] theorem Core.takeTokens_lastCopy (c : Core) (w : Option (Nat × Nat)) : (c.takeTokens w).lastCopy = c.lastCopy := by unfold Core.takeTokens; split <;> rfl
@[simp] theorem Core.takeTokens_staged (c : Core) (w : Option (Nat × Nat)) : (c.takeTokens w).staged = c.staged := by unfold Core.takeTokens; split <;> rfl
@[simp] theorem Core.takeTokens_stagedDue (c : Core) (w : Option (Nat × Nat)) : (c.takeTokens w).stagedDue = c.stagedDue := by unfold Core.takeTokens; split <;> rfl
@[simp] theorem Core.takeTokens_sae (c : Core) (w : Option (Nat × Nat)) : (c.takeTokens w).sae = c.sae := by unfold Core.takeTokens; split <;> rfl
@[simp] theorem Core.takeTokens_pend (c : Core) (w : Option (Nat × Nat)) : (c.takeTokens w).pend = c.pend := by unfold Core.takeTokens; split <;> rfl
@[simp] theorem Core.takeTokens_consumed (c : Core) (w : Option (Nat × Nat)) : (c.takeTokens w).consumed = c.consumed := by unfold Core.takeTokens; split <;> rfl
@[simp] theorem Core.takeTokens_regions (c : Core) (w : Option (Nat × Nat)) : (c.takeTokens w).regions = c.regions := by unfold Core.takeTokens; split <;> rfl
@[simp] theorem Core.takeTokens_abort (c : Core) (w : Option (Nat × Nat)) : (c.takeTokens w).abort = c.abort := by unfold Core.takeTokens; split <;> rfl
@[simp] theorem Core.takeTokens_tlb (c : Core) (w : Option (Nat × Nat)) : (c.takeTokens w).tlb = c.tlb := by unfold Core.takeTokens; split <;> rfl
@[simp] theorem Core.takeTokens_pulse (c : Core) (w : Option (Nat × Nat)) : (c.takeTokens w).pulse = c.pulse := by unfold Core.takeTokens; split <;> rfl
@[simp] theorem Core.takeTokens_nextId (c : Core) (w : Option (Nat × Nat)) : (c.takeTokens w).nextId = c.nextId := by unfold Core.takeTokens; split <;> rfl
@[simp] theorem Core.takeTokens_trapped (c : Core) (w : Option (Nat × Nat)) : (c.takeTokens w).trapped = c.trapped := by unfold Core.takeTokens; split <;> rfl
@[simp] theorem Core.takeTokens_preTrap (c : Core) (w : Option (Nat × Nat)) : (c.takeTokens w).preTrap = c.preTrap := by unfold Core.takeTokens; split <;> rfl
@[simp] theorem Core.takeTokens_mxOver (c : Core) (w : Option (Nat × Nat)) : (c.takeTokens w).mxOver = c.mxOver := by unfold Core.takeTokens; split <;> rfl
@[simp] theorem Core.takeTokens_pOld (c : Core) (w : Option (Nat × Nat)) : (c.takeTokens w).pOld = c.pOld := by unfold Core.takeTokens; split <;> rfl
@[simp] theorem Core.takeTokens_reads (c : Core) (w : Option (Nat × Nat)) : (c.takeTokens w).reads = c.reads := by unfold Core.takeTokens; split <;> rfl
@[simp] theorem Core.takeTokens_resuming (c : Core) (w : Option (Nat × Nat)) : (c.takeTokens w).resuming = c.resuming := by unfold Core.takeTokens; split <;> rfl
@[simp] theorem Core.takeTokens_mxWait (c : Core) (w : Option (Nat × Nat)) : (c.takeTokens w).mxWait = c.mxWait := by unfold Core.takeTokens; split <;> rfl
@[simp] theorem Core.takeTokens_ilk (c : Core) (w : Option (Nat × Nat)) : (c.takeTokens w).ilk = c.ilk := by unfold Core.takeTokens; split <;> rfl
@[simp] theorem Core.takeTokens_replayLeft (c : Core) (w : Option (Nat × Nat)) : (c.takeTokens w).replayLeft = c.replayLeft := by unfold Core.takeTokens; split <;> rfl
@[simp] theorem Core.takeTokens_drainForms (c : Core) (w : Option (Nat × Nat)) : (c.takeTokens w).drainForms = c.drainForms := by unfold Core.takeTokens; split <;> rfl
@[simp] theorem Core.takeTokens_ended (c : Core) (w : Option (Nat × Nat)) : (c.takeTokens w).ended = c.ended := by unfold Core.takeTokens; split <;> rfl
@[simp] theorem Core.takeTokens_leaveAt (c : Core) (w : Option (Nat × Nat)) : (c.takeTokens w).leaveAt = c.leaveAt := by unfold Core.takeTokens; split <;> rfl
@[simp] theorem Core.takeTokens_restored (c : Core) (w : Option (Nat × Nat)) : (c.takeTokens w).restored = c.restored := by unfold Core.takeTokens; split <;> rfl
@[simp] theorem Core.takeTokens_preempt (c : Core) (w : Option (Nat × Nat)) : (c.takeTokens w).preempt = c.preempt := by unfold Core.takeTokens; split <;> rfl
@[simp] theorem Core.takeTokens_rtWait (c : Core) (w : Option (Nat × Nat)) : (c.takeTokens w).rtWait = c.rtWait := by unfold Core.takeTokens; split <;> rfl
@[simp] theorem Core.takeTokens_lost (c : Core) (w : Option (Nat × Nat)) : (c.takeTokens w).lost = c.lost := by unfold Core.takeTokens; split <;> rfl
@[simp] theorem Core.takeTokens_map (c : Core) (w : Option (Nat × Nat)) : (c.takeTokens w).map = c.map := by unfold Core.takeTokens; split <;> rfl
@[simp] theorem Core.seq_complete (c : Core) (q p : SeqId) (pc : Word) (n : Nat) (ws : List RegWrite) (b : BitVec 8) :
    (c.complete q pc n ws b).seq p = c.seq p := by cases p <;> rfl
@[simp] theorem Core.seq_post (c : Core) (n : Nat) (q p : SeqId) (pc : Word) (b : BitVec 8) : (c.post n q pc b).seq p = c.seq p := by
  cases p <;> simp [Core.seq]
@[simp] theorem Core.seq_takeTokens (c : Core) (w : Option (Nat × Nat)) (p : SeqId) : (c.takeTokens w).seq p = c.seq p := by
  cases p <;> simp [Core.seq]

/-! Registers of a sequencer. -/

@[simp] theorem Seq.setX_pc (q : Seq) (r : BitVec 5) (v : Word) (b : Bool) : (q.setX r v b).pc = q.pc := by unfold Seq.setX; split <;> rfl
@[simp] theorem Seq.setX_p (q : Seq) (r : BitVec 5) (v : Word) (b : Bool) : (q.setX r v b).p = q.p := by unfold Seq.setX; split <;> rfl
@[simp] theorem Seq.setX_loops (q : Seq) (r : BitVec 5) (v : Word) (b : Bool) : (q.setX r v b).loops = q.loops := by unfold Seq.setX; split <;> rfl
@[simp] theorem Seq.setX_tmask (q : Seq) (r : BitVec 5) (v : Word) (b : Bool) : (q.setX r v b).tmask = q.tmask := by unfold Seq.setX; split <;> rfl
@[simp] theorem Seq.setX_srseed (q : Seq) (r : BitVec 5) (v : Word) (b : Bool) : (q.setX r v b).srseed = q.srseed := by unfold Seq.setX; split <;> rfl
@[simp] theorem Seq.setX_cl (q : Seq) (r : BitVec 5) (v : Word) (b : Bool) : (q.setX r v b).cl = q.cl := by unfold Seq.setX; split <;> rfl
@[simp] theorem Seq.setX_ended (q : Seq) (r : BitVec 5) (v : Word) (b : Bool) : (q.setX r v b).ended = q.ended := by unfold Seq.setX; split <;> rfl
@[simp] theorem Seq.setX_endPc (q : Seq) (r : BitVec 5) (v : Word) (b : Bool) : (q.setX r v b).endPc = q.endPc := by unfold Seq.setX; split <;> rfl
@[simp] theorem Seq.setX_brk (q : Seq) (r : BitVec 5) (v : Word) (b : Bool) : (q.setX r v b).brk = q.brk := by unfold Seq.setX; split <;> rfl
@[simp] theorem Seq.setX_brkPass (q : Seq) (r : BitVec 5) (v : Word) (b : Bool) : (q.setX r v b).brkPass = q.brkPass := by unfold Seq.setX; split <;> rfl
@[simp] theorem Seq.setX_last (q : Seq) (r : BitVec 5) (v : Word) (b : Bool) : (q.setX r v b).last = q.last := by unfold Seq.setX; split <;> rfl
@[simp] theorem Seq.setX_minGap (q : Seq) (r : BitVec 5) (v : Word) (b : Bool) : (q.setX r v b).minGap = q.minGap := by unfold Seq.setX; split <;> rfl
@[simp] theorem Seq.setX_redo (q : Seq) (r : BitVec 5) (v : Word) (b : Bool) : (q.setX r v b).redo = q.redo := by unfold Seq.setX; split <;> rfl
@[simp] theorem Seq.setX_waiting (q : Seq) (r : BitVec 5) (v : Word) (b : Bool) : (q.setX r v b).waiting = q.waiting := by unfold Seq.setX; split <;> rfl
@[simp] theorem Seq.setX_wd (q : Seq) (r : BitVec 5) (v : Word) (b : Bool) : (q.setX r v b).wd = q.wd := by unfold Seq.setX; split <;> rfl
@[simp] theorem Seq.setX_hold (q : Seq) (r : BitVec 5) (v : Word) (b : Bool) : (q.setX r v b).hold = q.hold := by unfold Seq.setX; split <;> rfl
@[simp] theorem Seq.setP_pc (q : Seq) (r : BitVec 3) (v : PWord) : (q.setP r v).pc = q.pc := by unfold Seq.setP; split <;> rfl
@[simp] theorem Seq.setP_x (q : Seq) (r : BitVec 3) (v : PWord) : (q.setP r v).x = q.x := by unfold Seq.setP; split <;> rfl
@[simp] theorem Seq.setP_xp (q : Seq) (r : BitVec 3) (v : PWord) : (q.setP r v).xp = q.xp := by unfold Seq.setP; split <;> rfl
@[simp] theorem Seq.setP_loops (q : Seq) (r : BitVec 3) (v : PWord) : (q.setP r v).loops = q.loops := by unfold Seq.setP; split <;> rfl
@[simp] theorem Seq.setP_tmask (q : Seq) (r : BitVec 3) (v : PWord) : (q.setP r v).tmask = q.tmask := by unfold Seq.setP; split <;> rfl
@[simp] theorem Seq.setP_srseed (q : Seq) (r : BitVec 3) (v : PWord) : (q.setP r v).srseed = q.srseed := by unfold Seq.setP; split <;> rfl
@[simp] theorem Seq.setP_cl (q : Seq) (r : BitVec 3) (v : PWord) : (q.setP r v).cl = q.cl := by unfold Seq.setP; split <;> rfl
@[simp] theorem Seq.setP_ended (q : Seq) (r : BitVec 3) (v : PWord) : (q.setP r v).ended = q.ended := by unfold Seq.setP; split <;> rfl
@[simp] theorem Seq.setP_endPc (q : Seq) (r : BitVec 3) (v : PWord) : (q.setP r v).endPc = q.endPc := by unfold Seq.setP; split <;> rfl
@[simp] theorem Seq.setP_brk (q : Seq) (r : BitVec 3) (v : PWord) : (q.setP r v).brk = q.brk := by unfold Seq.setP; split <;> rfl
@[simp] theorem Seq.setP_brkPass (q : Seq) (r : BitVec 3) (v : PWord) : (q.setP r v).brkPass = q.brkPass := by unfold Seq.setP; split <;> rfl
@[simp] theorem Seq.setP_last (q : Seq) (r : BitVec 3) (v : PWord) : (q.setP r v).last = q.last := by unfold Seq.setP; split <;> rfl
@[simp] theorem Seq.setP_minGap (q : Seq) (r : BitVec 3) (v : PWord) : (q.setP r v).minGap = q.minGap := by unfold Seq.setP; split <;> rfl
@[simp] theorem Seq.setP_redo (q : Seq) (r : BitVec 3) (v : PWord) : (q.setP r v).redo = q.redo := by unfold Seq.setP; split <;> rfl
@[simp] theorem Seq.setP_waiting (q : Seq) (r : BitVec 3) (v : PWord) : (q.setP r v).waiting = q.waiting := by unfold Seq.setP; split <;> rfl
@[simp] theorem Seq.setP_wd (q : Seq) (r : BitVec 3) (v : PWord) : (q.setP r v).wd = q.wd := by unfold Seq.setP; split <;> rfl
@[simp] theorem Seq.setP_hold (q : Seq) (r : BitVec 3) (v : PWord) : (q.setP r v).hold = q.hold := by unfold Seq.setP; split <;> rfl

end Sys2Proof.Machine
end

