-- ==== Sys2Proof/Laws/Ops.lean ====
section
/-!
SUPPORT. The laws of sparse storage and of memory: a read after a write, and the canonical form that every write keeps (R3, R7,
R10, R53).
-/

namespace Sys2Proof.Machine

open Sys2Proof

/-! Reading what was stored. -/

theorem AMap.get_filter {α : Type} (d : α) (p : Nat × α → Bool) (m : AMap α) (k : Nat) (h : ∀ v, p (k, v) = true) :
    AMap.get d (m.filter p) k = AMap.get d m k := by
  induction m with
  | nil => rfl
  | cons q rest ih =>
    obtain ⟨k', v⟩ := q
    by_cases hk : k' = k
    · subst hk; simp [h, AMap.get]
    · by_cases hp : p (k', v) = true <;> simp [hp, AMap.get, hk, ih]

theorem AMap.get_erase_self {α : Type} (d : α) (m : AMap α) (k : Nat) : AMap.get d (AMap.erase m k) k = d := by
  induction m with
  | nil => rfl
  | cons q rest ih =>
    obtain ⟨k', v⟩ := q
    by_cases hk : k' = k
    · subst hk; simpa [AMap.erase, List.filter_cons] using ih
    · simpa [AMap.erase, List.filter_cons, hk, AMap.get] using ih

theorem AMap.get_erase_ne {α : Type} (d : α) (m : AMap α) {k j : Nat} (h : j ≠ k) :
    AMap.get d (AMap.erase m k) j = AMap.get d m j :=
  AMap.get_filter d _ m j fun v => by simp [h]

theorem AMap.get_insert_self {α : Type} (d : α) (m : AMap α) (k : Nat) (v : α) (h : ∀ q ∈ m, q.1 ≠ k) :
    AMap.get d (AMap.insert m k v) k = v := by
  induction m with
  | nil => simp [AMap.insert, AMap.get]
  | cons q rest ih =>
    obtain ⟨k', v'⟩ := q
    have hk : k' ≠ k := h (k', v') (by simp)
    unfold AMap.insert
    split
    · simp [AMap.get]
    · simp only [AMap.get, hk, if_false]
      exact ih fun q hq => h q (by simp [hq])

theorem AMap.get_insert_ne {α : Type} (d : α) (m : AMap α) {k j : Nat} (v : α) (h : j ≠ k) :
    AMap.get d (AMap.insert m k v) j = AMap.get d m j := by
  induction m with
  | nil => simp [AMap.insert, AMap.get, Ne.symm h]
  | cons q rest ih =>
    obtain ⟨k', v'⟩ := q
    unfold AMap.insert
    split
    · simp [AMap.get, Ne.symm h]
    · by_cases hk : k' = j <;> simp [AMap.get, hk, ih]

theorem AMap.mem_erase {α : Type} {m : AMap α} {k : Nat} {q : Nat × α} (h : q ∈ AMap.erase m k) : q ∈ m ∧ q.1 ≠ k := by
  simpa [AMap.erase] using h

/-- A read of a key that was just written gives the value written. -/
@[simp] theorem AMap.get_set_self {α : Type} [DecidableEq α] (d : α) (m : AMap α) (k : Nat) (v : α) :
    AMap.get d (AMap.set d m k v) k = v := by
  unfold AMap.set
  split
  · rw [AMap.get_erase_self]; symm; assumption
  · exact AMap.get_insert_self d _ k v fun q hq => (AMap.mem_erase hq).2

/-- A write leaves every other key alone. -/
theorem AMap.get_set_ne {α : Type} [DecidableEq α] (d : α) (m : AMap α) {k j : Nat} (v : α) (h : j ≠ k) :
    AMap.get d (AMap.set d m k v) j = AMap.get d m j := by
  unfold AMap.set
  split
  · exact AMap.get_erase_ne d m h
  · rw [AMap.get_insert_ne d _ v h, AMap.get_erase_ne d m h]

/-! The canonical form. -/

theorem rising_tail {α : Type} {q : Nat × α} {m : AMap α} (h : rising (q :: m) = true) : rising m = true := by
  cases m with
  | nil => rfl
  | cons r rest => obtain ⟨a, v⟩ := q; obtain ⟨b, w⟩ := r; simp [rising] at h; exact h.2

theorem rising_head {α : Type} {a : Nat} {v : α} {m : AMap α} (h : rising ((a, v) :: m) = true) : ∀ q ∈ m, a < q.1 := by
  induction m generalizing a v with
  | nil => simp
  | cons r rest ih =>
    obtain ⟨b, w⟩ := r
    simp only [rising, Bool.and_eq_true, decide_eq_true_eq] at h
    intro q hq
    rcases List.mem_cons.1 hq with rfl | hq
    · exact h.1
    · exact Nat.lt_trans h.1 (ih h.2 q hq)

theorem rising_cons {α : Type} {a : Nat} {v : α} {m : AMap α} (h : rising m = true) (hm : ∀ q ∈ m, a < q.1) :
    rising ((a, v) :: m) = true := by
  cases m with
  | nil => rfl
  | cons r rest => obtain ⟨b, w⟩ := r; simp only [rising, Bool.and_eq_true, decide_eq_true_eq]; exact ⟨hm (b, w) (by simp), h⟩

theorem rising_filter {α : Type} (p : Nat × α → Bool) {m : AMap α} (h : rising m = true) : rising (m.filter p) = true := by
  induction m with
  | nil => rfl
  | cons q rest ih =>
    obtain ⟨a, v⟩ := q
    by_cases hp : p (a, v) = true
    · rw [List.filter_cons_of_pos hp]
      exact rising_cons (ih (rising_tail h)) fun q hq => rising_head h q (List.mem_filter.1 hq).1
    · rw [List.filter_cons_of_neg hp]; exact ih (rising_tail h)

theorem AMap.mem_insert {α : Type} {m : AMap α} {k : Nat} {v : α} {q : Nat × α} (h : q ∈ AMap.insert m k v) :
    q = (k, v) ∨ q ∈ m := by
  induction m with
  | nil => left; simpa [AMap.insert] using h
  | cons r rest ih =>
    obtain ⟨k', v'⟩ := r
    unfold AMap.insert at h
    split at h
    · simpa using h
    · rcases List.mem_cons.1 h with rfl | h
      · simp
      · rcases ih h with h | h <;> simp [h]

theorem rising_insert {α : Type} {m : AMap α} {k : Nat} {v : α} (h : rising m = true) (hk : ∀ q ∈ m, q.1 ≠ k) :
    rising (AMap.insert m k v) = true := by
  induction m with
  | nil => rfl
  | cons q rest ih =>
    obtain ⟨a, w⟩ := q
    unfold AMap.insert
    split
    · rename_i hlt
      refine rising_cons h fun q hq => ?_
      rcases List.mem_cons.1 hq with rfl | hq
      · exact hlt
      · exact Nat.lt_trans hlt (rising_head h q hq)
    · rename_i hge
      have ha : a ≠ k := hk (a, w) (by simp)
      refine rising_cons (ih (rising_tail h) fun q hq => hk q (by simp [hq])) fun q hq => ?_
      rcases AMap.mem_insert hq with rfl | hq
      · show a < k; omega
      · exact rising_head h q hq

theorem AMap.wf_filter {α : Type} [DecidableEq α] {d : α} (p : Nat × α → Bool) {m : AMap α} (h : AMap.wf d m = true) :
    AMap.wf d (m.filter p) = true := by
  simp only [AMap.wf, Bool.and_eq_true, List.all_eq_true] at h ⊢
  exact ⟨rising_filter p h.1, fun q hq => h.2 q (List.mem_filter.1 hq).1⟩

/-- A write keeps the canonical form. -/
theorem AMap.wf_set {α : Type} [DecidableEq α] {d : α} {m : AMap α} (k : Nat) (v : α) (h : AMap.wf d m = true) :
    AMap.wf d (AMap.set d m k v) = true := by
  have he : AMap.wf d (AMap.erase m k) = true := AMap.wf_filter _ h
  unfold AMap.set
  split
  · exact he
  · rename_i hv
    simp only [AMap.wf, Bool.and_eq_true, List.all_eq_true, decide_eq_true_eq] at he ⊢
    refine ⟨rising_insert he.1 fun q hq => (AMap.mem_erase hq).2, fun q hq => ?_⟩
    rcases AMap.mem_insert hq with rfl | hq
    · exact hv
    · exact he.2 q hq

theorem Memory.wf_nil : Memory.wf [] = true := rfl
theorem Memory.wf_filter (p : Nat × Byte → Bool) {m : AMap Byte} (h : Memory.wf m = true) : Memory.wf (m.filter p) = true :=
  AMap.wf_filter p h
theorem Memory.wf_memSet {m : AMap Byte} (a : Nat) (b : Byte) (h : Memory.wf m = true) : Memory.wf (memSet m a b) = true :=
  AMap.wf_set a b h

/-- Writing bytes keeps the canonical form. -/
theorem Memory.wf_memWrite {m : AMap Byte} (a : Nat) (bs : List Byte) (h : Memory.wf m = true) :
    Memory.wf (memWrite m a bs) = true := by
  induction bs generalizing m a with
  | nil => exact h
  | cons b bs ih => exact ih (a + 1) (Memory.wf_memSet a b h)

/-! Bytes. -/

theorem memGet_memSet (m : AMap Byte) (a x : Nat) (b : Byte) : memGet (memSet m a b) x = if x = a then b else memGet m x := by
  unfold memGet memSet
  split
  · subst x; exact AMap.get_set_self _ _ _ _
  · exact AMap.get_set_ne _ _ _ ‹_›

/-- A byte after a write: one of those written inside the extent, the old one outside. -/
theorem memGet_memWrite (m : AMap Byte) (a x : Nat) (bs : List Byte) :
    memGet (memWrite m a bs) x = if a ≤ x ∧ x < a + bs.length then bs.getD (x - a) 0 else memGet m x := by
  induction bs generalizing m a with
  | nil => simp [memWrite]
  | cons b bs ih =>
    rw [memWrite, ih, memGet_memSet]
    by_cases h1 : x = a
    · subst h1; simp
    · by_cases h2 : a + 1 ≤ x ∧ x < a + 1 + bs.length
      · have h3 : a ≤ x ∧ x < a + (b :: bs).length := by simp; omega
        rw [if_pos h2, if_pos h3]
        obtain ⟨n, rfl⟩ : ∃ n, x = a + 1 + n := ⟨x - (a + 1), by omega⟩
        rw [show a + 1 + n - (a + 1) = n by omega, show a + 1 + n - a = n + 1 by omega]
        simp
      · have h3 : ¬(a ≤ x ∧ x < a + (b :: bs).length) := by simp; omega
        rw [if_neg h2, if_neg h3, if_neg h1]

theorem memGet_memWrite_out {m : AMap Byte} {a x : Nat} {bs : List Byte} (h : ¬(a ≤ x ∧ x < a + bs.length)) :
    memGet (memWrite m a bs) x = memGet m x := by rw [memGet_memWrite, if_neg h]

theorem memRead_length (m : AMap Byte) (a n : Nat) : (memRead m a n).length = n := by
  induction n generalizing a with
  | zero => rfl
  | succ n ih => simp [memRead, ih]

theorem memRead_getD (m : AMap Byte) (a n i : Nat) (h : i < n) : (memRead m a n).getD i 0 = memGet m (a + i) := by
  induction n generalizing a i with
  | zero => omega
  | succ n ih =>
    cases i with
    | zero => simp [memRead]
    | succ i =>
      have := ih (a + 1) i (by omega)
      simp only [memRead, List.getD_cons_succ]
      rw [this]; congr 1; omega

/-! The tokens of a queue and the other stores. -/

@[simp] theorem Core.getTok_setTok (c : Core) (q : Nat) (v : Tok) : (c.setTok q v).getTok q = v := by simp [Core.getTok, Core.setTok]
theorem Core.getTok_setTok_ne (c : Core) {q p : Nat} (v : Tok) (h : p ≠ q) : (c.setTok q v).getTok p = c.getTok p := by
  simp [Core.getTok, Core.setTok, AMap.get_set_ne _ _ _ h]
@[simp] theorem Core.getBf_setBf (c : Core) (b : Nat) (v : BitVec 32) : (c.setBf b v).getBf b = v := by simp [Core.getBf, Core.setBf]
@[simp] theorem Core.getH_setH (c : Core) (r : BitVec 5) (v : Hnd) : (c.setH r v).getH r = v := by simp [Core.getH, Core.setH]

/-! Registers of a sequencer (R10). -/

@[simp] theorem Seq.getX_zero (q : Seq) : q.getX 0 = 0 := rfl
@[simp] theorem Seq.getXP_zero (q : Seq) : q.getXP 0 = false := rfl
@[simp] theorem Seq.getP_zero (q : Seq) : q.getP 0 = BitVec.allOnes 32 := rfl

theorem Seq.getX_setX (q : Seq) (r t : BitVec 5) (v : Word) (b : Bool) :
    (q.setX r v b).getX t = if t = r ∧ r ≠ 0 then v else q.getX t := by
  unfold Seq.setX
  by_cases hr : r = 0
  · simp [hr]
  · rw [if_neg hr]
    unfold Seq.getX
    by_cases ht : t = 0
    · have : ¬(t = r ∧ r ≠ 0) := by rintro ⟨h, _⟩; exact hr (h ▸ ht)
      rw [if_pos ht, if_neg this, if_pos ht]
    · rw [if_neg ht, if_neg ht]
      by_cases h : t = r
      · subst h; rw [if_pos ⟨rfl, hr⟩, AMap.get_set_self]
      · have hn : t.toNat ≠ r.toNat := fun e => h (BitVec.eq_of_toNat_eq e)
        simp [h, AMap.get_set_ne _ _ _ hn]

theorem setBit_getLsbD {w : Nat} (v : BitVec w) (n i : Nat) (b : Bool) (h : i < w) :
    (setBit v n b).getLsbD i = if i = n then b else v.getLsbD i := by
  unfold setBit
  split <;> rename_i hb <;> by_cases hi : i = n
  · subst hi; simp [h, hb]
  · simp [BitVec.getLsbD_twoPow, hi, Ne.symm hi]
  · subst hi; simp [hb]
  · simp [hi, h]

theorem Seq.getXP_setX (q : Seq) (r t : BitVec 5) (v : Word) (b : Bool) :
    (q.setX r v b).getXP t = if t = r ∧ r ≠ 0 then b else q.getXP t := by
  unfold Seq.setX
  by_cases hr : r = 0
  · simp [hr]
  · rw [if_neg hr]
    unfold Seq.getXP
    by_cases h : t = r
    · subst h
      have hb : (t != 0) = true := by simpa using hr
      rw [if_pos ⟨rfl, hr⟩, hb, setBit_getLsbD _ _ _ _ t.isLt]; simp
    · have hn : t.toNat ≠ r.toNat := fun e => h (BitVec.eq_of_toNat_eq e)
      simp [h, setBit_getLsbD _ _ _ _ t.isLt, hn]

theorem Seq.getP_setP (q : Seq) (r t : BitVec 3) (v : PWord) : (q.setP r v).getP t = if t = r ∧ r ≠ 0 then v else q.getP t := by
  unfold Seq.setP
  by_cases hr : r = 0
  · simp [hr]
  · rw [if_neg hr]
    unfold Seq.getP
    by_cases ht : t = 0
    · have : ¬(t = r ∧ r ≠ 0) := by rintro ⟨h, _⟩; exact hr (h ▸ ht)
      rw [if_pos ht, if_neg this, if_pos ht]
    · rw [if_neg ht, if_neg ht]
      by_cases h : t = r
      · subst h; rw [if_pos ⟨rfl, hr⟩, AMap.get_set_self]
      · have hn : t.toNat ≠ r.toNat := fun e => h (BitVec.eq_of_toNat_eq e)
        simp [h, AMap.get_set_ne _ _ _ hn]

end Sys2Proof.Machine
end

