-- ==== Sys2Proof/Laws/Issue.lean ====
section
/-!
SUPPORT. What issuing a unit does (R12 to R17, R131, R137): one equation for a unit that executes, and what its bookkeeping leaves.
-/

namespace Sys2Proof.Machine

open Sys2Proof

/-- A unit that executes: its body decides between its effect and a trap of its operands. -/
theorem issue_executes {i : Instr} {s : State} (h : s.executes i = true) (body : Ctx → State → Eff) :
    ∃ f, i.info = some f ∧
      issue i s body = match body (ctxOf s f) (issued i f s) with
        | .error t => .next (s.trapAtIssue t.cause t.eaddr).pass
        | .ok t => .next (afterIssue t s.who) := by
  unfold State.executes at h
  cases hf : i.info with
  | none => simp [hf] at h
  | some f =>
    simp only [hf, Bool.and_eq_true, Option.isNone_iff_eq_none, Bool.not_eq_true'] at h
    obtain ⟨⟨⟨⟨h1, h2⟩, h3⟩, h4⟩, h5⟩ := h
    refine ⟨f, rfl, ?_⟩
    simp only [issue, issueWith, hf, h1, h2, h3, h4, h5, Bool.not_true, Bool.false_eq_true, if_false]
    all_goals (cases body (ctxOf s f) (issued i f s) <;> rfl)

/-- The form that the statements use: a body that has its effect. -/
theorem issue_ok {i : Instr} {s : State} (h : s.executes i = true) (body : Ctx → State → Eff) {t : State}
    (hb : ∀ f, i.info = some f → body (ctxOf s f) (issued i f s) = .ok t) : issue i s body = .next (afterIssue t s.who) := by
  obtain ⟨f, hf, he⟩ := issue_executes h body
  rw [he, hb f hf]

/-- A body that traps. -/
theorem issue_error {i : Instr} {s : State} (h : s.executes i = true) (body : Ctx → State → Eff) {t : TrapRec}
    (hb : ∀ f, i.info = some f → body (ctxOf s f) (issued i f s) = .error t) :
    issue i s body = .next (s.trapAtIssue t.cause t.eaddr).pass := by
  obtain ⟨f, hf, he⟩ := issue_executes h body
  rw [he, hb f hf]

/-! The bookkeeping. -/

@[simp] theorem issued_hub (i : Instr) (f : Info) (s : State) : (issued i f s).hub = s.hub := rfl
@[simp] theorem issued_who (i : Instr) (f : Info) (s : State) : (issued i f s).who = s.who := rfl
@[simp] theorem issued_parked (i : Instr) (f : Info) (s : State) : (issued i f s).parked = s.parked := rfl
@[simp] theorem issued_free (i : Instr) (f : Info) (s : State) : (issued i f s).free = s.free := rfl
@[simp] theorem issued_tick (i : Instr) (f : Info) (s : State) : (issued i f s).tick = s.tick := rfl
@[simp] theorem issued_agenda (i : Instr) (f : Info) (s : State) : (issued i f s).agenda = s.agenda := rfl
@[simp] theorem issued_phase (i : Instr) (f : Info) (s : State) : (issued i f s).phase = s.phase := rfl
@[simp] theorem afterIssue_core (s : State) (q : SeqId) : (afterIssue s q).core = s.core := by unfold afterIssue; split <;> simp
@[simp] theorem afterIssue_hub (s : State) (q : SeqId) : (afterIssue s q).hub = s.hub := by unfold afterIssue; split <;> simp
@[simp] theorem afterIssue_parked (s : State) (q : SeqId) : (afterIssue s q).parked = s.parked := by unfold afterIssue; split <;> simp
@[simp] theorem afterIssue_free (s : State) (q : SeqId) : (afterIssue s q).free = s.free := by unfold afterIssue; split <;> simp
@[simp] theorem afterIssue_tick (s : State) (q : SeqId) : (afterIssue s q).tick = s.tick := by unfold afterIssue; split <;> simp
@[simp] theorem afterIssue_agenda (s : State) (q : SeqId) : (afterIssue s q).agenda = s.agenda := by unfold afterIssue; split <;> simp

/-! The bookkeeping of the core, field by field. -/

@[simp] theorem issued_core_die (i : Instr) (f : Info) (s : State) : (issued i f s).core.die = s.core.die := by
  by_cases h : s.who = .mx <;> simp [issued, h]
@[simp] theorem issued_core_cluster (i : Instr) (f : Info) (s : State) : (issued i f s).core.cluster = s.core.cluster := by
  by_cases h : s.who = .mx <;> simp [issued, h]
@[simp] theorem issued_core_core (i : Instr) (f : Info) (s : State) : (issued i f s).core.core = s.core.core := by
  by_cases h : s.who = .mx <;> simp [issued, h]
@[simp] theorem issued_core_status (i : Instr) (f : Info) (s : State) : (issued i f s).core.status = s.core.status := by
  by_cases h : s.who = .mx <;> simp [issued, h]
@[simp] theorem issued_core_task (i : Instr) (f : Info) (s : State) : (issued i f s).core.task = s.core.task := by
  by_cases h : s.who = .mx <;> simp [issued, h]
@[simp] theorem issued_core_tl (i : Instr) (f : Info) (s : State) : (issued i f s).core.tl = s.core.tl := by
  by_cases h : s.who = .mx <;> simp [issued, h]
@[simp] theorem issued_core_ecause1 (i : Instr) (f : Info) (s : State) : (issued i f s).core.ecause1 = s.core.ecause1 := by
  by_cases h : s.who = .mx <;> simp [issued, h]
@[simp] theorem issued_core_ecause2 (i : Instr) (f : Info) (s : State) : (issued i f s).core.ecause2 = s.core.ecause2 := by
  by_cases h : s.who = .mx <;> simp [issued, h]
@[simp] theorem issued_core_epc1 (i : Instr) (f : Info) (s : State) : (issued i f s).core.epc1 = s.core.epc1 := by
  by_cases h : s.who = .mx <;> simp [issued, h]
@[simp] theorem issued_core_epc2 (i : Instr) (f : Info) (s : State) : (issued i f s).core.epc2 = s.core.epc2 := by
  by_cases h : s.who = .mx <;> simp [issued, h]
@[simp] theorem issued_core_eaddr1 (i : Instr) (f : Info) (s : State) : (issued i f s).core.eaddr1 = s.core.eaddr1 := by
  by_cases h : s.who = .mx <;> simp [issued, h]
@[simp] theorem issued_core_eaddr2 (i : Instr) (f : Info) (s : State) : (issued i f s).core.eaddr2 = s.core.eaddr2 := by
  by_cases h : s.who = .mx <;> simp [issued, h]
@[simp] theorem issued_core_eseq1 (i : Instr) (f : Info) (s : State) : (issued i f s).core.eseq1 = s.core.eseq1 := by
  by_cases h : s.who = .mx <;> simp [issued, h]
@[simp] theorem issued_core_eseq2 (i : Instr) (f : Info) (s : State) : (issued i f s).core.eseq2 = s.core.eseq2 := by
  by_cases h : s.who = .mx <;> simp [issued, h]
@[simp] theorem issued_core_tvec1 (i : Instr) (f : Info) (s : State) : (issued i f s).core.tvec1 = s.core.tvec1 := by
  by_cases h : s.who = .mx <;> simp [issued, h]
@[simp] theorem issued_core_tvec2 (i : Instr) (f : Info) (s : State) : (issued i f s).core.tvec2 = s.core.tvec2 := by
  by_cases h : s.who = .mx <;> simp [issued, h]
@[simp] theorem issued_core_ret1 (i : Instr) (f : Info) (s : State) : (issued i f s).core.ret1 = s.core.ret1 := by
  by_cases h : s.who = .mx <;> simp [issued, h]
@[simp] theorem issued_core_ctWd (i : Instr) (f : Info) (s : State) : (issued i f s).core.ctWd = s.core.ctWd := by
  by_cases h : s.who = .mx <;> simp [issued, h]
@[simp] theorem issued_core_ret2 (i : Instr) (f : Info) (s : State) : (issued i f s).core.ret2 = s.core.ret2 := by
  by_cases h : s.who = .mx <;> simp [issued, h]
@[simp] theorem issued_core_chkcfg (i : Instr) (f : Info) (s : State) : (issued i f s).core.chkcfg = s.core.chkcfg := by
  by_cases h : s.who = .mx <;> simp [issued, h]
@[simp] theorem issued_core_cycle (i : Instr) (f : Info) (s : State) : (issued i f s).core.cycle = s.core.cycle := by
  by_cases h : s.who = .mx <;> simp [issued, h]
@[simp] theorem issued_core_mapver (i : Instr) (f : Info) (s : State) : (issued i f s).core.mapver = s.core.mapver := by
  by_cases h : s.who = .mx <;> simp [issued, h]
@[simp] theorem issued_core_coreClass (i : Instr) (f : Info) (s : State) : (issued i f s).core.coreClass = s.core.coreClass := by
  by_cases h : s.who = .mx <;> simp [issued, h]
@[simp] theorem issued_core_rbase (i : Instr) (f : Info) (s : State) : (issued i f s).core.rbase = s.core.rbase := by
  by_cases h : s.who = .mx <;> simp [issued, h]
@[simp] theorem issued_core_bvalid (i : Instr) (f : Info) (s : State) : (issued i f s).core.bvalid = s.core.bvalid := by
  by_cases h : s.who = .mx <;> simp [issued, h]
@[simp] theorem issued_core_suspended (i : Instr) (f : Info) (s : State) : (issued i f s).core.suspended = s.core.suspended := by
  by_cases h : s.who = .mx <;> simp [issued, h]
@[simp] theorem issued_core_tkwdog (i : Instr) (f : Info) (s : State) : (issued i f s).core.tkwdog = s.core.tkwdog := by
  by_cases h : s.who = .mx <;> simp [issued, h]
@[simp] theorem issued_core_fstat (i : Instr) (f : Info) (s : State) : (issued i f s).core.fstat = s.core.fstat := by
  by_cases h : s.who = .mx <;> simp [issued, h]
@[simp] theorem issued_core_replays (i : Instr) (f : Info) (s : State) : (issued i f s).core.replays = s.core.replays := by
  by_cases h : s.who = .mx <;> simp [issued, h]
@[simp] theorem issued_core_bf (i : Instr) (f : Info) (s : State) : (issued i f s).core.bf = s.core.bf := by
  by_cases h : s.who = .mx <;> simp [issued, h]
@[simp] theorem issued_core_hnd (i : Instr) (f : Info) (s : State) : (issued i f s).core.hnd = s.core.hnd := by
  by_cases h : s.who = .mx <;> simp [issued, h]
@[simp] theorem issued_core_bx (i : Instr) (f : Info) (s : State) : (issued i f s).core.bx = s.core.bx := by
  by_cases h : s.who = .mx <;> simp [issued, h]
@[simp] theorem issued_core_errrec (i : Instr) (f : Info) (s : State) : (issued i f s).core.errrec = s.core.errrec := by
  by_cases h : s.who = .mx <;> simp [issued, h]
@[simp] theorem issued_core_mrf (i : Instr) (f : Info) (s : State) : (issued i f s).core.mrf = s.core.mrf := by
  by_cases h : s.who = .mx <;> simp [issued, h]
@[simp] theorem issued_core_acc (i : Instr) (f : Info) (s : State) : (issued i f s).core.acc = s.core.acc := by
  by_cases h : s.who = .mx <;> simp [issued, h]
@[simp] theorem issued_core_spad (i : Instr) (f : Info) (s : State) : (issued i f s).core.spad = s.core.spad := by
  by_cases h : s.who = .mx <;> simp [issued, h]
@[simp] theorem issued_core_spadUe (i : Instr) (f : Info) (s : State) : (issued i f s).core.spadUe = s.core.spadUe := by
  by_cases h : s.who = .mx <;> simp [issued, h]
@[simp] theorem issued_core_veil (i : Instr) (f : Info) (s : State) : (issued i f s).core.veil = s.core.veil := by
  by_cases h : s.who = .mx <;> simp [issued, h]
@[simp] theorem issued_core_drives (i : Instr) (f : Info) (s : State) : (issued i f s).core.drives = s.core.drives := by
  by_cases h : s.who = .mx <;> simp [issued, h]
@[simp] theorem issued_core_slotRes (i : Instr) (f : Info) (s : State) : (issued i f s).core.slotRes = s.core.slotRes := by
  by_cases h : s.who = .mx <;> simp [issued, h]
@[simp] theorem issued_core_slotLast (i : Instr) (f : Info) (s : State) : (issued i f s).core.slotLast = s.core.slotLast := by
  by_cases h : s.who = .mx <;> simp [issued, h]
@[simp] theorem issued_core_lateReads (i : Instr) (f : Info) (s : State) : (issued i f s).core.lateReads = s.core.lateReads := by
  by_cases h : s.who = .mx <;> simp [issued, h]
@[simp] theorem issued_core_lateForms (i : Instr) (f : Info) (s : State) : (issued i f s).core.lateForms = s.core.lateForms := by
  by_cases h : s.who = .mx <;> simp [issued, h]
@[simp] theorem issued_core_mwr (i : Instr) (f : Info) (s : State) : (issued i f s).core.mwr = s.core.mwr := by
  by_cases h : s.who = .mx <;> simp [issued, h]
@[simp] theorem issued_core_ports (i : Instr) (f : Info) (s : State) : (issued i f s).core.ports = s.core.ports := by
  by_cases h : s.who = .mx <;> simp [issued, h]
@[simp] theorem issued_core_accWr (i : Instr) (f : Info) (s : State) : (issued i f s).core.accWr = s.core.accWr := by
  by_cases h : s.who = .mx <;> simp [issued, h]
@[simp] theorem issued_core_arr (i : Instr) (f : Info) (s : State) : (issued i f s).core.arr = s.core.arr := by
  by_cases h : s.who = .mx <;> simp [issued, h]
@[simp] theorem issued_core_arrBusy (i : Instr) (f : Info) (s : State) : (issued i f s).core.arrBusy = s.core.arrBusy := by
  by_cases h : s.who = .mx <;> simp [issued, h]
@[simp] theorem issued_core_heldB (i : Instr) (f : Info) (s : State) : (issued i f s).core.heldB = s.core.heldB := by
  by_cases h : s.who = .mx <;> simp [issued, h]
@[simp] theorem issued_core_topkUntil (i : Instr) (f : Info) (s : State) : (issued i f s).core.topkUntil = s.core.topkUntil := by
  by_cases h : s.who = .mx <;> simp [issued, h]
@[simp] theorem issued_core_topk (i : Instr) (f : Info) (s : State) : (issued i f s).core.topk = s.core.topk := by
  by_cases h : s.who = .mx <;> simp [issued, h]
@[simp] theorem issued_core_sideFree (i : Instr) (f : Info) (s : State) : (issued i f s).core.sideFree = s.core.sideFree := by
  by_cases h : s.who = .mx <;> simp [issued, h]
@[simp] theorem issued_core_done (i : Instr) (f : Info) (s : State) : (issued i f s).core.done = s.core.done := by
  by_cases h : s.who = .mx <;> simp [issued, h]
@[simp] theorem issued_core_posts (i : Instr) (f : Info) (s : State) : (issued i f s).core.posts = s.core.posts := by
  by_cases h : s.who = .mx <;> simp [issued, h]
@[simp] theorem issued_core_flight (i : Instr) (f : Info) (s : State) : (issued i f s).core.flight = s.core.flight := by
  by_cases h : s.who = .mx <;> simp [issued, h]
@[simp] theorem issued_core_cmds (i : Instr) (f : Info) (s : State) : (issued i f s).core.cmds = s.core.cmds := by
  by_cases h : s.who = .mx <;> simp [issued, h]
@[simp] theorem issued_core_lastCopy (i : Instr) (f : Info) (s : State) : (issued i f s).core.lastCopy = s.core.lastCopy := by
  by_cases h : s.who = .mx <;> simp [issued, h]
@[simp] theorem issued_core_staged (i : Instr) (f : Info) (s : State) : (issued i f s).core.staged = s.core.staged := by
  by_cases h : s.who = .mx <;> simp [issued, h]
@[simp] theorem issued_core_stagedDue (i : Instr) (f : Info) (s : State) : (issued i f s).core.stagedDue = s.core.stagedDue := by
  by_cases h : s.who = .mx <;> simp [issued, h]
@[simp] theorem issued_core_sae (i : Instr) (f : Info) (s : State) : (issued i f s).core.sae = s.core.sae := by
  by_cases h : s.who = .mx <;> simp [issued, h]
@[simp] theorem issued_core_pend (i : Instr) (f : Info) (s : State) : (issued i f s).core.pend = s.core.pend := by
  by_cases h : s.who = .mx <;> simp [issued, h]
@[simp] theorem issued_core_consumed (i : Instr) (f : Info) (s : State) : (issued i f s).core.consumed = s.core.consumed := by
  by_cases h : s.who = .mx <;> simp [issued, h]
@[simp] theorem issued_core_regions (i : Instr) (f : Info) (s : State) : (issued i f s).core.regions = s.core.regions := by
  by_cases h : s.who = .mx <;> simp [issued, h]
@[simp] theorem issued_core_abort (i : Instr) (f : Info) (s : State) : (issued i f s).core.abort = s.core.abort := by
  by_cases h : s.who = .mx <;> simp [issued, h]
@[simp] theorem issued_core_tlb (i : Instr) (f : Info) (s : State) : (issued i f s).core.tlb = s.core.tlb := by
  by_cases h : s.who = .mx <;> simp [issued, h]
@[simp] theorem issued_core_pulse (i : Instr) (f : Info) (s : State) : (issued i f s).core.pulse = s.core.pulse := by
  by_cases h : s.who = .mx <;> simp [issued, h]
@[simp] theorem issued_core_nextId (i : Instr) (f : Info) (s : State) : (issued i f s).core.nextId = s.core.nextId := by
  by_cases h : s.who = .mx <;> simp [issued, h]
@[simp] theorem issued_core_trapped (i : Instr) (f : Info) (s : State) : (issued i f s).core.trapped = s.core.trapped := by
  by_cases h : s.who = .mx <;> simp [issued, h]
@[simp] theorem issued_core_preTrap (i : Instr) (f : Info) (s : State) : (issued i f s).core.preTrap = s.core.preTrap := by
  by_cases h : s.who = .mx <;> simp [issued, h]
@[simp] theorem issued_core_mxOver (i : Instr) (f : Info) (s : State) : (issued i f s).core.mxOver = s.core.mxOver := by
  by_cases h : s.who = .mx <;> simp [issued, h]
@[simp] theorem issued_core_pOld (i : Instr) (f : Info) (s : State) : (issued i f s).core.pOld = s.core.pOld := by
  by_cases h : s.who = .mx <;> simp [issued, h]
@[simp] theorem issued_core_reads (i : Instr) (f : Info) (s : State) : (issued i f s).core.reads = s.core.reads := by
  by_cases h : s.who = .mx <;> simp [issued, h]
@[simp] theorem issued_core_sideNow (i : Instr) (f : Info) (s : State) : (issued i f s).core.sideNow = s.core.sideNow := by
  by_cases h : s.who = .mx <;> simp [issued, h]
@[simp] theorem issued_core_sideWr (i : Instr) (f : Info) (s : State) : (issued i f s).core.sideWr = s.core.sideWr := by
  by_cases h : s.who = .mx <;> simp [issued, h]
@[simp] theorem issued_core_tookTrap (i : Instr) (f : Info) (s : State) : (issued i f s).core.tookTrap = s.core.tookTrap := by
  by_cases h : s.who = .mx <;> simp [issued, h, Core.tookTrap]
@[simp] theorem issued_core_resuming (i : Instr) (f : Info) (s : State) : (issued i f s).core.resuming = s.core.resuming := by
  by_cases h : s.who = .mx <;> simp [issued, h]
@[simp] theorem issued_core_ilk (i : Instr) (f : Info) (s : State) : (issued i f s).core.ilk = s.core.ilk := by
  by_cases h : s.who = .mx <;> simp [issued, h]
@[simp] theorem issued_core_replayLeft (i : Instr) (f : Info) (s : State) : (issued i f s).core.replayLeft = s.core.replayLeft := by
  by_cases h : s.who = .mx <;> simp [issued, h]
@[simp] theorem issued_core_drainForms (i : Instr) (f : Info) (s : State) : (issued i f s).core.drainForms = s.core.drainForms := by
  by_cases h : s.who = .mx <;> simp [issued, h]
@[simp] theorem issued_core_ended (i : Instr) (f : Info) (s : State) : (issued i f s).core.ended = s.core.ended := by
  by_cases h : s.who = .mx <;> simp [issued, h]
@[simp] theorem issued_core_leaveAt (i : Instr) (f : Info) (s : State) : (issued i f s).core.leaveAt = s.core.leaveAt := by
  by_cases h : s.who = .mx <;> simp [issued, h]
@[simp] theorem issued_core_restored (i : Instr) (f : Info) (s : State) : (issued i f s).core.restored = s.core.restored := by
  by_cases h : s.who = .mx <;> simp [issued, h]
@[simp] theorem issued_core_preempt (i : Instr) (f : Info) (s : State) : (issued i f s).core.preempt = s.core.preempt := by
  by_cases h : s.who = .mx <;> simp [issued, h]
@[simp] theorem issued_core_rtWait (i : Instr) (f : Info) (s : State) : (issued i f s).core.rtWait = s.core.rtWait := by
  by_cases h : s.who = .mx <;> simp [issued, h]
@[simp] theorem issued_core_lost (i : Instr) (f : Info) (s : State) : (issued i f s).core.lost = s.core.lost := by
  by_cases h : s.who = .mx <;> simp [issued, h]
@[simp] theorem issued_core_map (i : Instr) (f : Info) (s : State) : (issued i f s).core.map = s.core.map := by
  by_cases h : s.who = .mx <;> simp [issued, h]

/-- The issuing sequencer after the bookkeeping. -/
theorem issued_seq_self (i : Instr) (f : Info) (s : State) :
    (issued i f s).core.seq s.who =
      { s.seq with
        pc := (ctxOf s f).next, last := s.core.now s.who, minGap := if s.who = .mx && !branchClass i then 0 else 1, redo := false,
        waiting := false, wd := 0, brkPass := none } := by
  by_cases h : s.who = .mx
  · simp [issued, h, State.seq, Core.seq, Core.updSeq, Core.setSeq]
  · simp [issued, h, State.seq]

theorem issued_seq_ne (i : Instr) (f : Info) (s : State) {q : SeqId} (hq : q ≠ s.who) :
    (issued i f s).core.seq q = s.core.seq q := by
  have h1 : ∀ g, (Core.updSeq s.core s.who g).seq q = s.core.seq q := fun g => Core.seq_updSeq_ne _ g hq
  by_cases h : s.who = .mx
  · rw [h] at hq
    cases q <;> simp [issued, h, Core.seq, Core.updSeq, Core.setSeq] at hq ⊢
  · simp [issued, h, h1]

theorem issued_seq_who (i : Instr) (f : Info) (s : State) (q : SeqId) :
    (issued i f s).core.seq q = if q = s.who then
      { s.seq with
        pc := (ctxOf s f).next, last := s.core.now s.who, minGap := if s.who = .mx && !branchClass i then 0 else 1, redo := false,
        waiting := false, wd := 0, brkPass := none }
      else s.core.seq q := by
  split
  · subst q; exact issued_seq_self i f s
  · exact issued_seq_ne i f s ‹_›

@[simp] theorem issued_seq_x (i : Instr) (f : Info) (s : State) (q : SeqId) : ((issued i f s).core.seq q).x = (s.core.seq q).x := by
  rw [issued_seq_who]; split <;> simp [State.seq, *]
@[simp] theorem issued_seq_xp (i : Instr) (f : Info) (s : State) (q : SeqId) : ((issued i f s).core.seq q).xp = (s.core.seq q).xp := by
  rw [issued_seq_who]; split <;> simp [State.seq, *]
@[simp] theorem issued_seq_p (i : Instr) (f : Info) (s : State) (q : SeqId) : ((issued i f s).core.seq q).p = (s.core.seq q).p := by
  rw [issued_seq_who]; split <;> simp [State.seq, *]
@[simp] theorem issued_seq_loops (i : Instr) (f : Info) (s : State) (q : SeqId) : ((issued i f s).core.seq q).loops = (s.core.seq q).loops := by
  rw [issued_seq_who]; split <;> simp [State.seq, *]
@[simp] theorem issued_seq_tmask (i : Instr) (f : Info) (s : State) (q : SeqId) : ((issued i f s).core.seq q).tmask = (s.core.seq q).tmask := by
  rw [issued_seq_who]; split <;> simp [State.seq, *]
@[simp] theorem issued_seq_srseed (i : Instr) (f : Info) (s : State) (q : SeqId) : ((issued i f s).core.seq q).srseed = (s.core.seq q).srseed := by
  rw [issued_seq_who]; split <;> simp [State.seq, *]
@[simp] theorem issued_seq_cl (i : Instr) (f : Info) (s : State) (q : SeqId) : ((issued i f s).core.seq q).cl = (s.core.seq q).cl := by
  rw [issued_seq_who]; split <;> simp [State.seq, *]
@[simp] theorem issued_seq_ended (i : Instr) (f : Info) (s : State) (q : SeqId) : ((issued i f s).core.seq q).ended = (s.core.seq q).ended := by
  rw [issued_seq_who]; split <;> simp [State.seq, *]
@[simp] theorem issued_seq_endPc (i : Instr) (f : Info) (s : State) (q : SeqId) : ((issued i f s).core.seq q).endPc = (s.core.seq q).endPc := by
  rw [issued_seq_who]; split <;> simp [State.seq, *]
@[simp] theorem issued_seq_brk (i : Instr) (f : Info) (s : State) (q : SeqId) : ((issued i f s).core.seq q).brk = (s.core.seq q).brk := by
  rw [issued_seq_who]; split <;> simp [State.seq, *]
@[simp] theorem issued_seq_hold (i : Instr) (f : Info) (s : State) (q : SeqId) : ((issued i f s).core.seq q).hold = (s.core.seq q).hold := by
  rw [issued_seq_who]; split <;> simp [State.seq, *]

@[simp] theorem issued_getX (i : Instr) (f : Info) (s : State) (q : SeqId) (r : BitVec 5) :
    ((issued i f s).core.seq q).getX r = (s.core.seq q).getX r := by simp [Seq.getX]
@[simp] theorem issued_getXP (i : Instr) (f : Info) (s : State) (q : SeqId) (r : BitVec 5) :
    ((issued i f s).core.seq q).getXP r = (s.core.seq q).getXP r := by simp [Seq.getXP]
@[simp] theorem issued_getP (i : Instr) (f : Info) (s : State) (q : SeqId) (r : BitVec 3) :
    ((issued i f s).core.seq q).getP r = (s.core.seq q).getP r := by simp [Seq.getP]
@[simp] theorem issued_getCl (i : Instr) (f : Info) (s : State) (q : SeqId) (n : Nat) :
    ((issued i f s).core.seq q).getCl n = (s.core.seq q).getCl n := by simp [Seq.getCl]
theorem issued_pc (i : Instr) (f : Info) (s : State) : ((issued i f s).core.seq s.who).pc = (ctxOf s f).next := by
  rw [issued_seq_self]
theorem issued_now (i : Instr) (f : Info) (s : State) (q : SeqId) : (issued i f s).core.now q = s.core.now q := by
  simp [Core.now]
@[simp] theorem issued_getAcc (i : Instr) (f : Info) (s : State) (r n : Nat) : (issued i f s).core.getAcc r n = s.core.getAcc r n := by
  simp [Core.getAcc]
@[simp] theorem issued_getH (i : Instr) (f : Info) (s : State) (r : BitVec 5) : (issued i f s).core.getH r = s.core.getH r := by
  simp [Core.getH]
@[simp] theorem issued_getBf (i : Instr) (f : Info) (s : State) (b : Nat) : (issued i f s).core.getBf b = s.core.getBf b := by
  simp [Core.getBf]

/-- The tokens after the bookkeeping. -/
theorem issued_tok (i : Instr) (f : Info) (s : State) : (issued i f s).core.tok = (s.core.takeTokens (tokenWait i f)).tok := by
  by_cases h : s.who = .mx
  · simp [issued, h, Core.takeTokens]; split <;> simp [Core.setTok, Core.getTok]
  · simp [issued, h, Core.takeTokens]; split <;> simp [Core.setTok, Core.getTok]

theorem issued_tookTokens (i : Instr) (f : Info) (s : State) (hf : i.info = some f) : TookTokens i s.core (issued i f s).core := by
  intro n
  rw [Core.getTok, issued_tok]
  simp only [hf, Option.bind_some]
  unfold Core.takeTokens
  cases hw : tokenWait i f with
  | none => simp [Core.getTok]
  | some w =>
    obtain ⟨q, k⟩ := w
    show (Core.getTok (s.core.setTok q _) n).count = _
    by_cases h : q = n
    · subst h; simp
    · simp [h, Core.getTok_setTok_ne _ _ (Ne.symm h)]

/-- Issuing writes nothing of what a program reads. -/
theorem issued_unwritten (i : Instr) (f : Info) (s : State) (hf : i.info = some f) : Unwritten i s (issued i f s) where
  memory := ⟨fun _ => rfl, fun _ => rfl, fun _ => by simp, rfl⟩
  registers := ⟨by simp, by simp, by simp, by simp, by simp, by simp⟩
  stores := ⟨by simp, by simp, by simp, by simp, by simp⟩
  specials := by constructor <;> simp
  pcs := fun p hp => by rw [issued_seq_ne i f s hp]
  tokens := issued_tookTokens i f s hf

end Sys2Proof.Machine
end

