-- ==== Sys2Proof/Laws/LayoutFits.lean ====
section
/-!
SUPPORT. The operand bits of each layout lie between the length and P bits below and the major opcode above.
-/

namespace Sys2Proof

theorem RRR.enc_fits (o : RRR) : (o.enc) % 8 = 0 ∧ o.enc < 2 ^ 26 := by
  obtain ⟨d_, a_, b_, w_⟩ := o
  have h0 := d_.isLt
  have h1 := a_.isLt
  have h2 := b_.isLt
  have h3 := w_.toNat_lt
  constructor <;> simp only [RRR.enc] <;> omega

theorem RR.enc_fits (o : RR) : (o.enc) % 8 = 0 ∧ o.enc < 2 ^ 26 := by
  obtain ⟨d_, a_, w_⟩ := o
  have h0 := d_.isLt
  have h1 := a_.isLt
  have h2 := w_.toNat_lt
  constructor <;> simp only [RR.enc] <;> omega

theorem Sel.enc_fits (o : Sel) : (o.enc) % 8 = 0 ∧ o.enc < 2 ^ 26 := by
  obtain ⟨d_, a_, b_, w_, t_⟩ := o
  have h0 := d_.isLt
  have h1 := a_.isLt
  have h2 := b_.isLt
  have h3 := w_.toNat_lt
  have h4 := t_.isLt
  constructor <;> simp only [Sel.enc] <;> omega

theorem Mov.enc_fits (o : Mov) : (o.enc) % 8 = 0 ∧ o.enc < 2 ^ 26 := by
  obtain ⟨d_, a_⟩ := o
  have h0 := d_.isLt
  have h1 := a_.isLt
  constructor <;> simp only [Mov.enc] <;> omega

theorem RI.enc_fits (o : RI) : (o.enc) % 8 = 0 ∧ o.enc < 2 ^ 26 := by
  obtain ⟨d_, a_, i_⟩ := o
  have h0 := d_.isLt
  have h1 := a_.isLt
  have h2 := i_.isLt
  constructor <;> simp only [RI.enc] <;> omega

theorem Li.enc_fits (o : Li) : (o.enc) % 8 = 0 ∧ o.enc < 2 ^ 26 := by
  obtain ⟨d_, i_⟩ := o
  have h0 := d_.isLt
  have h1 := i_.isLt
  constructor <;> simp only [Li.enc] <;> omega

theorem Cmp.enc_fits (o : Cmp) : (o.enc) % 8 = 0 ∧ o.enc < 2 ^ 26 := by
  obtain ⟨e_, a_, b_, c_, w_⟩ := o
  have h0 := e_.isLt
  have h1 := a_.isLt
  have h2 := b_.isLt
  have h3 := c_.isLt
  have h4 := w_.toNat_lt
  constructor <;> simp only [Cmp.enc] <;> omega

theorem Cmpi.enc_fits (o : Cmpi) : (o.enc) % 8 = 0 ∧ o.enc < 2 ^ 26 := by
  obtain ⟨e_, a_, c_, i_⟩ := o
  have h0 := e_.isLt
  have h1 := a_.isLt
  have h2 := c_.isLt
  have h3 := i_.isLt
  constructor <;> simp only [Cmpi.enc] <;> omega

theorem PPP.enc_fits (o : PPP) : (o.enc) % 8 = 0 ∧ o.enc < 2 ^ 26 := by
  obtain ⟨e_, f_, g_⟩ := o
  have h0 := e_.isLt
  have h1 := f_.isLt
  have h2 := g_.isLt
  constructor <;> simp only [PPP.enc] <;> omega

theorem PP.enc_fits (o : PP) : (o.enc) % 8 = 0 ∧ o.enc < 2 ^ 26 := by
  obtain ⟨e_, f_⟩ := o
  have h0 := e_.isLt
  have h1 := f_.isLt
  constructor <;> simp only [PP.enc] <;> omega

theorem Off23.enc_fits (o : Off23) : (o.enc) % 8 = 0 ∧ o.enc < 2 ^ 26 := by
  obtain ⟨o_⟩ := o
  have h0 := o_.isLt
  constructor <;> simp only [Off23.enc] <;> omega

theorem BrP.enc_fits (o : BrP) : (o.enc) % 8 = 0 ∧ o.enc < 2 ^ 26 := by
  obtain ⟨f_, o_⟩ := o
  have h0 := f_.isLt
  have h1 := o_.isLt
  constructor <;> simp only [BrP.enc] <;> omega

theorem JmpX.enc_fits (o : JmpX) : (o.enc) % 8 = 0 ∧ o.enc < 2 ^ 26 := by
  obtain ⟨a_⟩ := o
  have h0 := a_.isLt
  constructor <;> simp only [JmpX.enc] <;> omega

theorem LoopX.enc_fits (o : LoopX) : (o.enc) % 8 = 0 ∧ o.enc < 2 ^ 26 := by
  obtain ⟨a_, o_⟩ := o
  have h0 := a_.isLt
  have h1 := o_.isLt
  constructor <;> simp only [LoopX.enc] <;> omega

theorem Tk.enc_fits (o : Tk) : (o.enc) % 8 = 0 ∧ o.enc < 2 ^ 26 := by
  obtain ⟨q_, n_⟩ := o
  have h0 := q_.isLt
  have h1 := n_.isLt
  constructor <;> simp only [Tk.enc] <;> omega

theorem TkCnt.enc_fits (o : TkCnt) : (o.enc) % 8 = 0 ∧ o.enc < 2 ^ 26 := by
  obtain ⟨d_, q_⟩ := o
  have h0 := d_.isLt
  have h1 := q_.isLt
  constructor <;> simp only [TkCnt.enc] <;> omega

theorem Code.enc_fits (o : Code) : (o.enc) % 8 = 0 ∧ o.enc < 2 ^ 26 := by
  obtain ⟨k_⟩ := o
  have h0 := k_.isLt
  constructor <;> simp only [Code.enc] <;> omega

theorem Ldx.enc_fits (o : Ldx) : (o.enc) % 8 = 0 ∧ o.enc < 2 ^ 26 := by
  obtain ⟨d_, a_, y_, x_, o_⟩ := o
  have h0 := d_.isLt
  have h1 := a_.isLt
  have h2 := y_.isLt
  have h3 := x_.toNat_lt
  have h4 := o_.isLt
  constructor <;> simp only [Ldx.enc] <;> omega

theorem Stx.enc_fits (o : Stx) : (o.enc) % 8 = 0 ∧ o.enc < 2 ^ 26 := by
  obtain ⟨s_, a_, y_, o_⟩ := o
  have h0 := s_.isLt
  have h1 := a_.isLt
  have h2 := y_.isLt
  have h3 := o_.isLt
  constructor <;> simp only [Stx.enc] <;> omega

theorem Rdsr.enc_fits (o : Rdsr) : (o.enc) % 8 = 0 ∧ o.enc < 2 ^ 26 := by
  obtain ⟨d_, r_⟩ := o
  have h0 := d_.isLt
  have h1 := r_.isLt
  constructor <;> simp only [Rdsr.enc] <;> omega

theorem Wrsr.enc_fits (o : Wrsr) : (o.enc) % 8 = 0 ∧ o.enc < 2 ^ 26 := by
  obtain ⟨r_, a_⟩ := o
  have h0 := r_.isLt
  have h1 := a_.isLt
  constructor <;> simp only [Wrsr.enc] <;> omega

theorem AddiL.enc_fits (o : AddiL) : (o.enc) % 8 = 0 ∧ o.enc < 2 ^ 40 := by
  obtain ⟨d_, a_, w_, i_⟩ := o
  have h0 := d_.isLt
  have h1 := a_.isLt
  have h2 := w_.toNat_lt
  have h3 := i_.isLt
  constructor <;> simp only [AddiL.enc] <;> omega

theorem Lih.enc_fits (o : Lih) : (o.enc) % 8 = 0 ∧ o.enc < 2 ^ 40 := by
  obtain ⟨d_, i_⟩ := o
  have h0 := d_.isLt
  have h1 := i_.isLt
  constructor <;> simp only [Lih.enc] <;> omega

theorem Mad.enc_fits (o : Mad) : (o.enc) % 8 = 0 ∧ o.enc < 2 ^ 40 := by
  obtain ⟨d_, a_, b_, c_, w_⟩ := o
  have h0 := d_.isLt
  have h1 := a_.isLt
  have h2 := b_.isLt
  have h3 := c_.isLt
  have h4 := w_.toNat_lt
  constructor <;> simp only [Mad.enc] <;> omega

theorem CmpL.enc_fits (o : CmpL) : (o.enc) % 8 = 0 ∧ o.enc < 2 ^ 40 := by
  obtain ⟨e_, a_, c_, w_, i_⟩ := o
  have h0 := e_.isLt
  have h1 := a_.isLt
  have h2 := c_.isLt
  have h3 := w_.toNat_lt
  have h4 := i_.isLt
  constructor <;> simp only [CmpL.enc] <;> omega

theorem LoopL.enc_fits (o : LoopL) : (o.enc) % 8 = 0 ∧ o.enc < 2 ^ 40 := by
  obtain ⟨o_, n_⟩ := o
  have h0 := o_.isLt
  have h1 := n_.isLt
  constructor <;> simp only [LoopL.enc] <;> omega

theorem CrgnOpen.enc_fits (o : CrgnOpen) : (o.enc) % 8 = 0 ∧ o.enc < 2 ^ 40 := by
  obtain ⟨id_, o_⟩ := o
  have h0 := id_.isLt
  have h1 := o_.isLt
  constructor <;> simp only [CrgnOpen.enc] <;> omega

theorem Rot.enc_fits (o : Rot) : (o.enc) % 8 = 0 ∧ o.enc < 2 ^ 40 := by
  obtain ⟨k_⟩ := o
  have h0 := k_.isLt
  constructor <;> simp only [Rot.enc] <;> omega

theorem Xlate.enc_fits (o : Xlate) : (o.enc) % 8 = 0 ∧ o.enc < 2 ^ 40 := by
  obtain ⟨h_, a_⟩ := o
  have h0 := h_.isLt
  have h1 := a_.isLt
  constructor <;> simp only [Xlate.enc] <;> omega

theorem Hinv.enc_fits (o : Hinv) : (o.enc) % 8 = 0 ∧ o.enc < 2 ^ 40 := by
  obtain ⟨h_, all_⟩ := o
  have h0 := h_.isLt
  have h1 := all_.toNat_lt
  constructor <;> simp only [Hinv.enc] <;> omega

theorem Hqry.enc_fits (o : Hqry) : (o.enc) % 8 = 0 ∧ o.enc < 2 ^ 40 := by
  obtain ⟨d_, h_, part_⟩ := o
  have h0 := d_.isLt
  have h1 := h_.isLt
  have h2 := part_.isLt
  constructor <;> simp only [Hqry.enc] <;> omega

theorem HX.enc_fits (o : HX) : (o.enc) % 8 = 0 ∧ o.enc < 2 ^ 40 := by
  obtain ⟨h_, o_⟩ := o
  have h0 := h_.isLt
  have h1 := o_.isLt
  constructor <;> simp only [HX.enc] <;> omega

theorem ChkpX.enc_fits (o : ChkpX) (v : Nat) (hv : v < 2) : (o.enc + v * 2 ^ 39) % 8 = 0 ∧ o.enc + v * 2 ^ 39 < 2 ^ 40 := by
  obtain ⟨a_, o_⟩ := o
  have h0 := a_.isLt
  have h1 := o_.isLt
  constructor <;> simp only [ChkpX.enc] <;> omega

theorem ChkpM.enc_fits (o : ChkpM) (v : Nat) (hv : v < 2) : (o.enc + v * 2 ^ 39) % 8 = 0 ∧ o.enc + v * 2 ^ 39 < 2 ^ 40 := by
  obtain ⟨m_, o_⟩ := o
  have h0 := m_.isLt
  have h1 := o_.isLt
  constructor <;> simp only [ChkpM.enc] <;> omega

theorem Chkr.enc_fits (o : Chkr) : (o.enc) % 8 = 0 ∧ o.enc < 2 ^ 40 := by
  obtain ⟨sq_, pr_, o_⟩ := o
  have h0 := sq_.isLt
  have h1 := pr_.isLt
  have h2 := o_.isLt
  constructor <;> simp only [Chkr.enc] <;> omega

theorem LdgP.enc_fits (o : LdgP) (v : Nat) (hv : v < 2) : (o.enc + v * 2 ^ 21) % 8 = 0 ∧ o.enc + v * 2 ^ 21 < 2 ^ 40 := by
  obtain ⟨d_, h_, o_, y_, x_, f_, disp_⟩ := o
  have h0 := d_.isLt
  have h1 := h_.isLt
  have h2 := o_.isLt
  have h3 := y_.isLt
  have h4 := x_.toNat_lt
  have h5 := f_.isLt
  have h6 := disp_.isLt
  constructor <;> simp only [LdgP.enc] <;> omega

theorem Ldg.enc_fits (o : Ldg) (v : Nat) (hv : v < 2) : (o.enc + v * 2 ^ 21) % 8 = 0 ∧ o.enc + v * 2 ^ 21 < 2 ^ 40 := by
  obtain ⟨d_, h_, o_, y_, x_, disp_⟩ := o
  have h0 := d_.isLt
  have h1 := h_.isLt
  have h2 := o_.isLt
  have h3 := y_.isLt
  have h4 := x_.toNat_lt
  have h5 := disp_.isLt
  constructor <;> simp only [Ldg.enc] <;> omega

theorem Stg.enc_fits (o : Stg) : (o.enc) % 8 = 0 ∧ o.enc < 2 ^ 40 := by
  obtain ⟨s_, h_, o_, y_, disp_⟩ := o
  have h0 := s_.isLt
  have h1 := h_.isLt
  have h2 := o_.isLt
  have h3 := y_.isLt
  have h4 := disp_.isLt
  constructor <;> simp only [Stg.enc] <;> omega

theorem Vld.enc_fits (o : Vld) : (o.enc) % 8 = 0 ∧ o.enc < 2 ^ 40 := by
  obtain ⟨m_, a_, deco_, int_, blk_, disp_⟩ := o
  have h0 := m_.isLt
  have h1 := a_.isLt
  have h2 := deco_.toNat_lt
  have h3 := int_.toNat_lt
  have h4 := blk_.isLt
  have h5 := disp_.isLt
  constructor <;> simp only [Vld.enc] <;> omega

theorem Vst.enc_fits (o : Vst) : (o.enc) % 8 = 0 ∧ o.enc < 2 ^ 40 := by
  obtain ⟨m_, a_, disp_⟩ := o
  have h0 := m_.isLt
  have h1 := a_.isLt
  have h2 := disp_.isLt
  constructor <;> simp only [Vst.enc] <;> omega

theorem Vldg.enc_fits (o : Vldg) : (o.enc) % 8 = 0 ∧ o.enc < 2 ^ 40 := by
  obtain ⟨m_, f_, h_, o_, disp_⟩ := o
  have h0 := m_.isLt
  have h1 := f_.isLt
  have h2 := h_.isLt
  have h3 := o_.isLt
  have h4 := disp_.isLt
  constructor <;> simp only [Vldg.enc] <;> omega

theorem Vstg.enc_fits (o : Vstg) : (o.enc) % 8 = 0 ∧ o.enc < 2 ^ 40 := by
  obtain ⟨m_, h_, o_, disp_⟩ := o
  have h0 := m_.isLt
  have h1 := h_.isLt
  have h2 := o_.isLt
  have h3 := disp_.isLt
  constructor <;> simp only [Vstg.enc] <;> omega

theorem Vldb.enc_fits (o : Vldb) : (o.enc) % 8 = 0 ∧ o.enc < 2 ^ 40 := by
  obtain ⟨m_, n_, a_, disp_⟩ := o
  have h0 := m_.isLt
  have h1 := n_.isLt
  have h2 := a_.isLt
  have h3 := disp_.isLt
  constructor <;> simp only [Vldb.enc] <;> omega

theorem Bxld.enc_fits (o : Bxld) : (o.enc) % 8 = 0 ∧ o.enc < 2 ^ 40 := by
  obtain ⟨n_, a_⟩ := o
  have h0 := n_.isLt
  have h1 := a_.isLt
  constructor <;> simp only [Bxld.enc] <;> omega

theorem OrdLd.enc_fits (o : OrdLd) : (o.enc) % 8 = 0 ∧ o.enc < 2 ^ 40 := by
  obtain ⟨d_, h_, o_, y_, x_⟩ := o
  have h0 := d_.isLt
  have h1 := h_.isLt
  have h2 := o_.isLt
  have h3 := y_.isLt
  have h4 := x_.toNat_lt
  constructor <;> simp only [OrdLd.enc] <;> omega

theorem OrdSt.enc_fits (o : OrdSt) : (o.enc) % 8 = 0 ∧ o.enc < 2 ^ 40 := by
  obtain ⟨s_, h_, o_, y_⟩ := o
  have h0 := s_.isLt
  have h1 := h_.isLt
  have h2 := o_.isLt
  have h3 := y_.isLt
  constructor <;> simp only [OrdSt.enc] <;> omega

theorem Waita.enc_fits (o : Waita) : (o.enc) % 8 = 0 ∧ o.enc < 2 ^ 40 := by
  obtain ⟨e_, a_, v_, to_⟩ := o
  have h0 := e_.isLt
  have h1 := a_.isLt
  have h2 := v_.isLt
  have h3 := to_.isLt
  constructor <;> simp only [Waita.enc] <;> omega

theorem Cplv.enc_fits (o : Cplv) : (o.enc) % 8 = 0 ∧ o.enc < 2 ^ 40 := by
  obtain ⟨n_, c_, s_, d_⟩ := o
  have h0 := n_.isLt
  have h1 := c_.isLt
  have h2 := s_.isLt
  have h3 := d_.isLt
  constructor <;> simp only [Cplv.enc] <;> omega

theorem Cpgo.enc_fits (o : Cpgo) : (o.enc) % 8 = 0 ∧ o.enc < 2 ^ 40 := by
  obtain ⟨d_, s_, b_, dep_, f_, v_, tm_, fl_, ord_, mx_⟩ := o
  have h0 := d_.isLt
  have h1 := s_.isLt
  have h2 := b_.isLt
  have h3 := dep_.isLt
  have h4 := f_.isLt
  have h5 := v_.isLt
  have h6 := tm_.toNat_lt
  have h7 := fl_.toNat_lt
  have h8 := ord_.toNat_lt
  have h9 := mx_.toNat_lt
  constructor <;> simp only [Cpgo.enc] <;> omega

theorem Cpacc.enc_fits (o : Cpacc) : (o.enc) % 8 = 0 ∧ o.enc < 2 ^ 40 := by
  obtain ⟨d_, row_, nr_, cg_, ncg_, f32_⟩ := o
  have h0 := d_.isLt
  have h1 := row_.isLt
  have h2 := nr_.isLt
  have h3 := cg_.isLt
  have h4 := ncg_.isLt
  have h5 := f32_.toNat_lt
  constructor <;> simp only [Cpacc.enc] <;> omega

theorem MxStage.enc_fits (o : MxStage) : (o.enc) % 8 = 0 ∧ o.enc < 2 ^ 40 := by
  obtain ⟨a_, b_, s_, row_, mode_, op_⟩ := o
  have h0 := a_.isLt
  have h1 := b_.isLt
  have h2 := s_.isLt
  have h3 := row_.isLt
  have h4 := mode_.isLt
  have h5 := op_.isLt
  constructor <;> simp only [MxStage.enc] <;> omega

theorem Bfmt.enc_fits (o : Bfmt) : (o.enc) % 8 = 0 ∧ o.enc < 2 ^ 40 := by
  obtain ⟨b_, v_⟩ := o
  have h0 := b_.isLt
  have h1 := v_.isLt
  constructor <;> simp only [Bfmt.enc] <;> omega

theorem Bfmtr.enc_fits (o : Bfmtr) : (o.enc) % 8 = 0 ∧ o.enc < 2 ^ 40 := by
  obtain ⟨b_, a_⟩ := o
  have h0 := b_.isLt
  have h1 := a_.isLt
  constructor <;> simp only [Bfmtr.enc] <;> omega

theorem Saq.enc_fits (o : Saq) : (o.enc) % 8 = 0 ∧ o.enc < 2 ^ 40 := by
  obtain ⟨b_, i_, v_, n_, op_, ty_⟩ := o
  have h0 := b_.isLt
  have h1 := i_.isLt
  have h2 := v_.isLt
  have h3 := n_.isLt
  have h4 := op_.isLt
  have h5 := ty_.isLt
  constructor <;> simp only [Saq.enc] <;> omega

theorem Fsig.enc_fits (o : Fsig) : (o.enc) % 8 = 0 ∧ o.enc < 2 ^ 40 := by
  obtain ⟨t_, v_⟩ := o
  have h0 := t_.isLt
  have h1 := v_.isLt
  constructor <;> simp only [Fsig.enc] <;> omega

theorem ObjV.enc_fits (o : ObjV) (v : Nat) (hv : v < 4) : (o.enc + v * 2 ^ 28) % 8 = 0 ∧ o.enc + v * 2 ^ 28 < 2 ^ 40 := by
  obtain ⟨a_, b_⟩ := o
  have h0 := a_.isLt
  have h1 := b_.isLt
  constructor <;> simp only [ObjV.enc] <;> omega

theorem Obj.enc_fits (o : Obj) (v : Nat) (hv : v < 4) : (o.enc + v * 2 ^ 28) % 8 = 0 ∧ o.enc + v * 2 ^ 28 < 2 ^ 40 := by
  obtain ⟨a_⟩ := o
  have h0 := a_.isLt
  constructor <;> simp only [Obj.enc] <;> omega

theorem Bind.enc_fits (o : Bind) : (o.enc) % 8 = 0 ∧ o.enc < 2 ^ 40 := by
  obtain ⟨a_, b_, l_⟩ := o
  have h0 := a_.isLt
  have h1 := b_.isLt
  have h2 := l_.isLt
  constructor <;> simp only [Bind.enc] <;> omega

theorem Sycas.enc_fits (o : Sycas) : (o.enc) % 8 = 0 ∧ o.enc < 2 ^ 40 := by
  obtain ⟨d_, a_, e_, n_⟩ := o
  have h0 := d_.isLt
  have h1 := a_.isLt
  have h2 := e_.isLt
  have h3 := n_.isLt
  constructor <;> simp only [Sycas.enc] <;> omega

theorem Syrd.enc_fits (o : Syrd) : (o.enc) % 8 = 0 ∧ o.enc < 2 ^ 40 := by
  obtain ⟨d_, a_⟩ := o
  have h0 := d_.isLt
  have h1 := a_.isLt
  constructor <;> simp only [Syrd.enc] <;> omega

theorem Xfence.enc_fits (o : Xfence) : (o.enc) % 8 = 0 ∧ o.enc < 2 ^ 40 := by
  obtain ⟨a_, b_⟩ := o
  have h0 := a_.isLt
  have h1 := b_.isLt
  constructor <;> simp only [Xfence.enc] <;> omega

theorem Cstash.enc_fits (o : Cstash) : (o.enc) % 8 = 0 ∧ o.enc < 2 ^ 40 := by
  obtain ⟨d_, sel_⟩ := o
  have h0 := d_.isLt
  have h1 := sel_.isLt
  constructor <;> simp only [Cstash.enc] <;> omega

theorem Cunstash.enc_fits (o : Cunstash) : (o.enc) % 8 = 0 ∧ o.enc < 2 ^ 40 := by
  obtain ⟨d_⟩ := o
  have h0 := d_.isLt
  constructor <;> simp only [Cunstash.enc] <;> omega

theorem Csend.enc_fits (o : Csend) : (o.enc) % 8 = 0 ∧ o.enc < 2 ^ 40 := by
  obtain ⟨s_, b_, dep_, dir_⟩ := o
  have h0 := s_.isLt
  have h1 := b_.isLt
  have h2 := dep_.isLt
  have h3 := dir_.toNat_lt
  constructor <;> simp only [Csend.enc] <;> omega

theorem Cfree.enc_fits (o : Cfree) : (o.enc) % 8 = 0 ∧ o.enc < 2 ^ 40 := by
  obtain ⟨kind_⟩ := o
  have h0 := kind_.toNat_lt
  constructor <;> simp only [Cfree.enc] <;> omega

theorem Vrd.enc_fits (o : Vrd) : (o.enc) % 8 = 0 ∧ o.enc < 2 ^ 40 := by
  obtain ⟨pos_, f_, m_⟩ := o
  have h0 := pos_.isLt
  have h1 := f_.isLt
  have h2 := m_.isLt
  constructor <;> simp only [Vrd.enc] <;> omega

theorem Vwr.enc_fits (o : Vwr) : (o.enc) % 8 = 0 ∧ o.enc < 2 ^ 40 := by
  obtain ⟨pos_, f_, m_, masked_, pr_⟩ := o
  have h0 := pos_.isLt
  have h1 := f_.isLt
  have h2 := m_.isLt
  have h3 := masked_.toNat_lt
  have h4 := pr_.isLt
  constructor <;> simp only [Vwr.enc] <;> omega

theorem Slot.enc_fits (o : Slot) : (o.enc) % 8 = 0 ∧ o.enc < 2 ^ 40 := by
  obtain ⟨pos_, fd_, fa_, fb_, fc_, lt_, minor_, imm_⟩ := o
  have h0 := pos_.isLt
  have h1 := fd_.isLt
  have h2 := fa_.isLt
  have h3 := fb_.isLt
  have h4 := fc_.isLt
  have h5 := lt_.isLt
  have h6 := minor_.isLt
  have h7 := imm_.isLt
  constructor <;> simp only [Slot.enc] <;> omega

theorem Port.enc_fits (o : Port) : (o.enc) % 8 = 0 ∧ o.enc < 2 ^ 40 := by
  obtain ⟨lt_, minor_, d_, a_, b_⟩ := o
  have h0 := lt_.isLt
  have h1 := minor_.isLt
  have h2 := d_.isLt
  have h3 := a_.isLt
  have h4 := b_.isLt
  constructor <;> simp only [Port.enc] <;> omega

theorem Mat.enc_fits (o : Mat) : (o.enc) % 8 = 0 ∧ o.enc < 2 ^ 40 := by
  obtain ⟨a_, b_, s_, row_, mode_⟩ := o
  have h0 := a_.isLt
  have h1 := b_.isLt
  have h2 := s_.isLt
  have h3 := row_.isLt
  have h4 := mode_.isLt
  constructor <;> simp only [Mat.enc] <;> omega

theorem Ttopk.enc_fits (o : Ttopk) : (o.enc) % 8 = 0 ∧ o.enc < 2 ^ 40 := by
  obtain ⟨m_, row_, nr_, k_, max_, f32_, nc_⟩ := o
  have h0 := m_.isLt
  have h1 := row_.isLt
  have h2 := nr_.isLt
  have h3 := k_.isLt
  have h4 := max_.toNat_lt
  have h5 := f32_.toNat_lt
  have h6 := nc_.isLt
  constructor <;> simp only [Ttopk.enc] <;> omega

theorem AccMov.enc_fits (o : AccMov) : (o.enc) % 8 = 0 ∧ o.enc < 2 ^ 40 := by
  obtain ⟨m_, row_, cg_, xr_⟩ := o
  have h0 := m_.isLt
  have h1 := row_.isLt
  have h2 := cg_.isLt
  have h3 := xr_.isLt
  constructor <;> simp only [AccMov.enc] <;> omega

theorem Accz.enc_fits (o : Accz) : (o.enc) % 8 = 0 ∧ o.enc < 2 ^ 40 := by
  obtain ⟨row_, n_, xr_⟩ := o
  have h0 := row_.isLt
  have h1 := n_.isLt
  have h2 := xr_.isLt
  constructor <;> simp only [Accz.enc] <;> omega

end Sys2Proof
end

