-- ==== Sys2Proof/Laws/PerInstr.lean ====
section
/-!
SUPPORT. Statements made instruction by instruction. `RoundTrip`: the bytes of a well-formed instruction, whatever follows
them, decode to it, with its length in parcels and with every must-be-zero bit found zero (R124 to R148).
-/

namespace Sys2Proof.Laws.RoundTrip

open Sys2Proof

/-- The round trip of one instruction; an event of the table has no word. -/
def Statement (i : Instr) : Prop :=
  i.info.isSome → i.wf = true → ∀ rest : List Byte, decode (encode i ++ rest) = .unit i (encodeParcels i).length true

theorem event {i : Instr} (h : i.info = none) : Statement i := fun h' => by simp [h] at h'

theorem short {i : Instr} {h : Short} {m body : Nat} (hi : i.info = some (h.info m)) (hb : i.body = body) (hm : m < 64)
    (hf : body % 8 = 0 ∧ body < 2 ^ 26)
    (ht : ∀ lo < 8, shortTable m h (m * 2 ^ 26 + body + lo) = some (i, true)) : Statement i := by
  intro _ hw rest
  have hc : h.pfx.count ≤ 2 := by
    simp only [Instr.wf, hi, Bool.and_eq_true, decide_eq_true_eq] at hw
    exact hw.1.1.1
  refine decode_encode (f := h.info m) hi hc ?_ ?_ ?_ rest
  · simp only [wordOf, Short.info, hb, Bool.false_eq_true, ↓reduceIte]; omega
  · simp only [wordOf, Short.info, hb, Bool.false_eq_true, ↓reduceIte]; omega
  · intro q
    have hq := q.toNat_lt
    have hmaj : (m * 2 ^ 26 + body + q.toNat * 4) / 2 ^ 26 % 2 ^ 6 = m := by omega
    simp only [decodeWord, wordOf, Short.info, hb, Bool.false_eq_true, ↓reduceIte, hmaj]
    exact ht _ (by omega)

theorem long {i : Instr} {h : Long} {m body : Nat} (hi : i.info = some (h.info m)) (hb : i.body = body) (hm : m < 256)
    (hf : body % 8 = 0 ∧ body < 2 ^ 40)
    (ht : ∀ hi lo, lo < 8 → longTable m h (hi * 2 ^ 40 + body + lo) = some (i, true)) : Statement i := by
  intro _ hw rest
  have hc : h.pfx.count ≤ 2 := by
    simp only [Instr.wf, hi, Bool.and_eq_true, decide_eq_true_eq] at hw
    exact hw.1.1.1
  have h1 := h.wait.isLt
  have h2 := h.signal.isLt
  refine decode_encode (f := h.info m) hi hc ?_ ?_ ?_ rest
  · simp only [wordOf, Long.info, hb, ↓reduceIte]; omega
  · simp only [wordOf, Long.info, hb, ↓reduceIte]; omega
  · intro q
    have hq := q.toNat_lt
    have e : h.wait.toNat * 2 ^ 56 + h.signal.toNat * 2 ^ 48 + m * 2 ^ 40 + body + 2 + q.toNat * 4 =
        (h.wait.toNat * 2 ^ 16 + h.signal.toNat * 2 ^ 8 + m) * 2 ^ 40 + body + (2 + q.toNat * 4) := by omega
    have hmaj : (h.wait.toNat * 2 ^ 56 + h.signal.toNat * 2 ^ 48 + m * 2 ^ 40 + body + 2 + q.toNat * 4) / 2 ^ 40 % 2 ^ 8 = m := by
      omega
    have h3 : fld (h.wait.toNat * 2 ^ 56 + h.signal.toNat * 2 ^ 48 + m * 2 ^ 40 + body + 2 + q.toNat * 4) 56 8 = h.wait :=
      fld_eq (by omega)
    have h4 : fld (h.wait.toNat * 2 ^ 56 + h.signal.toNat * 2 ^ 48 + m * 2 ^ 40 + body + 2 + q.toNat * 4) 48 8 = h.signal :=
      fld_eq (by omega)
    simp only [decodeWord, wordOf, Long.info, hb, ↓reduceIte, hmaj, h3, h4]
    rw [e]
    exact ht _ _ (by omega)

theorem add (h : Short) (o : RRR) : Statement (.add h o) :=
  short (h := h) (m := 0x00) (body := o.enc) rfl rfl (by decide) (RRR.enc_fits o) fun lo hl => by
    show some (Instr.add h (RRR.dec _).1, (RRR.dec _).2) = _
    rw [RRR.dec_enc o 0x00 lo hl]
theorem sub (h : Short) (o : RRR) : Statement (.sub h o) :=
  short (h := h) (m := 0x01) (body := o.enc) rfl rfl (by decide) (RRR.enc_fits o) fun lo hl => by
    show some (Instr.sub h (RRR.dec _).1, (RRR.dec _).2) = _
    rw [RRR.dec_enc o 0x01 lo hl]
theorem and (h : Short) (o : RRR) : Statement (.and h o) :=
  short (h := h) (m := 0x02) (body := o.enc) rfl rfl (by decide) (RRR.enc_fits o) fun lo hl => by
    show some (Instr.and h (RRR.dec _).1, (RRR.dec _).2) = _
    rw [RRR.dec_enc o 0x02 lo hl]
theorem or (h : Short) (o : RRR) : Statement (.or h o) :=
  short (h := h) (m := 0x03) (body := o.enc) rfl rfl (by decide) (RRR.enc_fits o) fun lo hl => by
    show some (Instr.or h (RRR.dec _).1, (RRR.dec _).2) = _
    rw [RRR.dec_enc o 0x03 lo hl]
theorem xor (h : Short) (o : RRR) : Statement (.xor h o) :=
  short (h := h) (m := 0x04) (body := o.enc) rfl rfl (by decide) (RRR.enc_fits o) fun lo hl => by
    show some (Instr.xor h (RRR.dec _).1, (RRR.dec _).2) = _
    rw [RRR.dec_enc o 0x04 lo hl]
theorem andn (h : Short) (o : RRR) : Statement (.andn h o) :=
  short (h := h) (m := 0x05) (body := o.enc) rfl rfl (by decide) (RRR.enc_fits o) fun lo hl => by
    show some (Instr.andn h (RRR.dec _).1, (RRR.dec _).2) = _
    rw [RRR.dec_enc o 0x05 lo hl]
theorem shl (h : Short) (o : RRR) : Statement (.shl h o) :=
  short (h := h) (m := 0x06) (body := o.enc) rfl rfl (by decide) (RRR.enc_fits o) fun lo hl => by
    show some (Instr.shl h (RRR.dec _).1, (RRR.dec _).2) = _
    rw [RRR.dec_enc o 0x06 lo hl]
theorem shr (h : Short) (o : RRR) : Statement (.shr h o) :=
  short (h := h) (m := 0x07) (body := o.enc) rfl rfl (by decide) (RRR.enc_fits o) fun lo hl => by
    show some (Instr.shr h (RRR.dec _).1, (RRR.dec _).2) = _
    rw [RRR.dec_enc o 0x07 lo hl]
theorem sha (h : Short) (o : RRR) : Statement (.sha h o) :=
  short (h := h) (m := 0x08) (body := o.enc) rfl rfl (by decide) (RRR.enc_fits o) fun lo hl => by
    show some (Instr.sha h (RRR.dec _).1, (RRR.dec _).2) = _
    rw [RRR.dec_enc o 0x08 lo hl]
theorem rot (h : Short) (o : RRR) : Statement (.rot h o) :=
  short (h := h) (m := 0x09) (body := o.enc) rfl rfl (by decide) (RRR.enc_fits o) fun lo hl => by
    show some (Instr.rot h (RRR.dec _).1, (RRR.dec _).2) = _
    rw [RRR.dec_enc o 0x09 lo hl]
theorem min (h : Short) (o : RRR) : Statement (.min h o) :=
  short (h := h) (m := 0x0A) (body := o.enc) rfl rfl (by decide) (RRR.enc_fits o) fun lo hl => by
    show some (Instr.min h (RRR.dec _).1, (RRR.dec _).2) = _
    rw [RRR.dec_enc o 0x0A lo hl]
theorem max (h : Short) (o : RRR) : Statement (.max h o) :=
  short (h := h) (m := 0x0B) (body := o.enc) rfl rfl (by decide) (RRR.enc_fits o) fun lo hl => by
    show some (Instr.max h (RRR.dec _).1, (RRR.dec _).2) = _
    rw [RRR.dec_enc o 0x0B lo hl]
theorem minu (h : Short) (o : RRR) : Statement (.minu h o) :=
  short (h := h) (m := 0x0C) (body := o.enc) rfl rfl (by decide) (RRR.enc_fits o) fun lo hl => by
    show some (Instr.minu h (RRR.dec _).1, (RRR.dec _).2) = _
    rw [RRR.dec_enc o 0x0C lo hl]
theorem maxu (h : Short) (o : RRR) : Statement (.maxu h o) :=
  short (h := h) (m := 0x0D) (body := o.enc) rfl rfl (by decide) (RRR.enc_fits o) fun lo hl => by
    show some (Instr.maxu h (RRR.dec _).1, (RRR.dec _).2) = _
    rw [RRR.dec_enc o 0x0D lo hl]
theorem mul (h : Short) (o : RRR) : Statement (.mul h o) :=
  short (h := h) (m := 0x0E) (body := o.enc) rfl rfl (by decide) (RRR.enc_fits o) fun lo hl => by
    show some (Instr.mul h (RRR.dec _).1, (RRR.dec _).2) = _
    rw [RRR.dec_enc o 0x0E lo hl]
theorem mulh (h : Short) (o : RRR) : Statement (.mulh h o) :=
  short (h := h) (m := 0x0F) (body := o.enc) rfl rfl (by decide) (RRR.enc_fits o) fun lo hl => by
    show some (Instr.mulh h (RRR.dec _).1, (RRR.dec _).2) = _
    rw [RRR.dec_enc o 0x0F lo hl]
theorem div (h : Short) (o : RRR) : Statement (.div h o) :=
  short (h := h) (m := 0x10) (body := o.enc) rfl rfl (by decide) (RRR.enc_fits o) fun lo hl => by
    show some (Instr.div h (RRR.dec _).1, (RRR.dec _).2) = _
    rw [RRR.dec_enc o 0x10 lo hl]
theorem divu (h : Short) (o : RRR) : Statement (.divu h o) :=
  short (h := h) (m := 0x11) (body := o.enc) rfl rfl (by decide) (RRR.enc_fits o) fun lo hl => by
    show some (Instr.divu h (RRR.dec _).1, (RRR.dec _).2) = _
    rw [RRR.dec_enc o 0x11 lo hl]
theorem rem (h : Short) (o : RRR) : Statement (.rem h o) :=
  short (h := h) (m := 0x12) (body := o.enc) rfl rfl (by decide) (RRR.enc_fits o) fun lo hl => by
    show some (Instr.rem h (RRR.dec _).1, (RRR.dec _).2) = _
    rw [RRR.dec_enc o 0x12 lo hl]
theorem remu (h : Short) (o : RRR) : Statement (.remu h o) :=
  short (h := h) (m := 0x13) (body := o.enc) rfl rfl (by decide) (RRR.enc_fits o) fun lo hl => by
    show some (Instr.remu h (RRR.dec _).1, (RRR.dec _).2) = _
    rw [RRR.dec_enc o 0x13 lo hl]
theorem clz (h : Short) (o : RR) : Statement (.clz h o) :=
  short (h := h) (m := 0x14) (body := o.enc) rfl rfl (by decide) (RR.enc_fits o) fun lo hl => by
    show some (Instr.clz h (RR.dec _).1, (RR.dec _).2) = _
    rw [RR.dec_enc o 0x14 lo hl]
theorem popc (h : Short) (o : RR) : Statement (.popc h o) :=
  short (h := h) (m := 0x15) (body := o.enc) rfl rfl (by decide) (RR.enc_fits o) fun lo hl => by
    show some (Instr.popc h (RR.dec _).1, (RR.dec _).2) = _
    rw [RR.dec_enc o 0x15 lo hl]
theorem sel (h : Short) (o : Sel) : Statement (.sel h o) :=
  short (h := h) (m := 0x16) (body := o.enc) rfl rfl (by decide) (Sel.enc_fits o) fun lo hl => by
    show some (Instr.sel h (Sel.dec _).1, (Sel.dec _).2) = _
    rw [Sel.dec_enc o 0x16 lo hl]
theorem mov (h : Short) (o : Mov) : Statement (.mov h o) :=
  short (h := h) (m := 0x17) (body := o.enc) rfl rfl (by decide) (Mov.enc_fits o) fun lo hl => by
    show some (Instr.mov h (Mov.dec _).1, (Mov.dec _).2) = _
    rw [Mov.dec_enc o 0x17 lo hl]
theorem addi (h : Short) (o : RI) : Statement (.addi h o) :=
  short (h := h) (m := 0x18) (body := o.enc) rfl rfl (by decide) (RI.enc_fits o) fun lo hl => by
    show some (Instr.addi h (RI.dec _).1, (RI.dec _).2) = _
    rw [RI.dec_enc o 0x18 lo hl]
theorem andi (h : Short) (o : RI) : Statement (.andi h o) :=
  short (h := h) (m := 0x19) (body := o.enc) rfl rfl (by decide) (RI.enc_fits o) fun lo hl => by
    show some (Instr.andi h (RI.dec _).1, (RI.dec _).2) = _
    rw [RI.dec_enc o 0x19 lo hl]
theorem ori (h : Short) (o : RI) : Statement (.ori h o) :=
  short (h := h) (m := 0x1A) (body := o.enc) rfl rfl (by decide) (RI.enc_fits o) fun lo hl => by
    show some (Instr.ori h (RI.dec _).1, (RI.dec _).2) = _
    rw [RI.dec_enc o 0x1A lo hl]
theorem xori (h : Short) (o : RI) : Statement (.xori h o) :=
  short (h := h) (m := 0x1B) (body := o.enc) rfl rfl (by decide) (RI.enc_fits o) fun lo hl => by
    show some (Instr.xori h (RI.dec _).1, (RI.dec _).2) = _
    rw [RI.dec_enc o 0x1B lo hl]
theorem shli (h : Short) (o : RI) : Statement (.shli h o) :=
  short (h := h) (m := 0x1C) (body := o.enc) rfl rfl (by decide) (RI.enc_fits o) fun lo hl => by
    show some (Instr.shli h (RI.dec _).1, (RI.dec _).2) = _
    rw [RI.dec_enc o 0x1C lo hl]
theorem shri (h : Short) (o : RI) : Statement (.shri h o) :=
  short (h := h) (m := 0x1D) (body := o.enc) rfl rfl (by decide) (RI.enc_fits o) fun lo hl => by
    show some (Instr.shri h (RI.dec _).1, (RI.dec _).2) = _
    rw [RI.dec_enc o 0x1D lo hl]
theorem shai (h : Short) (o : RI) : Statement (.shai h o) :=
  short (h := h) (m := 0x1E) (body := o.enc) rfl rfl (by decide) (RI.enc_fits o) fun lo hl => by
    show some (Instr.shai h (RI.dec _).1, (RI.dec _).2) = _
    rw [RI.dec_enc o 0x1E lo hl]
theorem li (h : Short) (o : Li) : Statement (.li h o) :=
  short (h := h) (m := 0x1F) (body := o.enc) rfl rfl (by decide) (Li.enc_fits o) fun lo hl => by
    show some (Instr.li h (Li.dec _).1, (Li.dec _).2) = _
    rw [Li.dec_enc o 0x1F lo hl]
theorem cmp (h : Short) (o : Cmp) : Statement (.cmp h o) :=
  short (h := h) (m := 0x20) (body := o.enc) rfl rfl (by decide) (Cmp.enc_fits o) fun lo hl => by
    show some (Instr.cmp h (Cmp.dec _).1, (Cmp.dec _).2) = _
    rw [Cmp.dec_enc o 0x20 lo hl]
theorem cmpi (h : Short) (o : Cmpi) : Statement (.cmpi h o) :=
  short (h := h) (m := 0x21) (body := o.enc) rfl rfl (by decide) (Cmpi.enc_fits o) fun lo hl => by
    show some (Instr.cmpi h (Cmpi.dec _).1, (Cmpi.dec _).2) = _
    rw [Cmpi.dec_enc o 0x21 lo hl]
theorem pand (h : Short) (o : PPP) : Statement (.pand h o) :=
  short (h := h) (m := 0x22) (body := o.enc) rfl rfl (by decide) (PPP.enc_fits o) fun lo hl => by
    show some (Instr.pand h (PPP.dec _).1, (PPP.dec _).2) = _
    rw [PPP.dec_enc o 0x22 lo hl]
theorem por (h : Short) (o : PPP) : Statement (.por h o) :=
  short (h := h) (m := 0x23) (body := o.enc) rfl rfl (by decide) (PPP.enc_fits o) fun lo hl => by
    show some (Instr.por h (PPP.dec _).1, (PPP.dec _).2) = _
    rw [PPP.dec_enc o 0x23 lo hl]
theorem pxor (h : Short) (o : PPP) : Statement (.pxor h o) :=
  short (h := h) (m := 0x24) (body := o.enc) rfl rfl (by decide) (PPP.enc_fits o) fun lo hl => by
    show some (Instr.pxor h (PPP.dec _).1, (PPP.dec _).2) = _
    rw [PPP.dec_enc o 0x24 lo hl]
theorem pnot (h : Short) (o : PP) : Statement (.pnot h o) :=
  short (h := h) (m := 0x25) (body := o.enc) rfl rfl (by decide) (PP.enc_fits o) fun lo hl => by
    show some (Instr.pnot h (PP.dec _).1, (PP.dec _).2) = _
    rw [PP.dec_enc o 0x25 lo hl]
theorem pmov (h : Short) (o : PP) : Statement (.pmov h o) :=
  short (h := h) (m := 0x26) (body := o.enc) rfl rfl (by decide) (PP.enc_fits o) fun lo hl => by
    show some (Instr.pmov h (PP.dec _).1, (PP.dec _).2) = _
    rw [PP.dec_enc o 0x26 lo hl]
theorem br (h : Short) (o : Off23) : Statement (.br h o) :=
  short (h := h) (m := 0x28) (body := o.enc) rfl rfl (by decide) (Off23.enc_fits o) fun lo hl => by
    show some (Instr.br h (Off23.dec _).1, (Off23.dec _).2) = _
    rw [Off23.dec_enc o 0x28 lo hl]
theorem bp (h : Short) (o : BrP) : Statement (.bp h o) :=
  short (h := h) (m := 0x29) (body := o.enc) rfl rfl (by decide) (BrP.enc_fits o) fun lo hl => by
    show some (Instr.bp h (BrP.dec _).1, (BrP.dec _).2) = _
    rw [BrP.dec_enc o 0x29 lo hl]
theorem bnp (h : Short) (o : BrP) : Statement (.bnp h o) :=
  short (h := h) (m := 0x2A) (body := o.enc) rfl rfl (by decide) (BrP.enc_fits o) fun lo hl => by
    show some (Instr.bnp h (BrP.dec _).1, (BrP.dec _).2) = _
    rw [BrP.dec_enc o 0x2A lo hl]
theorem call (h : Short) (o : Off23) : Statement (.call h o) :=
  short (h := h) (m := 0x2B) (body := o.enc) rfl rfl (by decide) (Off23.enc_fits o) fun lo hl => by
    show some (Instr.call h (Off23.dec _).1, (Off23.dec _).2) = _
    rw [Off23.dec_enc o 0x2B lo hl]
theorem ret (h : Short) (o : JmpX) : Statement (.ret h o) :=
  short (h := h) (m := 0x2C) (body := o.enc) rfl rfl (by decide) (JmpX.enc_fits o) fun lo hl => by
    show some (Instr.ret h (JmpX.dec _).1, (JmpX.dec _).2) = _
    rw [JmpX.dec_enc o 0x2C lo hl]
theorem jmpx (h : Short) (o : JmpX) : Statement (.jmpx h o) :=
  short (h := h) (m := 0x2D) (body := o.enc) rfl rfl (by decide) (JmpX.enc_fits o) fun lo hl => by
    show some (Instr.jmpx h (JmpX.dec _).1, (JmpX.dec _).2) = _
    rw [JmpX.dec_enc o 0x2D lo hl]
theorem loop (h : Short) (o : LoopX) : Statement (.loop h o) :=
  short (h := h) (m := 0x2E) (body := o.enc) rfl rfl (by decide) (LoopX.enc_fits o) fun lo hl => by
    show some (Instr.loop h (LoopX.dec _).1, (LoopX.dec _).2) = _
    rw [LoopX.dec_enc o 0x2E lo hl]
theorem endl (h : Short) : Statement (.endl h) :=
  short (h := h) (m := 0x2F) (body := 0) rfl rfl (by decide) (by decide) fun lo hl => by
    show some (Instr.endl h, zer _ 3 23) = _
    rw [zer_eq (by omega)]
theorem tkpost (h : Short) (o : Tk) : Statement (.tkpost h o) :=
  short (h := h) (m := 0x30) (body := o.enc) rfl rfl (by decide) (Tk.enc_fits o) fun lo hl => by
    show some (Instr.tkpost h (Tk.dec _).1, (Tk.dec _).2) = _
    rw [Tk.dec_enc o 0x30 lo hl]
theorem tkwait (h : Short) (o : Tk) : Statement (.tkwait h o) :=
  short (h := h) (m := 0x31) (body := o.enc) rfl rfl (by decide) (Tk.enc_fits o) fun lo hl => by
    show some (Instr.tkwait h (Tk.dec _).1, (Tk.dec _).2) = _
    rw [Tk.dec_enc o 0x31 lo hl]
theorem tkcnt (h : Short) (o : TkCnt) : Statement (.tkcnt h o) :=
  short (h := h) (m := 0x32) (body := o.enc) rfl rfl (by decide) (TkCnt.enc_fits o) fun lo hl => by
    show some (Instr.tkcnt h (TkCnt.dec _).1, (TkCnt.dec _).2) = _
    rw [TkCnt.dec_enc o 0x32 lo hl]
theorem yield (h : Short) : Statement (.yield h) :=
  short (h := h) (m := 0x33) (body := 0) rfl rfl (by decide) (by decide) fun lo hl => by
    show some (Instr.yield h, zer _ 3 23) = _
    rw [zer_eq (by omega)]
theorem safept (h : Short) : Statement (.safept h) :=
  short (h := h) (m := 0x34) (body := 0) rfl rfl (by decide) (by decide) fun lo hl => by
    show some (Instr.safept h, zer _ 3 23) = _
    rw [zer_eq (by omega)]
theorem brk (h : Short) (o : Code) : Statement (.brk h o) :=
  short (h := h) (m := 0x35) (body := o.enc) rfl rfl (by decide) (Code.enc_fits o) fun lo hl => by
    show some (Instr.brk h (Code.dec _).1, (Code.dec _).2) = _
    rw [Code.dec_enc o 0x35 lo hl]
theorem trap (h : Short) (o : Code) : Statement (.trap h o) :=
  short (h := h) (m := 0x36) (body := o.enc) rfl rfl (by decide) (Code.enc_fits o) fun lo hl => by
    show some (Instr.trap h (Code.dec _).1, (Code.dec _).2) = _
    rw [Code.dec_enc o 0x36 lo hl]
theorem tret (h : Short) : Statement (.tret h) :=
  short (h := h) (m := 0x37) (body := 0) rfl rfl (by decide) (by decide) fun lo hl => by
    show some (Instr.tret h, zer _ 3 23) = _
    rw [zer_eq (by omega)]
theorem ldx (h : Short) (o : Ldx) : Statement (.ldx h o) :=
  short (h := h) (m := 0x38) (body := o.enc) rfl rfl (by decide) (Ldx.enc_fits o) fun lo hl => by
    show some (Instr.ldx h (Ldx.dec _).1, (Ldx.dec _).2) = _
    rw [Ldx.dec_enc o 0x38 lo hl]
theorem stx (h : Short) (o : Stx) : Statement (.stx h o) :=
  short (h := h) (m := 0x39) (body := o.enc) rfl rfl (by decide) (Stx.enc_fits o) fun lo hl => by
    show some (Instr.stx h (Stx.dec _).1, (Stx.dec _).2) = _
    rw [Stx.dec_enc o 0x39 lo hl]
theorem rdsr (h : Short) (o : Rdsr) : Statement (.rdsr h o) :=
  short (h := h) (m := 0x3A) (body := o.enc) rfl rfl (by decide) (Rdsr.enc_fits o) fun lo hl => by
    show some (Instr.rdsr h (Rdsr.dec _).1, (Rdsr.dec _).2) = _
    rw [Rdsr.dec_enc o 0x3A lo hl]
theorem wrsr (h : Short) (o : Wrsr) : Statement (.wrsr h o) :=
  short (h := h) (m := 0x3B) (body := o.enc) rfl rfl (by decide) (Wrsr.enc_fits o) fun lo hl => by
    show some (Instr.wrsr h (Wrsr.dec _).1, (Wrsr.dec _).2) = _
    rw [Wrsr.dec_enc o 0x3B lo hl]
theorem taskend (h : Short) : Statement (.taskend h) :=
  short (h := h) (m := 0x3C) (body := 0) rfl rfl (by decide) (by decide) fun lo hl => by
    show some (Instr.taskend h, zer _ 3 23) = _
    rw [zer_eq (by omega)]
theorem nop (h : Short) : Statement (.nop h) :=
  short (h := h) (m := 0x3D) (body := 0) rfl rfl (by decide) (by decide) fun lo hl => by
    show some (Instr.nop h, zer _ 3 23) = _
    rw [zer_eq (by omega)]
theorem addiL (h : Long) (o : AddiL) : Statement (.addiL h o) :=
  long (h := h) (m := 0x00) (body := o.enc) rfl rfl (by decide) (AddiL.enc_fits o) fun hi lo hl => by
    show some (Instr.addiL h (AddiL.dec _).1, (AddiL.dec _).2) = _
    rw [AddiL.dec_enc o hi lo hl]
theorem lih (h : Long) (o : Lih) : Statement (.lih h o) :=
  long (h := h) (m := 0x01) (body := o.enc) rfl rfl (by decide) (Lih.enc_fits o) fun hi lo hl => by
    show some (Instr.lih h (Lih.dec _).1, (Lih.dec _).2) = _
    rw [Lih.dec_enc o hi lo hl]
theorem mad (h : Long) (o : Mad) : Statement (.mad h o) :=
  long (h := h) (m := 0x02) (body := o.enc) rfl rfl (by decide) (Mad.enc_fits o) fun hi lo hl => by
    show some (Instr.mad h (Mad.dec _).1, (Mad.dec _).2) = _
    rw [Mad.dec_enc o hi lo hl]
theorem cmpL (h : Long) (o : CmpL) : Statement (.cmpL h o) :=
  long (h := h) (m := 0x03) (body := o.enc) rfl rfl (by decide) (CmpL.enc_fits o) fun hi lo hl => by
    show some (Instr.cmpL h (CmpL.dec _).1, (CmpL.dec _).2) = _
    rw [CmpL.dec_enc o hi lo hl]
theorem loopL (h : Long) (o : LoopL) : Statement (.loopL h o) :=
  long (h := h) (m := 0x04) (body := o.enc) rfl rfl (by decide) (LoopL.enc_fits o) fun hi lo hl => by
    show some (Instr.loopL h (LoopL.dec _).1, (LoopL.dec _).2) = _
    rw [LoopL.dec_enc o hi lo hl]
theorem nopL (h : Long) : Statement (.nopL h) :=
  long (h := h) (m := 0x05) (body := 0) rfl rfl (by decide) (by decide) fun hi lo hl => by
    show some (Instr.nopL h, zer _ 3 37) = _
    rw [zer_eq (by omega)]
theorem crgnOpen (h : Long) (o : CrgnOpen) : Statement (.crgnOpen h o) :=
  long (h := h) (m := 0x06) (body := o.enc) rfl rfl (by decide) (CrgnOpen.enc_fits o) fun hi lo hl => by
    show some (Instr.crgnOpen h (CrgnOpen.dec _).1, (CrgnOpen.dec _).2) = _
    rw [CrgnOpen.dec_enc o hi lo hl]
theorem crgnClose (h : Long) : Statement (.crgnClose h) :=
  long (h := h) (m := 0x07) (body := 0) rfl rfl (by decide) (by decide) fun hi lo hl => by
    show some (Instr.crgnClose h, zer _ 3 37) = _
    rw [zer_eq (by omega)]
theorem crgnAbort (h : Long) : Statement (.crgnAbort h) :=
  long (h := h) (m := 0x08) (body := 0) rfl rfl (by decide) (by decide) fun hi lo hl => by
    show some (Instr.crgnAbort h, zer _ 3 37) = _
    rw [zer_eq (by omega)]
theorem rotb (h : Long) (o : Rot) : Statement (.rotb h o) :=
  long (h := h) (m := 0x09) (body := o.enc) rfl rfl (by decide) (Rot.enc_fits o) fun hi lo hl => by
    show some (Instr.rotb h (Rot.dec _).1, (Rot.dec _).2) = _
    rw [Rot.dec_enc o hi lo hl]
theorem setrb (h : Long) (o : Rot) : Statement (.setrb h o) :=
  long (h := h) (m := 0x0A) (body := o.enc) rfl rfl (by decide) (Rot.enc_fits o) fun hi lo hl => by
    show some (Instr.setrb h (Rot.dec _).1, (Rot.dec _).2) = _
    rw [Rot.dec_enc o hi lo hl]
theorem xlate (h : Long) (o : Xlate) : Statement (.xlate h o) :=
  long (h := h) (m := 0x0B) (body := o.enc) rfl rfl (by decide) (Xlate.enc_fits o) fun hi lo hl => by
    show some (Instr.xlate h (Xlate.dec _).1, (Xlate.dec _).2) = _
    rw [Xlate.dec_enc o hi lo hl]
theorem hinv (h : Long) (o : Hinv) : Statement (.hinv h o) :=
  long (h := h) (m := 0x0C) (body := o.enc) rfl rfl (by decide) (Hinv.enc_fits o) fun hi lo hl => by
    show some (Instr.hinv h (Hinv.dec _).1, (Hinv.dec _).2) = _
    rw [Hinv.dec_enc o hi lo hl]
theorem hqry (h : Long) (o : Hqry) : Statement (.hqry h o) :=
  long (h := h) (m := 0x0D) (body := o.enc) rfl rfl (by decide) (Hqry.enc_fits o) fun hi lo hl => by
    show some (Instr.hqry h (Hqry.dec _).1, (Hqry.dec _).2) = _
    rw [Hqry.dec_enc o hi lo hl]
theorem pgreq (h : Long) (o : HX) : Statement (.pgreq h o) :=
  long (h := h) (m := 0x0E) (body := o.enc) rfl rfl (by decide) (HX.enc_fits o) fun hi lo hl => by
    show some (Instr.pgreq h (HX.dec _).1, (HX.dec _).2) = _
    rw [HX.dec_enc o hi lo hl]
theorem mxres (h : Long) : Statement (.mxres h) :=
  long (h := h) (m := 0x0F) (body := 0) rfl rfl (by decide) (by decide) fun hi lo hl => by
    show some (Instr.mxres h, zer _ 3 37) = _
    rw [zer_eq (by omega)]
theorem chkpMrf (h : Long) (o : ChkpM) : Statement (.chkpMrf h o) :=
  long (h := h) (m := 0x10) (body := (o.enc + 0 * 2 ^ 39)) rfl rfl (by decide) (ChkpM.enc_fits o 0 (by decide)) fun hi lo hl => by
    have hs : (hi * 2 ^ 40 + (o.enc + 0 * 2 ^ 39) + lo) / 2 ^ 39 % 2 ^ 1 = 0 := by
      have hb := ChkpM.enc_fits o 0 (by decide)
      simp only [ChkpM.enc] at hb ⊢
      omega
    have key (w : Nat) (hw : w / 2 ^ 39 % 2 ^ 1 = 0) (hd : ChkpM.dec w = (o, true)) : longTable 0x10 h w = some (Instr.chkpMrf h o, true) := by
      show (if _ then _ else _) = _
      simp only [hw, hd]
      rfl
    exact key _ hs (ChkpM.dec_enc o hi lo 0 hl (by decide))
theorem chkpX (h : Long) (o : ChkpX) : Statement (.chkpX h o) :=
  long (h := h) (m := 0x10) (body := (o.enc + 1 * 2 ^ 39)) rfl rfl (by decide) (ChkpX.enc_fits o 1 (by decide)) fun hi lo hl => by
    have hs : (hi * 2 ^ 40 + (o.enc + 1 * 2 ^ 39) + lo) / 2 ^ 39 % 2 ^ 1 = 1 := by
      have hb := ChkpX.enc_fits o 1 (by decide)
      simp only [ChkpX.enc] at hb ⊢
      omega
    have key (w : Nat) (hw : w / 2 ^ 39 % 2 ^ 1 = 1) (hd : ChkpX.dec w = (o, true)) : longTable 0x10 h w = some (Instr.chkpX h o, true) := by
      show (if _ then _ else _) = _
      simp only [hw, hd]
      rfl
    exact key _ hs (ChkpX.dec_enc o hi lo 1 hl (by decide))
theorem chkr (h : Long) (o : Chkr) : Statement (.chkr h o) :=
  long (h := h) (m := 0x11) (body := o.enc) rfl rfl (by decide) (Chkr.enc_fits o) fun hi lo hl => by
    show some (Instr.chkr h (Chkr.dec _).1, (Chkr.dec _).2) = _
    rw [Chkr.dec_enc o hi lo hl]
theorem ldg (h : Long) (o : Ldg) : Statement (.ldg h o) :=
  long (h := h) (m := 0x20) (body := (o.enc + 0 * 2 ^ 21)) rfl rfl (by decide) (Ldg.enc_fits o 0 (by decide)) fun hi lo hl => by
    have hs : (hi * 2 ^ 40 + (o.enc + 0 * 2 ^ 21) + lo) / 2 ^ 21 % 2 ^ 1 = 0 := by
      have hb := Ldg.enc_fits o 0 (by decide)
      simp only [Ldg.enc] at hb ⊢
      omega
    have key (w : Nat) (hw : w / 2 ^ 21 % 2 ^ 1 = 0) (hd : Ldg.dec w = (o, true)) : longTable 0x20 h w = some (Instr.ldg h o, true) := by
      show (if _ then _ else _) = _
      simp only [hw, hd]
      rfl
    exact key _ hs (Ldg.dec_enc o hi lo 0 hl (by decide))
theorem ldgP (h : Long) (o : LdgP) : Statement (.ldgP h o) :=
  long (h := h) (m := 0x20) (body := (o.enc + 1 * 2 ^ 21)) rfl rfl (by decide) (LdgP.enc_fits o 1 (by decide)) fun hi lo hl => by
    have hs : (hi * 2 ^ 40 + (o.enc + 1 * 2 ^ 21) + lo) / 2 ^ 21 % 2 ^ 1 = 1 := by
      have hb := LdgP.enc_fits o 1 (by decide)
      simp only [LdgP.enc] at hb ⊢
      omega
    have key (w : Nat) (hw : w / 2 ^ 21 % 2 ^ 1 = 1) (hd : LdgP.dec w = (o, true)) : longTable 0x20 h w = some (Instr.ldgP h o, true) := by
      show (if _ then _ else _) = _
      simp only [hw, hd]
      rfl
    exact key _ hs (LdgP.dec_enc o hi lo 1 hl (by decide))
theorem stg (h : Long) (o : Stg) : Statement (.stg h o) :=
  long (h := h) (m := 0x21) (body := o.enc) rfl rfl (by decide) (Stg.enc_fits o) fun hi lo hl => by
    show some (Instr.stg h (Stg.dec _).1, (Stg.dec _).2) = _
    rw [Stg.dec_enc o hi lo hl]
theorem vld (h : Long) (o : Vld) : Statement (.vld h o) :=
  long (h := h) (m := 0x22) (body := o.enc) rfl rfl (by decide) (Vld.enc_fits o) fun hi lo hl => by
    show some (Instr.vld h (Vld.dec _).1, (Vld.dec _).2) = _
    rw [Vld.dec_enc o hi lo hl]
theorem vst (h : Long) (o : Vst) : Statement (.vst h o) :=
  long (h := h) (m := 0x23) (body := o.enc) rfl rfl (by decide) (Vst.enc_fits o) fun hi lo hl => by
    show some (Instr.vst h (Vst.dec _).1, (Vst.dec _).2) = _
    rw [Vst.dec_enc o hi lo hl]
theorem vldg (h : Long) (o : Vldg) : Statement (.vldg h o) :=
  long (h := h) (m := 0x24) (body := o.enc) rfl rfl (by decide) (Vldg.enc_fits o) fun hi lo hl => by
    show some (Instr.vldg h (Vldg.dec _).1, (Vldg.dec _).2) = _
    rw [Vldg.dec_enc o hi lo hl]
theorem vstg (h : Long) (o : Vstg) : Statement (.vstg h o) :=
  long (h := h) (m := 0x25) (body := o.enc) rfl rfl (by decide) (Vstg.enc_fits o) fun hi lo hl => by
    show some (Instr.vstg h (Vstg.dec _).1, (Vstg.dec _).2) = _
    rw [Vstg.dec_enc o hi lo hl]
theorem vldb (h : Long) (o : Vldb) : Statement (.vldb h o) :=
  long (h := h) (m := 0x26) (body := o.enc) rfl rfl (by decide) (Vldb.enc_fits o) fun hi lo hl => by
    show some (Instr.vldb h (Vldb.dec _).1, (Vldb.dec _).2) = _
    rw [Vldb.dec_enc o hi lo hl]
theorem bxld (h : Long) (o : Bxld) : Statement (.bxld h o) :=
  long (h := h) (m := 0x27) (body := o.enc) rfl rfl (by decide) (Bxld.enc_fits o) fun hi lo hl => by
    show some (Instr.bxld h (Bxld.dec _).1, (Bxld.dec _).2) = _
    rw [Bxld.dec_enc o hi lo hl]
theorem pref (h : Long) (o : HX) : Statement (.pref h o) :=
  long (h := h) (m := 0x28) (body := o.enc) rfl rfl (by decide) (HX.enc_fits o) fun hi lo hl => by
    show some (Instr.pref h (HX.dec _).1, (HX.dec _).2) = _
    rw [HX.dec_enc o hi lo hl]
theorem ordld (h : Long) (o : OrdLd) : Statement (.ordld h o) :=
  long (h := h) (m := 0x29) (body := o.enc) rfl rfl (by decide) (OrdLd.enc_fits o) fun hi lo hl => by
    show some (Instr.ordld h (OrdLd.dec _).1, (OrdLd.dec _).2) = _
    rw [OrdLd.dec_enc o hi lo hl]
theorem ordst (h : Long) (o : OrdSt) : Statement (.ordst h o) :=
  long (h := h) (m := 0x2A) (body := o.enc) rfl rfl (by decide) (OrdSt.enc_fits o) fun hi lo hl => by
    show some (Instr.ordst h (OrdSt.dec _).1, (OrdSt.dec _).2) = _
    rw [OrdSt.dec_enc o hi lo hl]
theorem waita (h : Long) (o : Waita) : Statement (.waita h o) :=
  long (h := h) (m := 0x2B) (body := o.enc) rfl rfl (by decide) (Waita.enc_fits o) fun hi lo hl => by
    show some (Instr.waita h (Waita.dec _).1, (Waita.dec _).2) = _
    rw [Waita.dec_enc o hi lo hl]
theorem cplv (h : Long) (o : Cplv) : Statement (.cplv h o) :=
  long (h := h) (m := 0x40) (body := o.enc) rfl rfl (by decide) (Cplv.enc_fits o) fun hi lo hl => by
    show some (Instr.cplv h (Cplv.dec _).1, (Cplv.dec _).2) = _
    rw [Cplv.dec_enc o hi lo hl]
theorem cpgo (h : Long) (o : Cpgo) : Statement (.cpgo h o) :=
  long (h := h) (m := 0x41) (body := o.enc) rfl rfl (by decide) (Cpgo.enc_fits o) fun hi lo hl => by
    show some (Instr.cpgo h (Cpgo.dec _).1, (Cpgo.dec _).2) = _
    rw [Cpgo.dec_enc o hi lo hl]
theorem cpacc (h : Long) (o : Cpacc) : Statement (.cpacc h o) :=
  long (h := h) (m := 0x42) (body := o.enc) rfl rfl (by decide) (Cpacc.enc_fits o) fun hi lo hl => by
    show some (Instr.cpacc h (Cpacc.dec _).1, (Cpacc.dec _).2) = _
    rw [Cpacc.dec_enc o hi lo hl]
theorem mxstage (h : Long) (o : MxStage) : Statement (.mxstage h o) :=
  long (h := h) (m := 0x43) (body := o.enc) rfl rfl (by decide) (MxStage.enc_fits o) fun hi lo hl => by
    show some (Instr.mxstage h (MxStage.dec _).1, (MxStage.dec _).2) = _
    rw [MxStage.dec_enc o hi lo hl]
theorem bfmt (h : Long) (o : Bfmt) : Statement (.bfmt h o) :=
  long (h := h) (m := 0x44) (body := o.enc) rfl rfl (by decide) (Bfmt.enc_fits o) fun hi lo hl => by
    show some (Instr.bfmt h (Bfmt.dec _).1, (Bfmt.dec _).2) = _
    rw [Bfmt.dec_enc o hi lo hl]
theorem bfmtr (h : Long) (o : Bfmtr) : Statement (.bfmtr h o) :=
  long (h := h) (m := 0x45) (body := o.enc) rfl rfl (by decide) (Bfmtr.enc_fits o) fun hi lo hl => by
    show some (Instr.bfmtr h (Bfmtr.dec _).1, (Bfmtr.dec _).2) = _
    rw [Bfmtr.dec_enc o hi lo hl]
theorem saq (h : Long) (o : Saq) : Statement (.saq h o) :=
  long (h := h) (m := 0x46) (body := o.enc) rfl rfl (by decide) (Saq.enc_fits o) fun hi lo hl => by
    show some (Instr.saq h (Saq.dec _).1, (Saq.dec _).2) = _
    rw [Saq.dec_enc o hi lo hl]
theorem sadrain (h : Long) : Statement (.sadrain h) :=
  long (h := h) (m := 0x47) (body := 0) rfl rfl (by decide) (by decide) fun hi lo hl => by
    show some (Instr.sadrain h, zer _ 3 37) = _
    rw [zer_eq (by omega)]
theorem fsig (h : Long) (o : Fsig) : Statement (.fsig h o) :=
  long (h := h) (m := 0x48) (body := o.enc) rfl rfl (by decide) (Fsig.enc_fits o) fun hi lo hl => by
    show some (Instr.fsig h (Fsig.dec _).1, (Fsig.dec _).2) = _
    rw [Fsig.dec_enc o hi lo hl]
theorem acqL (h : Long) (o : Obj) : Statement (.acqL h o) :=
  long (h := h) (m := 0x60) (body := (o.enc + 0 * 2 ^ 28)) rfl rfl (by decide) (Obj.enc_fits o 0 (by decide)) fun hi lo hl => by
    have hs : (hi * 2 ^ 40 + (o.enc + 0 * 2 ^ 28) + lo) / 2 ^ 28 % 2 ^ 2 = 0 := by
      have hb := Obj.enc_fits o 0 (by decide)
      simp only [Obj.enc] at hb ⊢
      omega
    have key (w : Nat) (hw : w / 2 ^ 28 % 2 ^ 2 = 0) (hd : Obj.dec w = (o, true)) : longTable 0x60 h w = some (Instr.acqL h o, true) := by
      show (if _ then _ else _) = _
      simp only [hw, hd]
      rfl
    exact key _ hs (Obj.dec_enc o hi lo 0 hl (by decide))
theorem acqG (h : Long) (o : ObjV) : Statement (.acqG h o) :=
  long (h := h) (m := 0x60) (body := (o.enc + 1 * 2 ^ 28)) rfl rfl (by decide) (ObjV.enc_fits o 1 (by decide)) fun hi lo hl => by
    have hs : (hi * 2 ^ 40 + (o.enc + 1 * 2 ^ 28) + lo) / 2 ^ 28 % 2 ^ 2 = 1 := by
      have hb := ObjV.enc_fits o 1 (by decide)
      simp only [ObjV.enc] at hb ⊢
      omega
    have key (w : Nat) (hw : w / 2 ^ 28 % 2 ^ 2 = 1) (hd : ObjV.dec w = (o, true)) : longTable 0x60 h w = some (Instr.acqG h o, true) := by
      show (if _ then _ else _) = _
      simp only [hw, hd]
      rfl
    exact key _ hs (ObjV.dec_enc o hi lo 1 hl (by decide))
theorem relL (h : Long) (o : Obj) : Statement (.relL h o) :=
  long (h := h) (m := 0x61) (body := (o.enc + 0 * 2 ^ 28)) rfl rfl (by decide) (Obj.enc_fits o 0 (by decide)) fun hi lo hl => by
    have hs : (hi * 2 ^ 40 + (o.enc + 0 * 2 ^ 28) + lo) / 2 ^ 28 % 2 ^ 2 = 0 := by
      have hb := Obj.enc_fits o 0 (by decide)
      simp only [Obj.enc] at hb ⊢
      omega
    have key (w : Nat) (hw : w / 2 ^ 28 % 2 ^ 2 = 0) (hd : Obj.dec w = (o, true)) : longTable 0x61 h w = some (Instr.relL h o, true) := by
      show (if _ then _ else _) = _
      simp only [hw, hd]
      rfl
    exact key _ hs (Obj.dec_enc o hi lo 0 hl (by decide))
theorem relI (h : Long) (o : Obj) : Statement (.relI h o) :=
  long (h := h) (m := 0x61) (body := (o.enc + 1 * 2 ^ 28)) rfl rfl (by decide) (Obj.enc_fits o 1 (by decide)) fun hi lo hl => by
    have hs : (hi * 2 ^ 40 + (o.enc + 1 * 2 ^ 28) + lo) / 2 ^ 28 % 2 ^ 2 = 1 := by
      have hb := Obj.enc_fits o 1 (by decide)
      simp only [Obj.enc] at hb ⊢
      omega
    have key (w : Nat) (hw : w / 2 ^ 28 % 2 ^ 2 = 1) (hd : Obj.dec w = (o, true)) : longTable 0x61 h w = some (Instr.relI h o, true) := by
      show (if _ then _ else _) = _
      simp only [hw, hd]
      rfl
    exact key _ hs (Obj.dec_enc o hi lo 1 hl (by decide))
theorem bind (h : Long) (o : Bind) : Statement (.bind h o) :=
  long (h := h) (m := 0x62) (body := o.enc) rfl rfl (by decide) (Bind.enc_fits o) fun hi lo hl => by
    show some (Instr.bind h (Bind.dec _).1, (Bind.dec _).2) = _
    rw [Bind.dec_enc o hi lo hl]
theorem unbind (h : Long) (o : ObjV) : Statement (.unbind h o) :=
  long (h := h) (m := 0x63) (body := o.enc) rfl rfl (by decide) (by have h := ObjV.enc_fits o 0 (by decide); rw [Nat.zero_mul, Nat.add_zero] at h; exact h) fun hi lo hl => by
    have key (w : Nat) (hz : zer w 28 2 = true) (hd : ObjV.dec w = (o, true)) : longTable 0x63 h w = some (Instr.unbind h o, true) := by
      show some (Instr.unbind h (ObjV.dec w).1, (ObjV.dec w).2 && zer w 28 2) = _
      rw [hd, hz]
      rfl
    have hf : o.enc % 2 ^ 30 = 0 := by
      obtain ⟨a_, b_⟩ := o
      simp only [ObjV.enc]
      omega
    have hd : ObjV.dec (hi * 2 ^ 40 + o.enc + lo) = (o, true) := by
      have h := ObjV.dec_enc o hi lo 0 hl (by decide)
      rw [Nat.zero_mul, Nat.add_zero] at h
      exact h
    exact key _ (zer_eq (by omega)) hd
theorem sycas (h : Long) (o : Sycas) : Statement (.sycas h o) :=
  long (h := h) (m := 0x64) (body := o.enc) rfl rfl (by decide) (Sycas.enc_fits o) fun hi lo hl => by
    show some (Instr.sycas h (Sycas.dec _).1, (Sycas.dec _).2) = _
    rw [Sycas.dec_enc o hi lo hl]
theorem syrd (h : Long) (o : Syrd) : Statement (.syrd h o) :=
  long (h := h) (m := 0x65) (body := o.enc) rfl rfl (by decide) (Syrd.enc_fits o) fun hi lo hl => by
    show some (Instr.syrd h (Syrd.dec _).1, (Syrd.dec _).2) = _
    rw [Syrd.dec_enc o hi lo hl]
theorem xfence (h : Long) (o : Xfence) : Statement (.xfence h o) :=
  long (h := h) (m := 0x66) (body := o.enc) rfl rfl (by decide) (Xfence.enc_fits o) fun hi lo hl => by
    show some (Instr.xfence h (Xfence.dec _).1, (Xfence.dec _).2) = _
    rw [Xfence.dec_enc o hi lo hl]
theorem cstash (h : Long) (o : Cstash) : Statement (.cstash h o) :=
  long (h := h) (m := 0x67) (body := o.enc) rfl rfl (by decide) (Cstash.enc_fits o) fun hi lo hl => by
    show some (Instr.cstash h (Cstash.dec _).1, (Cstash.dec _).2) = _
    rw [Cstash.dec_enc o hi lo hl]
theorem cunstash (h : Long) (o : Cunstash) : Statement (.cunstash h o) :=
  long (h := h) (m := 0x68) (body := o.enc) rfl rfl (by decide) (Cunstash.enc_fits o) fun hi lo hl => by
    show some (Instr.cunstash h (Cunstash.dec _).1, (Cunstash.dec _).2) = _
    rw [Cunstash.dec_enc o hi lo hl]
theorem csend (h : Long) (o : Csend) : Statement (.csend h o) :=
  long (h := h) (m := 0x69) (body := o.enc) rfl rfl (by decide) (Csend.enc_fits o) fun hi lo hl => by
    show some (Instr.csend h (Csend.dec _).1, (Csend.dec _).2) = _
    rw [Csend.dec_enc o hi lo hl]
theorem cfree (h : Long) (o : Cfree) : Statement (.cfree h o) :=
  long (h := h) (m := 0x6A) (body := o.enc) rfl rfl (by decide) (Cfree.enc_fits o) fun hi lo hl => by
    show some (Instr.cfree h (Cfree.dec _).1, (Cfree.dec _).2) = _
    rw [Cfree.dec_enc o hi lo hl]
theorem vrd (h : Long) (o : Vrd) : Statement (.vrd h o) :=
  long (h := h) (m := 0x80) (body := o.enc) rfl rfl (by decide) (Vrd.enc_fits o) fun hi lo hl => by
    show some (Instr.vrd h (Vrd.dec _).1, (Vrd.dec _).2) = _
    rw [Vrd.dec_enc o hi lo hl]
theorem vwr (h : Long) (o : Vwr) : Statement (.vwr h o) :=
  long (h := h) (m := 0x81) (body := o.enc) rfl rfl (by decide) (Vwr.enc_fits o) fun hi lo hl => by
    show some (Instr.vwr h (Vwr.dec _).1, (Vwr.dec _).2) = _
    rw [Vwr.dec_enc o hi lo hl]
theorem vbcast (h : Long) (o : Slot) : Statement (.vbcast h o) :=
  long (h := h) (m := 0x82) (body := o.enc) rfl rfl (by decide) (Slot.enc_fits o) fun hi lo hl => by
    show some (Instr.vbcast h (Slot.dec _).1, (Slot.dec _).2) = _
    rw [Slot.dec_enc o hi lo hl]
theorem viota (h : Long) (o : Slot) : Statement (.viota h o) :=
  long (h := h) (m := 0x83) (body := o.enc) rfl rfl (by decide) (Slot.enc_fits o) fun hi lo hl => by
    show some (Instr.viota h (Slot.dec _).1, (Slot.dec _).2) = _
    rw [Slot.dec_enc o hi lo hl]
theorem vadd (h : Long) (o : Slot) : Statement (.vadd h o) :=
  long (h := h) (m := 0x84) (body := o.enc) rfl rfl (by decide) (Slot.enc_fits o) fun hi lo hl => by
    show some (Instr.vadd h (Slot.dec _).1, (Slot.dec _).2) = _
    rw [Slot.dec_enc o hi lo hl]
theorem vsub (h : Long) (o : Slot) : Statement (.vsub h o) :=
  long (h := h) (m := 0x85) (body := o.enc) rfl rfl (by decide) (Slot.enc_fits o) fun hi lo hl => by
    show some (Instr.vsub h (Slot.dec _).1, (Slot.dec _).2) = _
    rw [Slot.dec_enc o hi lo hl]
theorem vmul (h : Long) (o : Slot) : Statement (.vmul h o) :=
  long (h := h) (m := 0x86) (body := o.enc) rfl rfl (by decide) (Slot.enc_fits o) fun hi lo hl => by
    show some (Instr.vmul h (Slot.dec _).1, (Slot.dec _).2) = _
    rw [Slot.dec_enc o hi lo hl]
theorem vfma (h : Long) (o : Slot) : Statement (.vfma h o) :=
  long (h := h) (m := 0x87) (body := o.enc) rfl rfl (by decide) (Slot.enc_fits o) fun hi lo hl => by
    show some (Instr.vfma h (Slot.dec _).1, (Slot.dec _).2) = _
    rw [Slot.dec_enc o hi lo hl]
theorem vmin (h : Long) (o : Slot) : Statement (.vmin h o) :=
  long (h := h) (m := 0x88) (body := o.enc) rfl rfl (by decide) (Slot.enc_fits o) fun hi lo hl => by
    show some (Instr.vmin h (Slot.dec _).1, (Slot.dec _).2) = _
    rw [Slot.dec_enc o hi lo hl]
theorem vmax (h : Long) (o : Slot) : Statement (.vmax h o) :=
  long (h := h) (m := 0x89) (body := o.enc) rfl rfl (by decide) (Slot.enc_fits o) fun hi lo hl => by
    show some (Instr.vmax h (Slot.dec _).1, (Slot.dec _).2) = _
    rw [Slot.dec_enc o hi lo hl]
theorem vabs (h : Long) (o : Slot) : Statement (.vabs h o) :=
  long (h := h) (m := 0x8A) (body := o.enc) rfl rfl (by decide) (Slot.enc_fits o) fun hi lo hl => by
    show some (Instr.vabs h (Slot.dec _).1, (Slot.dec _).2) = _
    rw [Slot.dec_enc o hi lo hl]
theorem vneg (h : Long) (o : Slot) : Statement (.vneg h o) :=
  long (h := h) (m := 0x8B) (body := o.enc) rfl rfl (by decide) (Slot.enc_fits o) fun hi lo hl => by
    show some (Instr.vneg h (Slot.dec _).1, (Slot.dec _).2) = _
    rw [Slot.dec_enc o hi lo hl]
theorem vand (h : Long) (o : Slot) : Statement (.vand h o) :=
  long (h := h) (m := 0x8C) (body := o.enc) rfl rfl (by decide) (Slot.enc_fits o) fun hi lo hl => by
    show some (Instr.vand h (Slot.dec _).1, (Slot.dec _).2) = _
    rw [Slot.dec_enc o hi lo hl]
theorem vor (h : Long) (o : Slot) : Statement (.vor h o) :=
  long (h := h) (m := 0x8D) (body := o.enc) rfl rfl (by decide) (Slot.enc_fits o) fun hi lo hl => by
    show some (Instr.vor h (Slot.dec _).1, (Slot.dec _).2) = _
    rw [Slot.dec_enc o hi lo hl]
theorem vxor (h : Long) (o : Slot) : Statement (.vxor h o) :=
  long (h := h) (m := 0x8E) (body := o.enc) rfl rfl (by decide) (Slot.enc_fits o) fun hi lo hl => by
    show some (Instr.vxor h (Slot.dec _).1, (Slot.dec _).2) = _
    rw [Slot.dec_enc o hi lo hl]
theorem vnot (h : Long) (o : Slot) : Statement (.vnot h o) :=
  long (h := h) (m := 0x8F) (body := o.enc) rfl rfl (by decide) (Slot.enc_fits o) fun hi lo hl => by
    show some (Instr.vnot h (Slot.dec _).1, (Slot.dec _).2) = _
    rw [Slot.dec_enc o hi lo hl]
theorem vshl (h : Long) (o : Slot) : Statement (.vshl h o) :=
  long (h := h) (m := 0x90) (body := o.enc) rfl rfl (by decide) (Slot.enc_fits o) fun hi lo hl => by
    show some (Instr.vshl h (Slot.dec _).1, (Slot.dec _).2) = _
    rw [Slot.dec_enc o hi lo hl]
theorem vshr (h : Long) (o : Slot) : Statement (.vshr h o) :=
  long (h := h) (m := 0x91) (body := o.enc) rfl rfl (by decide) (Slot.enc_fits o) fun hi lo hl => by
    show some (Instr.vshr h (Slot.dec _).1, (Slot.dec _).2) = _
    rw [Slot.dec_enc o hi lo hl]
theorem vsha (h : Long) (o : Slot) : Statement (.vsha h o) :=
  long (h := h) (m := 0x92) (body := o.enc) rfl rfl (by decide) (Slot.enc_fits o) fun hi lo hl => by
    show some (Instr.vsha h (Slot.dec _).1, (Slot.dec _).2) = _
    rw [Slot.dec_enc o hi lo hl]
theorem vcmp (h : Long) (o : Slot) : Statement (.vcmp h o) :=
  long (h := h) (m := 0x93) (body := o.enc) rfl rfl (by decide) (Slot.enc_fits o) fun hi lo hl => by
    show some (Instr.vcmp h (Slot.dec _).1, (Slot.dec _).2) = _
    rw [Slot.dec_enc o hi lo hl]
theorem vsel (h : Long) (o : Slot) : Statement (.vsel h o) :=
  long (h := h) (m := 0x94) (body := o.enc) rfl rfl (by decide) (Slot.enc_fits o) fun hi lo hl => by
    show some (Instr.vsel h (Slot.dec _).1, (Slot.dec _).2) = _
    rw [Slot.dec_enc o hi lo hl]
theorem vcvt (h : Long) (o : Slot) : Statement (.vcvt h o) :=
  long (h := h) (m := 0x95) (body := o.enc) rfl rfl (by decide) (Slot.enc_fits o) fun hi lo hl => by
    show some (Instr.vcvt h (Slot.dec _).1, (Slot.dec _).2) = _
    rw [Slot.dec_enc o hi lo hl]
theorem vclmp (h : Long) (o : Slot) : Statement (.vclmp h o) :=
  long (h := h) (m := 0x96) (body := o.enc) rfl rfl (by decide) (Slot.enc_fits o) fun hi lo hl => by
    show some (Instr.vclmp h (Slot.dec _).1, (Slot.dec _).2) = _
    rw [Slot.dec_enc o hi lo hl]
theorem vscale (h : Long) (o : Slot) : Statement (.vscale h o) :=
  long (h := h) (m := 0x97) (body := o.enc) rfl rfl (by decide) (Slot.enc_fits o) fun hi lo hl => by
    show some (Instr.vscale h (Slot.dec _).1, (Slot.dec _).2) = _
    rw [Slot.dec_enc o hi lo hl]
theorem vqnt (h : Long) (o : Slot) : Statement (.vqnt h o) :=
  long (h := h) (m := 0x98) (body := o.enc) rfl rfl (by decide) (Slot.enc_fits o) fun hi lo hl => by
    show some (Instr.vqnt h (Slot.dec _).1, (Slot.dec _).2) = _
    rw [Slot.dec_enc o hi lo hl]
theorem vexp2 (h : Long) (o : Slot) : Statement (.vexp2 h o) :=
  long (h := h) (m := 0x99) (body := o.enc) rfl rfl (by decide) (Slot.enc_fits o) fun hi lo hl => by
    show some (Instr.vexp2 h (Slot.dec _).1, (Slot.dec _).2) = _
    rw [Slot.dec_enc o hi lo hl]
theorem vlog2 (h : Long) (o : Slot) : Statement (.vlog2 h o) :=
  long (h := h) (m := 0x9A) (body := o.enc) rfl rfl (by decide) (Slot.enc_fits o) fun hi lo hl => by
    show some (Instr.vlog2 h (Slot.dec _).1, (Slot.dec _).2) = _
    rw [Slot.dec_enc o hi lo hl]
theorem vrcp (h : Long) (o : Slot) : Statement (.vrcp h o) :=
  long (h := h) (m := 0x9B) (body := o.enc) rfl rfl (by decide) (Slot.enc_fits o) fun hi lo hl => by
    show some (Instr.vrcp h (Slot.dec _).1, (Slot.dec _).2) = _
    rw [Slot.dec_enc o hi lo hl]
theorem vrsq (h : Long) (o : Slot) : Statement (.vrsq h o) :=
  long (h := h) (m := 0x9C) (body := o.enc) rfl rfl (by decide) (Slot.enc_fits o) fun hi lo hl => by
    show some (Instr.vrsq h (Slot.dec _).1, (Slot.dec _).2) = _
    rw [Slot.dec_enc o hi lo hl]
theorem vtanh (h : Long) (o : Slot) : Statement (.vtanh h o) :=
  long (h := h) (m := 0x9D) (body := o.enc) rfl rfl (by decide) (Slot.enc_fits o) fun hi lo hl => by
    show some (Instr.vtanh h (Slot.dec _).1, (Slot.dec _).2) = _
    rw [Slot.dec_enc o hi lo hl]
theorem vsumr (h : Long) (o : Slot) : Statement (.vsumr h o) :=
  long (h := h) (m := 0x9E) (body := o.enc) rfl rfl (by decide) (Slot.enc_fits o) fun hi lo hl => by
    show some (Instr.vsumr h (Slot.dec _).1, (Slot.dec _).2) = _
    rw [Slot.dec_enc o hi lo hl]
theorem vperm (h : Long) (o : Slot) : Statement (.vperm h o) :=
  long (h := h) (m := 0x9F) (body := o.enc) rfl rfl (by decide) (Slot.enc_fits o) fun hi lo hl => by
    show some (Instr.vperm h (Slot.dec _).1, (Slot.dec _).2) = _
    rw [Slot.dec_enc o hi lo hl]
theorem vmovdP (h : Long) (o : Port) : Statement (.vmovdP h o) :=
  long (h := h) (m := 0xA0) (body := o.enc) rfl rfl (by decide) (Port.enc_fits o) fun hi lo hl => by
    show some (Instr.vmovdP h (Port.dec _).1, (Port.dec _).2) = _
    rw [Port.dec_enc o hi lo hl]
theorem vbcastP (h : Long) (o : Port) : Statement (.vbcastP h o) :=
  long (h := h) (m := 0xA2) (body := o.enc) rfl rfl (by decide) (Port.enc_fits o) fun hi lo hl => by
    show some (Instr.vbcastP h (Port.dec _).1, (Port.dec _).2) = _
    rw [Port.dec_enc o hi lo hl]
theorem viotaP (h : Long) (o : Port) : Statement (.viotaP h o) :=
  long (h := h) (m := 0xA3) (body := o.enc) rfl rfl (by decide) (Port.enc_fits o) fun hi lo hl => by
    show some (Instr.viotaP h (Port.dec _).1, (Port.dec _).2) = _
    rw [Port.dec_enc o hi lo hl]
theorem vaddP (h : Long) (o : Port) : Statement (.vaddP h o) :=
  long (h := h) (m := 0xA4) (body := o.enc) rfl rfl (by decide) (Port.enc_fits o) fun hi lo hl => by
    show some (Instr.vaddP h (Port.dec _).1, (Port.dec _).2) = _
    rw [Port.dec_enc o hi lo hl]
theorem vsubP (h : Long) (o : Port) : Statement (.vsubP h o) :=
  long (h := h) (m := 0xA5) (body := o.enc) rfl rfl (by decide) (Port.enc_fits o) fun hi lo hl => by
    show some (Instr.vsubP h (Port.dec _).1, (Port.dec _).2) = _
    rw [Port.dec_enc o hi lo hl]
theorem vmulP (h : Long) (o : Port) : Statement (.vmulP h o) :=
  long (h := h) (m := 0xA6) (body := o.enc) rfl rfl (by decide) (Port.enc_fits o) fun hi lo hl => by
    show some (Instr.vmulP h (Port.dec _).1, (Port.dec _).2) = _
    rw [Port.dec_enc o hi lo hl]
theorem vfmaP (h : Long) (o : Port) : Statement (.vfmaP h o) :=
  long (h := h) (m := 0xA7) (body := o.enc) rfl rfl (by decide) (Port.enc_fits o) fun hi lo hl => by
    show some (Instr.vfmaP h (Port.dec _).1, (Port.dec _).2) = _
    rw [Port.dec_enc o hi lo hl]
theorem vminP (h : Long) (o : Port) : Statement (.vminP h o) :=
  long (h := h) (m := 0xA8) (body := o.enc) rfl rfl (by decide) (Port.enc_fits o) fun hi lo hl => by
    show some (Instr.vminP h (Port.dec _).1, (Port.dec _).2) = _
    rw [Port.dec_enc o hi lo hl]
theorem vmaxP (h : Long) (o : Port) : Statement (.vmaxP h o) :=
  long (h := h) (m := 0xA9) (body := o.enc) rfl rfl (by decide) (Port.enc_fits o) fun hi lo hl => by
    show some (Instr.vmaxP h (Port.dec _).1, (Port.dec _).2) = _
    rw [Port.dec_enc o hi lo hl]
theorem vabsP (h : Long) (o : Port) : Statement (.vabsP h o) :=
  long (h := h) (m := 0xAA) (body := o.enc) rfl rfl (by decide) (Port.enc_fits o) fun hi lo hl => by
    show some (Instr.vabsP h (Port.dec _).1, (Port.dec _).2) = _
    rw [Port.dec_enc o hi lo hl]
theorem vnegP (h : Long) (o : Port) : Statement (.vnegP h o) :=
  long (h := h) (m := 0xAB) (body := o.enc) rfl rfl (by decide) (Port.enc_fits o) fun hi lo hl => by
    show some (Instr.vnegP h (Port.dec _).1, (Port.dec _).2) = _
    rw [Port.dec_enc o hi lo hl]
theorem vandP (h : Long) (o : Port) : Statement (.vandP h o) :=
  long (h := h) (m := 0xAC) (body := o.enc) rfl rfl (by decide) (Port.enc_fits o) fun hi lo hl => by
    show some (Instr.vandP h (Port.dec _).1, (Port.dec _).2) = _
    rw [Port.dec_enc o hi lo hl]
theorem vorP (h : Long) (o : Port) : Statement (.vorP h o) :=
  long (h := h) (m := 0xAD) (body := o.enc) rfl rfl (by decide) (Port.enc_fits o) fun hi lo hl => by
    show some (Instr.vorP h (Port.dec _).1, (Port.dec _).2) = _
    rw [Port.dec_enc o hi lo hl]
theorem vxorP (h : Long) (o : Port) : Statement (.vxorP h o) :=
  long (h := h) (m := 0xAE) (body := o.enc) rfl rfl (by decide) (Port.enc_fits o) fun hi lo hl => by
    show some (Instr.vxorP h (Port.dec _).1, (Port.dec _).2) = _
    rw [Port.dec_enc o hi lo hl]
theorem vnotP (h : Long) (o : Port) : Statement (.vnotP h o) :=
  long (h := h) (m := 0xAF) (body := o.enc) rfl rfl (by decide) (Port.enc_fits o) fun hi lo hl => by
    show some (Instr.vnotP h (Port.dec _).1, (Port.dec _).2) = _
    rw [Port.dec_enc o hi lo hl]
theorem vshlP (h : Long) (o : Port) : Statement (.vshlP h o) :=
  long (h := h) (m := 0xB0) (body := o.enc) rfl rfl (by decide) (Port.enc_fits o) fun hi lo hl => by
    show some (Instr.vshlP h (Port.dec _).1, (Port.dec _).2) = _
    rw [Port.dec_enc o hi lo hl]
theorem vshrP (h : Long) (o : Port) : Statement (.vshrP h o) :=
  long (h := h) (m := 0xB1) (body := o.enc) rfl rfl (by decide) (Port.enc_fits o) fun hi lo hl => by
    show some (Instr.vshrP h (Port.dec _).1, (Port.dec _).2) = _
    rw [Port.dec_enc o hi lo hl]
theorem vshaP (h : Long) (o : Port) : Statement (.vshaP h o) :=
  long (h := h) (m := 0xB2) (body := o.enc) rfl rfl (by decide) (Port.enc_fits o) fun hi lo hl => by
    show some (Instr.vshaP h (Port.dec _).1, (Port.dec _).2) = _
    rw [Port.dec_enc o hi lo hl]
theorem vcmpP (h : Long) (o : Port) : Statement (.vcmpP h o) :=
  long (h := h) (m := 0xB3) (body := o.enc) rfl rfl (by decide) (Port.enc_fits o) fun hi lo hl => by
    show some (Instr.vcmpP h (Port.dec _).1, (Port.dec _).2) = _
    rw [Port.dec_enc o hi lo hl]
theorem vselP (h : Long) (o : Port) : Statement (.vselP h o) :=
  long (h := h) (m := 0xB4) (body := o.enc) rfl rfl (by decide) (Port.enc_fits o) fun hi lo hl => by
    show some (Instr.vselP h (Port.dec _).1, (Port.dec _).2) = _
    rw [Port.dec_enc o hi lo hl]
theorem vcvtP (h : Long) (o : Port) : Statement (.vcvtP h o) :=
  long (h := h) (m := 0xB5) (body := o.enc) rfl rfl (by decide) (Port.enc_fits o) fun hi lo hl => by
    show some (Instr.vcvtP h (Port.dec _).1, (Port.dec _).2) = _
    rw [Port.dec_enc o hi lo hl]
theorem vclmpP (h : Long) (o : Port) : Statement (.vclmpP h o) :=
  long (h := h) (m := 0xB6) (body := o.enc) rfl rfl (by decide) (Port.enc_fits o) fun hi lo hl => by
    show some (Instr.vclmpP h (Port.dec _).1, (Port.dec _).2) = _
    rw [Port.dec_enc o hi lo hl]
theorem vscaleP (h : Long) (o : Port) : Statement (.vscaleP h o) :=
  long (h := h) (m := 0xB7) (body := o.enc) rfl rfl (by decide) (Port.enc_fits o) fun hi lo hl => by
    show some (Instr.vscaleP h (Port.dec _).1, (Port.dec _).2) = _
    rw [Port.dec_enc o hi lo hl]
theorem vqntP (h : Long) (o : Port) : Statement (.vqntP h o) :=
  long (h := h) (m := 0xB8) (body := o.enc) rfl rfl (by decide) (Port.enc_fits o) fun hi lo hl => by
    show some (Instr.vqntP h (Port.dec _).1, (Port.dec _).2) = _
    rw [Port.dec_enc o hi lo hl]
theorem vexp2P (h : Long) (o : Port) : Statement (.vexp2P h o) :=
  long (h := h) (m := 0xB9) (body := o.enc) rfl rfl (by decide) (Port.enc_fits o) fun hi lo hl => by
    show some (Instr.vexp2P h (Port.dec _).1, (Port.dec _).2) = _
    rw [Port.dec_enc o hi lo hl]
theorem vlog2P (h : Long) (o : Port) : Statement (.vlog2P h o) :=
  long (h := h) (m := 0xBA) (body := o.enc) rfl rfl (by decide) (Port.enc_fits o) fun hi lo hl => by
    show some (Instr.vlog2P h (Port.dec _).1, (Port.dec _).2) = _
    rw [Port.dec_enc o hi lo hl]
theorem vrcpP (h : Long) (o : Port) : Statement (.vrcpP h o) :=
  long (h := h) (m := 0xBB) (body := o.enc) rfl rfl (by decide) (Port.enc_fits o) fun hi lo hl => by
    show some (Instr.vrcpP h (Port.dec _).1, (Port.dec _).2) = _
    rw [Port.dec_enc o hi lo hl]
theorem vrsqP (h : Long) (o : Port) : Statement (.vrsqP h o) :=
  long (h := h) (m := 0xBC) (body := o.enc) rfl rfl (by decide) (Port.enc_fits o) fun hi lo hl => by
    show some (Instr.vrsqP h (Port.dec _).1, (Port.dec _).2) = _
    rw [Port.dec_enc o hi lo hl]
theorem vtanhP (h : Long) (o : Port) : Statement (.vtanhP h o) :=
  long (h := h) (m := 0xBD) (body := o.enc) rfl rfl (by decide) (Port.enc_fits o) fun hi lo hl => by
    show some (Instr.vtanhP h (Port.dec _).1, (Port.dec _).2) = _
    rw [Port.dec_enc o hi lo hl]
theorem vsumrP (h : Long) (o : Port) : Statement (.vsumrP h o) :=
  long (h := h) (m := 0xBE) (body := o.enc) rfl rfl (by decide) (Port.enc_fits o) fun hi lo hl => by
    show some (Instr.vsumrP h (Port.dec _).1, (Port.dec _).2) = _
    rw [Port.dec_enc o hi lo hl]
theorem vpermP (h : Long) (o : Port) : Statement (.vpermP h o) :=
  long (h := h) (m := 0xBF) (body := o.enc) rfl rfl (by decide) (Port.enc_fits o) fun hi lo hl => by
    show some (Instr.vpermP h (Port.dec _).1, (Port.dec _).2) = _
    rw [Port.dec_enc o hi lo hl]
theorem tmma (h : Long) (o : Mat) : Statement (.tmma h o) :=
  long (h := h) (m := 0xC0) (body := o.enc) rfl rfl (by decide) (Mat.enc_fits o) fun hi lo hl => by
    show some (Instr.tmma h (Mat.dec _).1, (Mat.dec _).2) = _
    rw [Mat.dec_enc o hi lo hl]
theorem tmms (h : Long) (o : Mat) : Statement (.tmms h o) :=
  long (h := h) (m := 0xC1) (body := o.enc) rfl rfl (by decide) (Mat.enc_fits o) fun hi lo hl => by
    show some (Instr.tmms h (Mat.dec _).1, (Mat.dec _).2) = _
    rw [Mat.dec_enc o hi lo hl]
theorem tdist (h : Long) (o : Mat) : Statement (.tdist h o) :=
  long (h := h) (m := 0xC2) (body := o.enc) rfl rfl (by decide) (Mat.enc_fits o) fun hi lo hl => by
    show some (Instr.tdist h (Mat.dec _).1, (Mat.dec _).2) = _
    rw [Mat.dec_enc o hi lo hl]
theorem ttopk (h : Long) (o : Ttopk) : Statement (.ttopk h o) :=
  long (h := h) (m := 0xC3) (body := o.enc) rfl rfl (by decide) (Ttopk.enc_fits o) fun hi lo hl => by
    show some (Instr.ttopk h (Ttopk.dec _).1, (Ttopk.dec _).2) = _
    rw [Ttopk.dec_enc o hi lo hl]
theorem accrd (h : Long) (o : AccMov) : Statement (.accrd h o) :=
  long (h := h) (m := 0xC4) (body := o.enc) rfl rfl (by decide) (AccMov.enc_fits o) fun hi lo hl => by
    show some (Instr.accrd h (AccMov.dec _).1, (AccMov.dec _).2) = _
    rw [AccMov.dec_enc o hi lo hl]
theorem accwr (h : Long) (o : AccMov) : Statement (.accwr h o) :=
  long (h := h) (m := 0xC5) (body := o.enc) rfl rfl (by decide) (AccMov.enc_fits o) fun hi lo hl => by
    show some (Instr.accwr h (AccMov.dec _).1, (AccMov.dec _).2) = _
    rw [AccMov.dec_enc o hi lo hl]
theorem accz (h : Long) (o : Accz) : Statement (.accz h o) :=
  long (h := h) (m := 0xC6) (body := o.enc) rfl rfl (by decide) (Accz.enc_fits o) fun hi lo hl => by
    show some (Instr.accz h (Accz.dec _).1, (Accz.dec _).2) = _
    rw [Accz.dec_enc o hi lo hl]
theorem timedCompletion (n : Nat) : Statement (.timedCompletion n) := event rfl
theorem slotResult (n : Nat) : Statement (.slotResult n) := event rfl
theorem mrfAccessStart (n : Nat) : Statement (.mrfAccessStart n) := event rfl
theorem promisedLoadDue (n : Nat) : Statement (.promisedLoadDue n) := event rfl
theorem loadValueReturn (n : Nat) : Statement (.loadValueReturn n) := event rfl
theorem storeAcknowledge (n : Nat) : Statement (.storeAcknowledge n) := event rfl
theorem timedCopyStart (n : Nat) : Statement (.timedCopyStart n) := event rfl
theorem orderedCopyStart (n : Nat) : Statement (.orderedCopyStart n) := event rfl
theorem copyComplete (n : Nat) : Statement (.copyComplete n) := event rfl
theorem arrayOperandDue (n : Nat) (g : Nat) : Statement (.arrayOperandDue n g) := event rfl
theorem arrayRowFinal (n : Nat) (m : Nat) : Statement (.arrayRowFinal n m) := event rfl
theorem tableWalkEnd (n : Nat) : Statement (.tableWalkEnd n) := event rfl
theorem waitaSatisfied (n : Nat) : Statement (.waitaSatisfied n) := event rfl
theorem waitaTimeout (n : Nat) : Statement (.waitaTimeout n) := event rfl
theorem xfenceComplete (n : Nat) : Statement (.xfenceComplete n) := event rfl
theorem saeUpdateApply (n : Nat) : Statement (.saeUpdateApply n) := event rfl
theorem sadrainComplete (n : Nat) : Statement (.sadrainComplete n) := event rfl
theorem hinvComplete (n : Nat) : Statement (.hinvComplete n) := event rfl
theorem pgreqComplete (n : Nat) : Statement (.pgreqComplete n) := event rfl
theorem fsigStart (n : Nat) : Statement (.fsigStart n) := event rfl
theorem fsigComplete (n : Nat) : Statement (.fsigComplete n) := event rfl
theorem csendComplete (n : Nat) : Statement (.csendComplete n) := event rfl
theorem cfreeComplete (n : Nat) : Statement (.cfreeComplete n) := event rfl
theorem orderedOpPerform (n : Nat) : Statement (.orderedOpPerform n) := event rfl
theorem syncOpPerform (n : Nat) : Statement (.syncOpPerform n) := event rfl
theorem syncReply (n : Nat) : Statement (.syncReply n) := event rfl
theorem commitRelease (n : Nat) : Statement (.commitRelease n) := event rfl
theorem lateFault (n : Nat) : Statement (.lateFault n) := event rfl
theorem preemptRequest (c : Nat) : Statement (.preemptRequest c) := event rfl
theorem translationDone (n : Nat) : Statement (.translationDone n) := event rfl
theorem kickService (q : Nat) : Statement (.kickService q) := event rfl
theorem nopCommand (q : Nat) : Statement (.nopCommand q) := event rfl
theorem launch (q : Nat) : Statement (.launch q) := event rfl
theorem waitobj (q : Nat) : Statement (.waitobj q) := event rfl
theorem setobjRelI (q : Nat) : Statement (.setobjRelI q) := event rfl
theorem setobjRelL (q : Nat) : Statement (.setobjRelL q) := event rfl
theorem mark (q : Nat) : Statement (.mark q) := event rfl
theorem chain (q : Nat) : Statement (.chain q) := event rfl
theorem chainResume (q : Nat) : Statement (.chainResume q) := event rfl
theorem completionRecordWrite (q : Nat) : Statement (.completionRecordWrite q) := event rfl
theorem nodePromotion (g : Nat) (n : Nat) : Statement (.nodePromotion g n) := event rfl
theorem invalidationComplete (n : Nat) : Statement (.invalidationComplete n) := event rfl
theorem read (p : Packet) : Statement (.read p) := event rfl
theorem write (p : Packet) : Statement (.write p) := event rfl
theorem answer (p : Packet) : Statement (.answer p) := event rfl
theorem sync (p : Packet) : Statement (.sync p) := event rfl
theorem ordered (p : Packet) : Statement (.ordered p) := event rfl
theorem fsigPacket (p : Packet) : Statement (.fsigPacket p) := event rfl
theorem pgreqPacket (p : Packet) : Statement (.pgreqPacket p) := event rfl
theorem mcwrite (p : Packet) : Statement (.mcwrite p) := event rfl
theorem migrate (p : Packet) : Statement (.migrate p) := event rfl
theorem mgmt (p : Packet) : Statement (.mgmt p) := event rfl
theorem packetForward (input : Nat) (p : Packet) : Statement (.packetForward input p) := event rfl
theorem pageMigration (n : Nat) : Statement (.pageMigration n) := event rfl
theorem remoteTimeout (n : Nat) : Statement (.remoteTimeout n) := event rfl
theorem hello (p : Packet) : Statement (.hello p) := event rfl
theorem slotFree (p : Packet) : Statement (.slotFree p) := event rfl
theorem chainPayloadLanded (p : Packet) : Statement (.chainPayloadLanded p) := event rfl
theorem markRecord (d : Nat) : Statement (.markRecord d) := event rfl
theorem launchSetupDone : Statement (.launchSetupDone) := event rfl
theorem tokenStall : Statement (.tokenStall) := event rfl
theorem interlockFreeze : Statement (.interlockFreeze) := event rfl
theorem interlockThaw : Statement (.interlockThaw) := event rfl
theorem stagedCommandIssue : Statement (.stagedCommandIssue) := event rfl
theorem pendingCauseTaken : Statement (.pendingCauseTaken) := event rfl
theorem coreHalt : Statement (.coreHalt) := event rfl
theorem preemptDrainEnd : Statement (.preemptDrainEnd) := event rfl
theorem contextSaveDone : Statement (.contextSaveDone) := event rfl
theorem contextRestore : Statement (.contextRestore) := event rfl
theorem containmentUnwind : Statement (.containmentUnwind) := event rfl
theorem continuationStart : Statement (.continuationStart) := event rfl
theorem taskCompletionEvent : Statement (.taskCompletionEvent) := event rfl
theorem soundingStart : Statement (.soundingStart) := event rfl
theorem soundingWindowOpen : Statement (.soundingWindowOpen) := event rfl
theorem soundingEnd : Statement (.soundingEnd) := event rfl
theorem mapInstall : Statement (.mapInstall) := event rfl
theorem nodeStart : Statement (.nodeStart) := event rfl
theorem queueCoreTakeover : Statement (.queueCoreTakeover) := event rfl
theorem slotTableStart : Statement (.slotTableStart) := event rfl
theorem chainEntryIssue : Statement (.chainEntryIssue) := event rfl
theorem chainSyncEntryIssue : Statement (.chainSyncEntryIssue) := event rfl
theorem chainSyncComplete : Statement (.chainSyncComplete) := event rfl
theorem chainGraphComplete : Statement (.chainGraphComplete) := event rfl
theorem kindlingStep : Statement (.kindlingStep) := event rfl
theorem emberDrainTimeout : Statement (.emberDrainTimeout) := event rfl
theorem emberImageWritten : Statement (.emberImageWritten) := event rfl
theorem reset : Statement (.reset) := event rfl
theorem embstatResume : Statement (.embstatResume) := event rfl
theorem embstatDiscard : Statement (.embstatDiscard) := event rfl
theorem checkpointPageCopy : Statement (.checkpointPageCopy) := event rfl
theorem stagedWriteAdmit : Statement (.stagedWriteAdmit) := event rfl
theorem reProvisioning : Statement (.reProvisioning) := event rfl
theorem strikeReport (c : Nat) : Statement (.strikeReport c) := event rfl
theorem hpdrvWrite (f : Nat) (v : Word) : Statement (.hpdrvWrite f v) := event rfl
theorem kick (f : Nat) (v : Word) : Statement (.kick f v) := event rfl
theorem queueDescriptorWrite (f : Nat) (q : Nat) (bs : List Byte) : Statement (.queueDescriptorWrite f q bs) := event rfl
theorem registerWrite (f : Nat) (off : Nat) (v : Word) : Statement (.registerWrite f off v) := event rfl
theorem errselWrite (v : Word) : Statement (.errselWrite v) := event rfl
theorem errorRecordClear (v : Word) : Statement (.errorRecordClear v) := event rfl
theorem s1invPage (f : Nat) (v : Word) : Statement (.s1invPage f v) := event rfl
theorem s1invAll (f : Nat) (v : Word) : Statement (.s1invAll f v) := event rfl
theorem s2invPage (f : Nat) (v : Word) : Statement (.s2invPage f v) := event rfl
theorem s2invAll (f : Nat) (v : Word) : Statement (.s2invAll f v) := event rfl
theorem fresolveResolve (f : Nat) (v : Word) : Statement (.fresolveResolve f v) := event rfl
theorem fresolveRefuse (f : Nat) (v : Word) : Statement (.fresolveRefuse f v) := event rfl
theorem migpoolWrite (f : Nat) (v : Word) : Statement (.migpoolWrite f v) := event rfl
theorem migclrPage (f : Nat) (v : Word) : Statement (.migclrPage f v) := event rfl
theorem migclrAll (f : Nat) (v : Word) : Statement (.migclrAll f v) := event rfl
theorem linkTraining (port : Nat) (vmin : Nat) (vmax : Nat) (feat : Nat) (lanes : Nat) : Statement (.linkTraining port vmin vmax feat lanes) := event rfl
theorem linkFailure (port : Nat) : Statement (.linkFailure port) := event rfl
theorem stload (v : Word) : Statement (.stload v) := event rfl
theorem mcdataWrite (v : Word) : Statement (.mcdataWrite v) := event rfl
theorem pstepWrite (v : Word) : Statement (.pstepWrite v) := event rfl
theorem pstepPins (v : BitVec 4) : Statement (.pstepPins v) := event rfl
theorem pfail (low : Bool) : Statement (.pfail low) := event rfl
theorem soundingWindowArm (v : Word) : Statement (.soundingWindowArm v) := event rfl
theorem mapreq (v : Word) : Statement (.mapreq v) := event rfl
theorem ckptctlWrite (v : Word) : Statement (.ckptctlWrite v) := event rfl
theorem sensorEvent (c : Nat) : Statement (.sensorEvent c) := event rfl
theorem cfgload (v : Word) : Statement (.cfgload v) := event rfl
theorem qreq (f : Nat) (v : Word) : Statement (.qreq f v) := event rfl
theorem uncorrectableError (core : Option Nat) (a : Nat) (n : Nat) : Statement (.uncorrectableError core a n) := event rfl
theorem firmwareUpdate (version : Nat) : Statement (.firmwareUpdate version) := event rfl

end Sys2Proof.Laws.RoundTrip
end

