-- ==== Sys2Proof/Tests/Slice0.lean ====
section
/-!
SUPPORT. Tests: ill-formed terms that WellFormed refuses, words of the spec's encodings that decode as they should, and for every statement
states and operands that meet what it supposes. Expected values are the spec's own words and tables, or follow from them by hand.
-/

namespace Sys2Proof.Tests

open Sys2Proof Sys2Proof.Machine

set_option exponentiation.threshold 400

/-! A small machine: one core, which runs a task whose sequencer `q` has its turn. -/

def sh : Short := ⟨false, Pfx.none⟩
def lo : Long := ⟨false, Pfx.none, 0, 0⟩

def demo (port staged : Bool) (q : SeqId) : State :=
  let s := State.reset
  { s with
    parked := [], who := q, phase := .issue
    core := { s.core.updSeq q (fun v => { v with redo := true }) with
      status := .running, tok := [(0, ⟨true, q, q, 5, 0, []⟩)]
      task := some (placedTask { placedImage with portable := port, copyDriven := staged }) } }

/-- The small machine that an instruction suits: native or portable, on the first sequencer that its row allows. -/
def demoOf (i : Instr) : State :=
  demo (match i.info with
    | some f => !formAllows false f
    | none => false) (match i with
    | .mxstage .. => true
    | _ => false) (i.seqs.headD .ct)

/-- The same with registers of the sequencer in turn, with poisoned ones, and with a change of the core. -/
def demoX (i : Instr) (xs : List (BitVec 5 × Word)) (bad : List (BitVec 5) := []) (f : Core → Core := id) : State :=
  (demoOf i).updCore fun c => f (c.updSeq (i.seqs.headD .ct) fun v =>
    bad.foldl (fun v r => v.setX r (v.getX r) true) (xs.foldl (fun v r => v.setX r.1 r.2 false) v))


/-! Words written out from the spec's encoding tables (R133, R134, R141 to R148 and the entries' own layouts): every field holds a value of its own. -/

def lg : Long := ⟨false, Pfx.none, 5, 0x93⟩
def lz : Long := ⟨false, Pfx.none, 5, 0⟩
/-- Each run of parcels reads as its instruction, with every must-be-zero bit zero, and each is well formed. -/
def readsAll (l : List (List Nat × Instr)) : Bool := l.all fun x =>
  (match decode (Machine.parcelBytes x.1) with
   | .unit i n z => i == x.2 && n == x.1.length && z
   | .bad _ => false) && x.2.wf
def aluWords : List (List Nat × Instr) := [
  ([0x003F3800], .add sh ⟨1, 31, 7, false⟩), ([0x045F3C00], .sub sh ⟨2, 31, 7, true⟩), ([0x087F3800], .and sh ⟨3, 31, 7, false⟩),
  ([0x0C9F3C00], .or sh ⟨4, 31, 7, true⟩), ([0x10BF3800], .xor sh ⟨5, 31, 7, false⟩), ([0x14DF3C00], .andn sh ⟨6, 31, 7, true⟩),
  ([0x18FF3800], .shl sh ⟨7, 31, 7, false⟩), ([0x1D1F3C00], .shr sh ⟨8, 31, 7, true⟩), ([0x213F3800], .sha sh ⟨9, 31, 7, false⟩),
  ([0x255F3C00], .rot sh ⟨10, 31, 7, true⟩), ([0x297F3800], .min sh ⟨11, 31, 7, false⟩), ([0x2D9F3C00], .max sh ⟨12, 31, 7, true⟩),
  ([0x31BF3800], .minu sh ⟨13, 31, 7, false⟩), ([0x35DF3C00], .maxu sh ⟨14, 31, 7, true⟩), ([0x39FF3800], .mul sh ⟨15, 31, 7, false⟩),
  ([0x3E1F3C00], .mulh sh ⟨16, 31, 7, true⟩), ([0x423F3800], .div sh ⟨17, 31, 7, false⟩), ([0x465F3C00], .divu sh ⟨18, 31, 7, true⟩),
  ([0x4A7F3800], .rem sh ⟨19, 31, 7, false⟩), ([0x4E9F3C00], .remu sh ⟨20, 31, 7, true⟩), ([0x51240400], .clz sh ⟨9, 4, true⟩),
  ([0x55240000], .popc sh ⟨9, 4, false⟩), ([0x59241E80], .sel sh ⟨9, 4, 3, true, 5⟩), ([0x5D240000], .mov sh ⟨9, 4⟩),
  ([0x612400A8], .addi sh ⟨9, 4, 0x15⟩), ([0x652400B0], .andi sh ⟨9, 4, 0x16⟩), ([0x692400B8], .ori sh ⟨9, 4, 0x17⟩),
  ([0x6D2400C0], .xori sh ⟨9, 4, 0x18⟩), ([0x712400C8], .shli sh ⟨9, 4, 0x19⟩), ([0x752400D0], .shri sh ⟨9, 4, 0x1A⟩),
  ([0x792400D8], .shai sh ⟨9, 4, 0x1B⟩), ([0x7D20C008], .li sh ⟨9, 0x1801⟩), ([0x82C46900], .cmp sh ⟨5, 17, 3, 4, true⟩),
  ([0x86C4E008], .cmpi sh ⟨5, 17, 3, 0x401⟩), ([0x8AE60000], .pand sh ⟨5, 6, 3⟩), ([0x8EE60000], .por sh ⟨5, 6, 3⟩),
  ([0x92E60000], .pxor sh ⟨5, 6, 3⟩), ([0x96E00000], .pnot sh ⟨5, 6⟩), ([0x9AE00000], .pmov sh ⟨5, 6⟩)]
theorem test_alu_words : readsAll aluWords = true := by decide
def controlWords : List (List Nat × Instr) := [
  ([0xA2000008], .br sh ⟨0x400001⟩), ([0xA6C00008], .bp sh ⟨5, 0x80001⟩), ([0xAB000010], .bnp sh ⟨6, 2⟩), ([0xAC000018], .call sh ⟨3⟩),
  ([0xB3E00000], .ret sh ⟨31⟩), ([0xB7C00000], .jmpx sh ⟨30⟩), ([0xB9300008], .loop sh ⟨9, 0x20001⟩), ([0xBC000000], .endl sh),
  ([0xC2780000], .tkpost sh ⟨9, 7⟩), ([0xC6880000], .tkwait sh ⟨10, 1⟩), ([0xCA320000], .tkcnt sh ⟨17, 9⟩), ([0xCC000000], .yield sh),
  ([0xD0000000], .safept sh), ([0xD4040008], .brk sh ⟨0x8001⟩), ([0xD8040010], .trap sh ⟨0x8002⟩), ([0xDC000000], .tret sh),
  ([0xE1247008], .ldx sh ⟨9, 4, 1, true, 0x201⟩), ([0xE5249008], .stx sh ⟨9, 4, 2, 0x201⟩), ([0xE9210000], .rdsr sh ⟨9, 0x20⟩),
  ([0xEC334800], .wrsr sh ⟨0x33, 9⟩), ([0xF0000000], .taskend sh), ([0xF4000000], .nop sh), ([0x0018000A, 0x05930480], .loopL lg ⟨0x80001, 0x10001⟩),
  ([0x00000002, 0x05930500], .nopL lg), ([0x8000000A, 0x05930681], .crgnOpen lg ⟨0x81, 0x10000001⟩), ([0x00000002, 0x05930700], .crgnClose lg),
  ([0x00000002, 0x05000800], .crgnAbort lz), ([0x00000002, 0x05930990], .rotb lg ⟨9⟩), ([0x00000002, 0x05930AA0], .setrb lg ⟨10⟩),
  ([0x00000002, 0x05930F00], .mxres lg), ([0x2C00000A, 0x0593104B], .chkpMrf lg ⟨0x965, 0x800001⟩),
  ([0x4C00000A, 0x05931080], .chkpX lg ⟨9, 0x800001⟩), ([0x8000000A, 0x059311A8], .chkr lg ⟨2, 5, 0x10000001⟩),
  ([0x3000000A, 0x05930049], .addiL lg ⟨9, 4, true, 0x2000001⟩), ([0x0000000A, 0x0593014C], .lih lg ⟨9, 0x80000001⟩),
  ([0x07180002, 0x05930249], .mad lg ⟨9, 4, 3, 17, true⟩), ([0x3C00000A, 0x059303B1], .cmpL lg ⟨5, 17, 3, true, 0x800001⟩)]
theorem test_control_words : readsAll controlWords = true := by decide
def memoryWords : List (List Nat × Instr) := [
  ([0x00000002, 0x05930B49], .xlate lg ⟨9, 4⟩), ([0x00000002, 0x05930C48], .hinv lg ⟨9, false⟩), ([0x00000002, 0x05930C04], .hinv lg ⟨0, true⟩),
  ([0x20000002, 0x05930D49], .hqry lg ⟨9, 4, 2⟩), ([0x00000002, 0x05930E49], .pgreq lg ⟨9, 4⟩),
  ([0x0742000A, 0x05932049], .ldg lg ⟨9, 4, 3, 2, true, 0x4001⟩), ([0x0776000A, 0x05932049], .ldgP lg ⟨9, 4, 3, 2, true, 5, 0x4001⟩),
  ([0x0702000A, 0x05932149], .stg lg ⟨9, 4, 3, 2, 0x4001⟩), ([0x54F6000A, 0x05932296], .vld lg ⟨0x965, 9, true, true, 5, 0x4001⟩),
  ([0x5482000A, 0x05932396], .vst lg ⟨0x965, 9, 0x4001⟩), ([0x5A92400A, 0x05932496], .vldg lg ⟨0x965, 5, 9, 4, 0x801⟩),
  ([0x5092400A, 0x05932596], .vstg lg ⟨0x965, 9, 4, 0x801⟩), ([0x5A980022, 0x05932696], .vldb lg ⟨0x965, 5, 9, 0x4001⟩),
  ([0x00000002, 0x059327A9], .bxld lg ⟨5, 9⟩), ([0x00000002, 0x05932849], .pref lg ⟨9, 4⟩), ([0x07400002, 0x05932949], .ordld lg ⟨9, 4, 3, 2, true⟩),
  ([0x07000002, 0x05932A49], .ordst lg ⟨9, 4, 3, 2⟩), ([0x27000002, 0x05932BA9], .waita lg ⟨5, 9, 4, 14⟩),
  ([0x20C00002, 0x059340A9], .cplv lg ⟨5, 9, 4, 3⟩), ([0x07632D02, 0x05934149], .cpgo lg ⟨9, 4, 3, 5, 17, 18, true, true, false, true⟩),
  ([0x01805302, 0x0593424A], .cpacc lg ⟨9, 0x201, 0x402, 2, 1, true⟩), ([0x07004602, 0x05934349], .mxstage lg ⟨9, 4, 3, 0x401, 1, 2⟩),
  ([0x00000A62, 0x05934448], .bfmt lg ⟨9, 0x14C⟩), ([0x00000002, 0x05934549], .bfmtr lg ⟨9, 4⟩),
  ([0x07190002, 0x05934649], .saq lg ⟨9, 4, 3, 17, 2, 1⟩), ([0x00000002, 0x05934700], .sadrain lg), ([0x00000002, 0x05934849], .fsig lg ⟨9, 4⟩),
  ([0x00000002, 0x05936048], .acqL lg ⟨9⟩), ([0x10000002, 0x05936049], .acqG lg ⟨9, 4⟩), ([0x00000002, 0x05936148], .relL lg ⟨9⟩),
  ([0x10000002, 0x05936148], .relI lg ⟨9⟩), ([0x06000002, 0x05936249], .bind lg ⟨9, 4, 3⟩), ([0x00000002, 0x05936349], .unbind lg ⟨9, 4⟩),
  ([0x07100002, 0x05936449], .sycas lg ⟨9, 4, 3, 17⟩), ([0x00000002, 0x05936549], .syrd lg ⟨9, 4⟩), ([0x00000002, 0x05936688], .xfence lg ⟨4, 2⟩),
  ([0x00000002, 0x0593674C], .cstash lg ⟨9, 2⟩), ([0x00000002, 0x05936848], .cunstash lg ⟨9⟩), ([0x2C000002, 0x05936949], .csend lg ⟨9, 4, 5, true⟩),
  ([0x00000002, 0x05936A80], .cfree lg ⟨true⟩)]
theorem test_memory_words : readsAll memoryWords = true := by decide
def flowWords : List (List Nat × Instr) := [
  ([0x96500002, 0x05938009], .vrd lg ⟨0, 9, 0x965⟩), ([0x9651A002, 0x059381F9], .vwr lg ⟨15, 9, 0x965, true, 5⟩),
  ([0x0004080A, 0x05938206], .vbcast lg ⟨0, 6, 0, 0, 0, 2, 0, 0x101⟩), ([0x0004080A, 0x05938306], .viota lg ⟨0, 6, 0, 0, 0, 2, 0, 0x101⟩),
  ([0xA9040002, 0x059384C6], .vadd lg ⟨12, 6, 10, 9, 0, 2, 0, 0x0⟩), ([0xA9040002, 0x059385C6], .vsub lg ⟨12, 6, 10, 9, 0, 2, 0, 0x0⟩),
  ([0xA9040002, 0x059386B6], .vmul lg ⟨11, 6, 10, 9, 0, 2, 0, 0x0⟩), ([0xA9740002, 0x059387B6], .vfma lg ⟨11, 6, 10, 9, 7, 2, 0, 0x0⟩),
  ([0xA9040002, 0x059388C6], .vmin lg ⟨12, 6, 10, 9, 0, 2, 0, 0x0⟩), ([0xA9040002, 0x059389C6], .vmax lg ⟨12, 6, 10, 9, 0, 2, 0, 0x0⟩),
  ([0xA0040002, 0x05938AC6], .vabs lg ⟨12, 6, 10, 0, 0, 2, 0, 0x0⟩), ([0xA0040002, 0x05938BC6], .vneg lg ⟨12, 6, 10, 0, 0, 2, 0, 0x0⟩),
  ([0xA9040002, 0x05938CC6], .vand lg ⟨12, 6, 10, 9, 0, 2, 0, 0x0⟩), ([0xA9040002, 0x05938DC6], .vor lg ⟨12, 6, 10, 9, 0, 2, 0, 0x0⟩),
  ([0xA9040002, 0x05938EC6], .vxor lg ⟨12, 6, 10, 9, 0, 2, 0, 0x0⟩), ([0xA0040002, 0x05938FC6], .vnot lg ⟨12, 6, 10, 0, 0, 2, 0, 0x0⟩),
  ([0xA9040002, 0x059390C6], .vshl lg ⟨12, 6, 10, 9, 0, 2, 0, 0x0⟩), ([0xA9040002, 0x059391C6], .vshr lg ⟨12, 6, 10, 9, 0, 2, 0, 0x0⟩),
  ([0xA9040002, 0x059392C6], .vsha lg ⟨12, 6, 10, 9, 0, 2, 0, 0x0⟩), ([0xA9045002, 0x059393C6], .vcmp lg ⟨12, 6, 10, 9, 0, 2, 5, 0x0⟩),
  ([0xA9740002, 0x059394C6], .vsel lg ⟨12, 6, 10, 9, 7, 2, 0, 0x0⟩), ([0xA9046002, 0x059395C6], .vcvt lg ⟨12, 6, 10, 9, 0, 2, 6, 0x0⟩),
  ([0xA9740002, 0x059396C6], .vclmp lg ⟨12, 6, 10, 9, 7, 2, 0, 0x0⟩), ([0xA9040002, 0x059397C6], .vscale lg ⟨12, 6, 10, 9, 0, 2, 0, 0x0⟩),
  ([0xA0067002, 0x059398C6], .vqnt lg ⟨12, 6, 10, 0, 0, 3, 7, 0x0⟩), ([0xA0060002, 0x059399E6], .vexp2 lg ⟨14, 6, 10, 0, 0, 3, 0, 0x0⟩),
  ([0xA0060002, 0x05939AE6], .vlog2 lg ⟨14, 6, 10, 0, 0, 3, 0, 0x0⟩), ([0xA0060002, 0x05939BE6], .vrcp lg ⟨14, 6, 10, 0, 0, 3, 0, 0x0⟩),
  ([0xA0060002, 0x05939CE6], .vrsq lg ⟨14, 6, 10, 0, 0, 3, 0, 0x0⟩), ([0xA0060002, 0x05939DE6], .vtanh lg ⟨14, 6, 10, 0, 0, 3, 0, 0x0⟩),
  ([0xA006102A, 0x05939EE6], .vsumr lg ⟨14, 6, 10, 0, 0, 3, 1, 0x5⟩), ([0xA0042002, 0x05939FE6], .vperm lg ⟨14, 6, 10, 0, 0, 2, 2, 0x0⟩)]
theorem test_flow_words : readsAll flowWords = true := by decide
def portableWords : List (List Nat × Instr) := [
  ([0x52AB4002, 0x0593A01D], .vmovdP lg ⟨0, 14, 0x2A5, 0x15A, 0⟩), ([0x52AB4002, 0x0593A201], .vbcastP lg ⟨0, 0, 0x2A5, 0x15A, 0x0⟩),
  ([0x52800002, 0x0593A341], .viotaP lg ⟨2, 0, 0x2A5, 0x0, 0x0⟩), ([0x52AB579A, 0x0593A441], .vaddP lg ⟨2, 0, 0x2A5, 0x15A, 0x2F3⟩),
  ([0x52AB579A, 0x0593A541], .vsubP lg ⟨2, 0, 0x2A5, 0x15A, 0x2F3⟩), ([0x52AB579A, 0x0593A643], .vmulP lg ⟨2, 1, 0x2A5, 0x15A, 0x2F3⟩),
  ([0x52AB579A, 0x0593A741], .vfmaP lg ⟨2, 0, 0x2A5, 0x15A, 0x2F3⟩), ([0x52AB579A, 0x0593A841], .vminP lg ⟨2, 0, 0x2A5, 0x15A, 0x2F3⟩),
  ([0x52AB579A, 0x0593A941], .vmaxP lg ⟨2, 0, 0x2A5, 0x15A, 0x2F3⟩), ([0x52AB4002, 0x0593AA41], .vabsP lg ⟨2, 0, 0x2A5, 0x15A, 0x0⟩),
  ([0x52AB4002, 0x0593AB41], .vnegP lg ⟨2, 0, 0x2A5, 0x15A, 0x0⟩), ([0x52AB579A, 0x0593AC41], .vandP lg ⟨2, 0, 0x2A5, 0x15A, 0x2F3⟩),
  ([0x52AB579A, 0x0593AD41], .vorP lg ⟨2, 0, 0x2A5, 0x15A, 0x2F3⟩), ([0x52AB579A, 0x0593AE41], .vxorP lg ⟨2, 0, 0x2A5, 0x15A, 0x2F3⟩),
  ([0x52AB4002, 0x0593AF41], .vnotP lg ⟨2, 0, 0x2A5, 0x15A, 0x0⟩), ([0x52AB579A, 0x0593B041], .vshlP lg ⟨2, 0, 0x2A5, 0x15A, 0x2F3⟩),
  ([0x52AB579A, 0x0593B141], .vshrP lg ⟨2, 0, 0x2A5, 0x15A, 0x2F3⟩), ([0x52AB579A, 0x0593B241], .vshaP lg ⟨2, 0, 0x2A5, 0x15A, 0x2F3⟩),
  ([0x52AB579A, 0x0593B34B], .vcmpP lg ⟨2, 5, 0x2A5, 0x15A, 0x2F3⟩), ([0x52AB579A, 0x0593B441], .vselP lg ⟨2, 0, 0x2A5, 0x15A, 0x2F3⟩),
  ([0x52AB4002, 0x0593B54D], .vcvtP lg ⟨2, 6, 0x2A5, 0x15A, 0x0⟩), ([0x52AB579A, 0x0593B641], .vclmpP lg ⟨2, 0, 0x2A5, 0x15A, 0x2F3⟩),
  ([0x52AB579A, 0x0593B741], .vscaleP lg ⟨2, 0, 0x2A5, 0x15A, 0x2F3⟩), ([0x52AB4002, 0x0593B86F], .vqntP lg ⟨3, 7, 0x2A5, 0x15A, 0x0⟩),
  ([0x52AB4002, 0x0593B961], .vexp2P lg ⟨3, 0, 0x2A5, 0x15A, 0x0⟩), ([0x52AB4002, 0x0593BA61], .vlog2P lg ⟨3, 0, 0x2A5, 0x15A, 0x0⟩),
  ([0x52AB4002, 0x0593BB61], .vrcpP lg ⟨3, 0, 0x2A5, 0x15A, 0x0⟩), ([0x52AB4002, 0x0593BC61], .vrsqP lg ⟨3, 0, 0x2A5, 0x15A, 0x0⟩),
  ([0x52AB4002, 0x0593BD61], .vtanhP lg ⟨3, 0, 0x2A5, 0x15A, 0x0⟩), ([0x52AB4002, 0x0593BE63], .vsumrP lg ⟨3, 1, 0x2A5, 0x15A, 0x0⟩),
  ([0x52AB579A, 0x0593BF41], .vpermP lg ⟨2, 0, 0x2A5, 0x15A, 0x2F3⟩)]
theorem test_portable_words : readsAll portableWords = true := by decide
def matrixWords : List (List Nat × Instr) := [
  ([0x07004402, 0x0593C049], .tmma lg ⟨9, 4, 3, 0x401, 1⟩), ([0x07004402, 0x0593C149], .tmms lg ⟨9, 4, 3, 0x401, 1⟩),
  ([0x07004402, 0x0593C249], .tdist lg ⟨9, 4, 3, 0x401, 1⟩), ([0x018E7042, 0x0593C34C], .ttopk lg ⟨9, 0x401, 17, 12, true, true, 0x41⟩),
  ([0x58032402, 0x0593C496], .accrd lg ⟨0x965, 0x401, 2, 9⟩), ([0x58032402, 0x0593C596], .accwr lg ⟨0x965, 0x401, 2, 9⟩),
  ([0x30092002, 0x0593C680], .accz lg ⟨0x401, 0x402, 9⟩)]
theorem test_matrix_words : readsAll matrixWords = true := by decide

/-! Words of the spec's worked encodings (R124, R151, R217 and the idioms). -/

def workedWords : List (List Nat × Instr) := [
    ([0x10000019, 0x60420004], .addi ⟨false, { Pfx.none with imm := some 3 }⟩ ⟨2, 2, 0⟩),
    ([0x1000BFF9, 0x7C60C0FC], .li ⟨false, { Pfx.none with imm := some 0x17FF }⟩ ⟨3, 0x181F⟩),
    ([0x01040002, 0x02008612], .vmul ⟨false, Pfx.none, 2, 0⟩ ⟨1, 2, 0, 1, 0, 2, 0, 0⟩),
    ([0x71AA0020], .shli sh ⟨13, 10, 4⟩),
    ([0x0006102A, 0x0E009ED1], .vsumr ⟨false, Pfx.none, 0x0E, 0⟩ ⟨13, 1, 0, 0, 0, 3, 1, 5⟩),
    ([0x40060002, 0x0D0099E5], .vexp2 ⟨false, Pfx.none, 0x0D, 0⟩ ⟨14, 5, 4, 0, 0, 3, 0, 0⟩),
    ([0x86000402, 0x8283C008], .tmma ⟨false, Pfx.none, 0x82, 0x83⟩ ⟨1, 2, 3, 0, 1⟩),
    ([0x00000142, 0x0100100B], .chkpMrf ⟨false, Pfx.none, 1, 0⟩ ⟨0x160, 40⟩),
    ([0x00000A62, 0x01004428], .bfmt ⟨false, Pfx.none, 1, 0⟩ ⟨5, 0x14C⟩)]
theorem test_worked_words : readsAll workedWords = true := by decide
theorem test_worked_word_with_arith : (match decode (Machine.parcelBytes [0x02000001, 0x23060006, 0x03008424]) with
    | .unit (.vadd h o) 3 true => h.pfx.arith == some ⟨1, false, false, false⟩ && h.pfx.imm.isNone && h.pfx.mem.isNone && h.pfx.pred.isNone &&
        h.wait == 3 && h.signal == 0 && !h.p && o == ⟨2, 4, 2, 3, 0, 3, 0, 0⟩
    | _ => false) = true := by decide

/-! Bytes that are no unit (R124, R125, R127, R129, R139), and fields that are not zero where they must be. -/

def badOf (ws : List Nat) : Option DecodeError :=
  match decode (Machine.parcelBytes ws) with
  | .unit .. => none
  | .bad e => some e
theorem test_bytes_that_are_no_unit : badOf [0x00000003] = some .illegalLength ∧ badOf [0x40000001, 0xF4000000] = some .badPrefixes ∧
    badOf [0x10000001, 0x10000005, 0x60420004] = some .badPrefixes ∧ badOf [0x10000001, 0x60420000] = some .orphanPrefix ∧
    badOf [0x9C000000] = some (.illegalOpcode false) ∧ badOf [0x00000002, 0x0000B000] = none ∧ badOf [0x00000002, 0x0000C700] = some (.illegalOpcode false) ∧
    badOf [0x00000002] = some (.truncated 1) := by
  refine ⟨by decide, by decide, by decide, by decide, by decide, by decide, by decide, by decide⟩
theorem test_bits_that_must_be_zero : (match decode (Machine.parcelBytes [0x003F3808]) with
    | .unit i _ z => i == .add sh ⟨1, 31, 7, false⟩ && !z
    | .bad _ => false) = true := by decide

/-! WellFormed refuses a term for each of its checks. -/

theorem test_ill_formed :
    (Instr.vadd ⟨false, ⟨some ⟨0, false, false, false⟩, some 1, none, some ⟨1, false⟩⟩, 1, 0⟩ ⟨2, 1, 0, 0, 0, 0, 0, 0⟩).wf = false ∧
    (Instr.nop ⟨true, Pfx.none⟩).wf = false ∧ (Instr.nop ⟨false, { Pfx.none with imm := some 1 }⟩).wf = false ∧
    (Instr.vadd ⟨false, { Pfx.none with arith := some ⟨6, false, false, false⟩ }, 1, 0⟩ ⟨2, 1, 0, 0, 0, 0, 0, 0⟩).wf = false ∧
    (Instr.nopL ⟨false, Pfx.none, 1, 1⟩).wf = false ∧ (Instr.cmp sh ⟨1, 2, 3, 6, false⟩).wf = false ∧
    (Instr.vadd lo ⟨0, 1, 0, 0, 0, 0, 0, 0⟩).wf = false ∧ (Instr.vadd lo ⟨1, 1, 0, 0, 0, 0, 0, 0⟩).wf = false ∧
    (Instr.rdsr sh ⟨1, 0x0C⟩).wf = false ∧ (Instr.xfence lo ⟨5, 0⟩).wf = false ∧ (Instr.cpgo lo ⟨1, 2, 3, 6, 0, 0, false, false, false, false⟩).wf = false ∧
    (Instr.vaddP lo ⟨3, 8, 0, 0, 0⟩).wf = false ∧ (Instr.tmma lo ⟨1, 2, 3, 0, 8⟩).wf = false := by decide
theorem test_well_formed : (Instr.nop sh).wf = true ∧ (Instr.vadd lo ⟨2, 1, 0, 0, 0, 0, 0, 0⟩).wf = true ∧ (Instr.nodeStart).wf = true := by decide
/-! Scalar arithmetic. -/

theorem test_alu_units_execute : ∀ i ∈ [Instr.add sh ⟨1, 2, 3, true⟩, .sub sh ⟨1, 2, 3, false⟩, .and sh ⟨1, 2, 3, true⟩, .or sh ⟨1, 2, 3, false⟩,
    .xor sh ⟨1, 2, 3, true⟩, .andn sh ⟨1, 2, 3, false⟩, .shl sh ⟨1, 2, 3, true⟩, .shr sh ⟨1, 2, 3, false⟩, .sha sh ⟨1, 2, 3, true⟩,
    .rot sh ⟨1, 2, 3, false⟩, .min sh ⟨1, 2, 3, true⟩, .max sh ⟨1, 2, 3, false⟩, .minu sh ⟨1, 2, 3, true⟩, .maxu sh ⟨1, 2, 3, false⟩,
    .mul sh ⟨1, 2, 3, true⟩, .mulh sh ⟨1, 2, 3, false⟩, .clz sh ⟨1, 2, true⟩, .popc sh ⟨1, 2, false⟩],
    (aluRow i).isSome = true ∧ (demoOf i).executes i = true := by decide
theorem test_sel_and_mov_execute : (demoOf (.sel sh ⟨1, 2, 3, true, 0⟩)).executes (.sel sh ⟨1, 2, 3, true, 0⟩) = true ∧
    (demoOf (.mov sh ⟨1, 2⟩)).executes (.mov sh ⟨1, 2⟩) = true := by decide
theorem test_immediate_units_execute : (∀ i ∈ [Instr.addi ⟨false, { Pfx.none with imm := some 3 }⟩ ⟨2, 2, 0⟩, .andi sh ⟨1, 2, 3⟩, .ori sh ⟨1, 2, 3⟩,
    .xori sh ⟨1, 2, 3⟩, .shli sh ⟨1, 2, 63⟩, .shri sh ⟨1, 2, 0⟩, .shai sh ⟨1, 2, 63⟩],
    (immRow i).isSome = true ∧ (demoOf i).executes i = true) ∧
    ∀ i ∈ [Instr.li sh ⟨1, 0x1FFF⟩, .addiL lo ⟨1, 2, true, 5⟩, .lih lo ⟨1, 0xFFFFFFFF⟩, .mad lo ⟨1, 2, 3, 4, true⟩], (demoOf i).executes i = true := by
  decide
/-- R161: a .w sum wraps at 32 bits and is sign-extended from bit 31. -/
theorem test_add_w_wraps : (match exec (.add sh ⟨1, 2, 3, true⟩) (demoX (.add sh ⟨1, 2, 3, true⟩) [(2, 0x7FFFFFFF), (3, 1)]) with
    | .next t => t.core.done.map (·.writes)
    | _ => []) = [[.x .ct 1 0xFFFFFFFF80000000 false]] := by decide
/-- R161 and R157: MULH gives the high half of the signed product, after 3 cycles. -/
theorem test_mulh_of_minus_one : (match exec (.mulh sh ⟨1, 2, 3, false⟩) (demoX (.mulh sh ⟨1, 2, 3, false⟩) [(2, -1), (3, 1)]) with
    | .next t => t.core.done.map fun p => (p.due, p.writes)
    | _ => []) = [(3, [.x .ct 1 (-1) false])] := by decide
/-- R85: a clean quotient, one by zero with TMASK clear, the most negative number by minus one, and a poisoned source that does not trap. -/
theorem test_divides_execute : (∀ i ∈ [Instr.div sh ⟨1, 2, 3, false⟩, .divu sh ⟨1, 2, 3, true⟩, .rem sh ⟨1, 2, 3, false⟩, .remu sh ⟨1, 2, 3, true⟩],
    (divRow i).isSome = true ∧ (demoX i [(2, -7), (3, 2)]).executes i = true ∧ (demoX i [(2, -7)]).executes i = true ∧
      (demoX i [(2, -7)] [3]).bad 3 = true) ∧
    divCause true 64 5 0 0 = none ∧ divCause true 64 (2 ^ 63) (2 ^ 64 - 1) 0 = none ∧ divCause false 64 5 2 7 = none := by decide
/-- R85: -7 by 2 is -3 with the remainder -1. -/
theorem test_divide_truncates : quotOf true 64 (2 ^ 64 - 7) 2 = 2 ^ 64 - 3 ∧ remOf true 64 (2 ^ 64 - 7) 2 = 2 ^ 64 - 1 ∧
    (match exec (.div sh ⟨1, 2, 3, false⟩) (demoX (.div sh ⟨1, 2, 3, false⟩) [(2, -7), (3, 2)]) with
      | .next t => t.core.done.map fun p => (p.due, p.writes)
      | _ => []) = [(20, [.x .ct 1 (-3) false])] := by decide
theorem test_compares_and_predicates_execute :
    (∀ i ∈ [Instr.cmp sh ⟨1, 2, 3, 0, true⟩, .cmpi sh ⟨7, 0x1C, 0, 0x22⟩, .cmpL lo ⟨1, 2, 5, true, 9⟩],
      (cmpRow (demoOf i) i).any (fun r => !(r.2.2.2.2.2.any (demoOf i).bad)) = true ∧ (demoOf i).executes i = true) ∧
    ∀ i ∈ [Instr.pand sh ⟨1, 2, 3⟩, .por sh ⟨1, 2, 3⟩, .pxor sh ⟨1, 2, 3⟩, .pnot sh ⟨1, 2⟩, .pmov sh ⟨1, 2⟩],
      (predRow i).isSome = true ∧ (demoOf i).executes i = true := by decide
/-- R164: ltu compares unsigned, lt signed. -/
theorem test_compare_signs : condMet 2 64 (2 ^ 64 - 1) 0 = true ∧ condMet 4 64 (2 ^ 64 - 1) 0 = false := by decide

/-! Control transfer. -/

theorem test_loops_execute :
    (loopRow (demoX (.loop sh ⟨2, 3⟩) [(2, 5)]) (.loop sh ⟨2, 3⟩) = some (3, 5, false) ∧
      (demoX (.loop sh ⟨2, 3⟩) [(2, 5)]).executes (.loop sh ⟨2, 3⟩) = true ∧ (demoX (.loop sh ⟨2, 3⟩) [(2, 5)]).seq.loops.length < 4) ∧
    (loopRow (demoOf (.loopL lo ⟨3, 1⟩)) (.loopL lo ⟨3, 1⟩) = some (3, 1, false) ∧ (demoOf (.loopL lo ⟨3, 1⟩)).executes (.loopL lo ⟨3, 1⟩) = true) ∧
    (loopRow (demoOf (.loop sh ⟨2, 1⟩)) (.loop sh ⟨2, 1⟩) = some (1, 0, false) ∧ (demoOf (.loop sh ⟨2, 1⟩)).executes (.loop sh ⟨2, 1⟩) = true) := by decide
/-- A pass of a loop whose ENDL stands at 0, with `n` passes left. -/
def looping (n : Word) : State := demoX (.endl sh) [] [] fun c => c.updSeq .ct fun v => { v with loops := [⟨0, 0, n⟩] }
theorem test_endl_executes : ((looping 1).executes (.endl sh) = true ∧ (looping 1).seq.loops = [⟨0, 0, 1⟩]) ∧
    ((looping 2).executes (.endl sh) = true ∧ (looping 2).seq.loops = [⟨0, 0, 2⟩]) ∧ (looping 1).seq.pc = 0 := by decide
theorem test_tokens_and_ends_execute :
    (∀ i ∈ [Instr.tkpost sh ⟨0, 7⟩, .tkcnt sh ⟨1, 0⟩, .nopL lo], (demoOf i).executes i = true) ∧
    (∀ i ∈ [Instr.nop sh, .yield sh, .tkwait sh ⟨0, 4⟩], idleRow i = true ∧ (demoOf i).executes i = true) ∧
    (demoOf (.taskend sh)).executes (.taskend sh) = true ∧ (demoOf (.taskend sh)).core.tl = 0 ∧ (demoOf (.taskend sh)).core.regions = [] ∧
    (demo false false .st).executes (.taskend sh) = true ∧
    (demoOf (.safept sh)).executes (.safept sh) = true ∧ safeEntry (demoOf (.safept sh)).core 0 = none := by decide
/-- R331: a safe point of a stale task, at which the others stand too. -/
theorem test_a_safe_point_of_a_stale_task :
    let s := demoX (.safept sh) [] [] fun c => (({ c with task := c.task.map fun t => { t with stale := true, image := { t.image with safe := [[0, 0, 0, 0]] } } } : Core)
        |>.updSeq .ld (fun q => { q with ended := true })
        |>.updSeq .mx (fun q => { q with ended := true }) |>.updSeq .st (fun q => { q with ended := true }))
    s.executes (.safept sh) = true ∧ (s.core.yields .ct = false ∧ s.core.tl < 2) ∧ safeEntry s.core s.seq.pc = some 0 ∧
      (∀ k ∈ s.core.task, k.stale = true) ∧ s.core.task.isSome = true ∧ s.core.safeHolds 0 = true := by decide
/-- R171: TKWAIT takes its tokens as it issues. -/
theorem test_tkwait_takes : (match exec (.tkwait sh ⟨0, 4⟩) (demoOf (.tkwait sh ⟨0, 4⟩)) with
    | .next t => some (t.core.getTok 0).count
    | _ => none) = some 0 := by decide
theorem test_branches_execute :
    (∀ i ∈ [Instr.br sh ⟨-1⟩, .bp sh ⟨0, 5⟩, .bp sh ⟨1, 5⟩, .bnp sh ⟨0, 5⟩, .bnp sh ⟨1, 5⟩, .call sh ⟨9⟩, .chkpX lo ⟨2, 5⟩, .chkr lo ⟨1, 0, 5⟩,
      .chkr lo ⟨1, 2, 5⟩], (demoOf i).executes i = true) ∧
    (demoX (.chkpX lo ⟨2, 5⟩) [] [2]).bad 2 = true ∧ (demoX (.chkpX lo ⟨2, 5⟩) [] [2]).executes (.chkpX lo ⟨2, 5⟩) = true ∧
    (∀ i ∈ [Instr.ret sh ⟨2⟩, .jmpx sh ⟨2⟩], (demoX i [(2, 8)]).executes i = true ∧ (demoX i [(2, 8)]).bad 2 = false ∧
      (demoX i [(2, 8)]).src 2 % 4 = 0) ∧
    (demoOf (.chkpMrf lo ⟨0x160, 40⟩)).executes (.chkpMrf lo ⟨0x160, 40⟩) = true ∧ (demoOf (.chkpMrf lo ⟨0x160, 40⟩)).core.udchk = false := by decide
/-- R166: a branch counts parcels from itself. -/
theorem test_branch_back : (match exec (.br sh ⟨-1⟩) (demoX (.br sh ⟨-1⟩) [] [] fun c => c.updSeq .ct fun v => { v with pc := 0x20 }) with
    | .next t => some t.core.ct.pc
    | _ => none) = some 0x1C := by decide

/-! Traps. -/

/-- A machine with one core change, to hold an instruction at a trap level. -/
def atLevel (n : Nat) (c : Core) : Core := { c with tl := n }

theorem test_checks_fail_and_breakpoints_match :
    let s := demoX (.nop sh) [] [] fun c => c.updSeq .ct fun v => { v with brk := [(0, ⟨true, 0⟩)] }
    (s.core.yields .ct = false ∧ s.core.tl < 2) ∧
    (∀ f ∈ (Instr.nop ⟨true, Pfx.none⟩).info, decodeCheck (.nop ⟨true, Pfx.none⟩) f true s.core s.who = some 0x04) ∧
    (∀ f ∈ (Instr.nop sh).info, decodeCheck (.nop sh) f true s.core s.who = none ∧ canIssue (.nop sh) f s.core s.who = true) ∧
    (Instr.nop sh).info.isSome = true ∧ (Instr.nop ⟨true, Pfx.none⟩).info.isSome = true ∧ s.seq.breakAt = some 0 := by decide
theorem test_operands_trap :
    (let i := Instr.divu sh ⟨1, 2, 3, false⟩
     let s := demoX i [] [] fun c => c.updSeq .ct fun v => { v with tmask := 1 }
     s.executes i = true ∧ s.core.yields .ct = false ∧ s.core.tl < 2 ∧ s.bad 2 = false ∧ s.bad 3 = false ∧
       divCause false 64 0 0 s.seq.tmask = some Cause.divZero) ∧
    divCause true 64 (2 ^ 63) (2 ^ 64 - 1) 2 = some Cause.intOverflow ∧
    (let i := Instr.cmp sh ⟨1, 2, 3, 0, false⟩
     (demoX i [] [3]).executes i = true ∧ (demoX i [] [3]).bad 3 = true) ∧
    (∀ i ∈ [Instr.jmpx sh ⟨2⟩, .ret sh ⟨2⟩], (demoX i [(2, 2)]).executes i = true ∧ (demoX i [(2, 2)]).bad 2 = false ∧
      (demoX i [(2, 2)]).src 2 % 4 ≠ 0) ∧
    ((demoX (.loop sh ⟨2, 0⟩) [(2, 5)]).executes (.loop sh ⟨2, 0⟩) = true ∧
      loopRow (demoX (.loop sh ⟨2, 0⟩) [(2, 5)]) (.loop sh ⟨2, 0⟩) = some (0, 5, false)) ∧
    (let s := demoX (.loopL lo ⟨1, 1⟩) [] [] fun c => c.updSeq .ct fun v => { v with loops := List.replicate 4 ⟨0, 8, 1⟩ }
     s.executes (.loopL lo ⟨1, 1⟩) = true ∧ loopRow s (.loopL lo ⟨1, 1⟩) = some (1, 1, false) ∧ s.seq.loops.length ≥ 4) ∧
    ((demoOf (.endl sh)).executes (.endl sh) = true ∧ (demoOf (.endl sh)).seq.loops = []) ∧
    ((demoOf (.tret sh)).executes (.tret sh) = true ∧ (demoOf (.tret sh)).core.tl = 0) ∧
    (let s := demoX (.taskend sh) [] [] (atLevel 1)
     s.executes (.taskend sh) = true ∧ s.who = .ct ∧ s.core.tl ≠ 0 ∧ s.core.tl < 2) := by decide
theorem test_poisoned_targets_and_counts_trap :
    (∀ i ∈ [Instr.jmpx sh ⟨2⟩, .ret sh ⟨2⟩, .loop sh ⟨2, 3⟩],
      (demoX i [] [2]).executes i = true ∧ (demoX i [] [2]).bad 2 = true ∧ (demoX i [] [2]).core.tl < 2 ∧
        (demoX i [] [2]).core.yields .ct = false) := by decide
/-- R176: a prefix on TRAP is an orphan; without one BRK passes the checks on MX with three units issued in its cycle. -/
theorem test_trap_instructions_take_no_prefix :
    (∀ f ∈ (Instr.trap ⟨false, { Pfx.none with imm := some 1 }⟩ ⟨0⟩).info, f.p = false ∧ f.pfx.count ≠ 0 ∧
      decodeCheck (.trap ⟨false, { Pfx.none with imm := some 1 }⟩ ⟨0⟩) f true (demoOf (.brk sh ⟨0⟩)).core .st = some 0x04) ∧
    (∀ f ∈ (Instr.brk sh ⟨0⟩).info, f.p = false ∧ f.pfx.count = 0 ∧
      decodeCheck (.brk sh ⟨0⟩) f true { (demoOf (.brk sh ⟨0⟩)).core with mxCount := 3 } .mx = none) ∧
    (Instr.brk sh ⟨0⟩).info.isSome = true ∧ (Instr.trap ⟨false, { Pfx.none with imm := some 1 }⟩ ⟨0⟩).info.isSome = true := by decide
theorem test_trap_instructions_execute :
    (∀ i ∈ [Instr.brk sh ⟨0xFFFF⟩, .trap sh ⟨0⟩], (demoOf i).executes i = true ∧ (demoOf i).core.tl < 2) ∧
    (let s := demoX (.nop sh) [] [] (atLevel 2)
     s.core.tl = 2 ∧ s.core.yields s.who = false ∧ s.core.task.isSome = true ∧
       (∀ f ∈ (Instr.nop ⟨true, Pfx.none⟩).info, decodeCheck (.nop ⟨true, Pfx.none⟩) f true s.core s.who = some 0x04) ∧
       (demoX (.trap sh ⟨0x1234⟩) [] [] (atLevel 2)).executes (.trap sh ⟨0x1234⟩) = true) := by decide
theorem test_tret_executes :
    (∀ n ∈ [1, 2], let s := demoX (.tret sh) [] [] (atLevel n)
      s.executes (.tret sh) = true ∧ s.core.tl = n ∧ s.core.suspended = none) ∧
    (seqOf ((demoX (.tret sh) [] [] fun c => { c with tl := 1, eseq1 := 2 }).core.trapRegs 1).eseq.toNat = .mx) := by decide
/-- R284: a trap of ST at TL 0 saves its PC, the cause and the sequencer, banks CT's PC, and goes to TVEC1. -/
theorem test_trap_entry :
    (match exec (.brk sh ⟨7⟩) ((demo false false .st).updCore fun c => { c with ct := { c.ct with pc := 0x44 }, tvec1 := 0x100 }) with
      | .next t => [t.core.tl, t.core.ecause1.toNat, t.core.epc1.toNat, t.core.eaddr1.toNat, t.core.eseq1.toNat, t.core.ret1.toNat, t.core.ct.pc.toNat]
      | _ => []) = [1, 0x40, 0, 7, 3, 0x44, 0x100] := by decide
theorem test_units_wait_and_are_suppressed :
    (∀ f ∈ (Instr.tkwait sh ⟨0, 7⟩).info, decodeCheck (.tkwait sh ⟨0, 7⟩) f true (demoOf (.tkwait sh ⟨0, 7⟩)).core .ct = none ∧
      tokensReady (.tkwait sh ⟨0, 7⟩) f (demoOf (.tkwait sh ⟨0, 7⟩)).core = false) ∧
    (let i := Instr.add ⟨false, { Pfx.none with pred := some ⟨1, false⟩ }⟩ ⟨1, 2, 3, false⟩
     let s := demoOf i
     i.info.isSome = true ∧ ∀ f ∈ i.info, decodeCheck i f true s.core s.who = none ∧ canIssue i f s.core s.who = true ∧
       s.seq.breakAt = none ∧ earlyReg (predRegs f.pfx) s.core s.who = false ∧ perLane f = false ∧ (predMask s.seq f.pfx).getLsbD 0 = false ∧
       timedInstr f = true) := by decide

/-! System registers. -/

theorem test_rdsr_executes : (∀ n ∈ [0, 0x0B, 0x22, 0x23, 0x24, 0x31, 0x50, 0x54, 0x100, 0x117],
      (demoOf (.rdsr sh ⟨1, BitVec.ofNat 10 n⟩)).executes (.rdsr sh ⟨1, BitVec.ofNat 10 n⟩) = true) ∧
    srWhole (demoOf (.rdsr sh ⟨1, 0x117⟩)).core .ct 0x117 = some 0 ∧ (demoOf (.rdsr sh ⟨1, 0⟩)).core.task.isSome = true ∧
    (let h := { (demoOf (.rdsr sh ⟨1, 0x50⟩)).hub with chain := { Chain.reset with tenant := 5 } }
     (demoOf (.rdsr sh ⟨1, 0x50⟩)).core.tenant ≠ h.chain.tenant) ∧
    (let h := { (demoOf (.rdsr sh ⟨1, 0x50⟩)).hub with chain := { Chain.reset with entries := [readChainEntry []] } }
     (demoOf (.rdsr sh ⟨1, 0x50⟩)).core.tenant = h.chain.tenant ∧ h.chain.entries ≠ []) := by decide
theorem test_wrsr_executes : (∀ n ∈ [1, 10, 0x0B, 0x10, 0x32, 0x33, 0x40],
      (demoX (.wrsr sh ⟨BitVec.ofNat 10 n, 2⟩) [(2, 4)]).executes (.wrsr sh ⟨BitVec.ofNat 10 n, 2⟩) = true) ∧
    (demoX (.wrsr sh ⟨0x0B, 2⟩) [] [2]).bad 2 = true ∧ srPermits 0 0x0B 8 = false ∧ srPermits 0 0x0B 7 = true ∧ srPermits 0 0x32 0 = false ∧
    srPermits 0 0x32 (2 ^ 32 - 1) = true ∧ srPermits 0 1 0 = false ∧ srPermits 1 1 0x20 = true ∧ srPermits 0 0x10 3 = true := by decide
/-- R77: SRSEED takes its value as WRSR issues. -/
theorem test_wrsr_srseed : (match exec (.wrsr sh ⟨0x32, 2⟩) (demoX (.wrsr sh ⟨0x32, 2⟩) [(2, 0xABCD)]) with
    | .next t => some (t.core.ct.srseed.toNat, t.core.done.length)
    | _ => none) = some (0xABCD, 0) := by decide
/-- Something that completes now, with one write. -/
def landing (w : RegWrite) : State := (demo false false .ct).updCore fun c => { c with done := [⟨3, false, 0, .ct, 0, [w], 0x80⟩], nextId := 4 }
theorem test_special_writes_land : ∀ w ∈ [RegWrite.sys 0x33 5, .rbase 3, .bf 2 1, .cl .ld 1 ⟨1, 0, 0⟩, .pat 2 [], .x .ct 1 5 false, .p .ct 2 1],
    (landing w).core.done.find? (fun x => x.id = 3) = some ⟨3, false, 0, .ct, 0, [w], 0x80⟩ ∧
      (landing w).core.completes ⟨3, false, 0, .ct, 0, [w], 0x80⟩ = true := by decide
theorem test_wrsr_tkwdog_lands : srLate 0x33 = true ∧ (match exec (.timedCompletion 3) (landing (.sys 0x33 5)) with
    | .next t => some (t.core.tkwdog.toNat, t.core.posts.length)
    | _ => none) = some (5, 1) := by decide

/-! Memory accesses. -/

/-- A machine where X2 holds a scratchpad address, and a pattern of one field stands in BX3. -/
def atPad (i : Instr) (a : Word) : State := demoX i [(2, a)] [] fun c => { c with bx := [(3, [7])] }

theorem test_local_accesses_reach :
    ((atPad (.ldx sh ⟨1, 2, 3, false, -1⟩) 0x300000).executes (.ldx sh ⟨1, 2, 3, false, -1⟩) = true ∧
      ReachesLocal (atPad (.ldx sh ⟨1, 2, 3, false, -1⟩) 0x300000) 2 (-8) 8 8 0x2FFFF8) ∧
    ((atPad (.stx sh ⟨3, 2, 2, 1⟩) 0).executes (.stx sh ⟨3, 2, 2, 1⟩) = true ∧ (atPad (.stx sh ⟨3, 2, 2, 1⟩) 0).bad 3 = false ∧
      ReachesLocal (atPad (.stx sh ⟨3, 2, 2, 1⟩) 0) 2 4 4 4 4) ∧
    ((atPad (.vld lo ⟨5, 2, false, false, 0, 0⟩) 0x2FFF80).executes (.vld lo ⟨5, 2, false, false, 0, 0⟩) = true ∧
      ReachesLocal (atPad (.vld lo ⟨5, 2, false, false, 0, 0⟩) 0x2FFF80) 2 0 128 4 0x2FFF80) ∧
    ((atPad (.vst lo ⟨5, 2, 0⟩) 8).executes (.vst lo ⟨5, 2, 0⟩) = true ∧ ReachesLocal (atPad (.vst lo ⟨5, 2, 0⟩) 8) 2 0 128 4 8) :=
  ⟨⟨by decide, by constructor <;> decide⟩, ⟨by decide, by decide, by constructor <;> decide⟩, ⟨by decide, by constructor <;> decide⟩,
    by decide, by constructor <;> decide⟩
theorem test_vst_source_is_clean : (readVec (atPad (.vst lo ⟨5, 2, 0⟩) 8).core.mrf (physOp 0 5)).poison = 0 := by decide
theorem test_more_local_accesses_reach :
    ((atPad (.vldb lo ⟨5, 3, 2, 0⟩) 1).executes (.vldb lo ⟨5, 3, 2, 0⟩) = true ∧ AMap.get [] (atPad (.vldb lo ⟨5, 3, 2, 0⟩) 1).core.bx 3 ≠ [] ∧
      ReachesLocal (atPad (.vldb lo ⟨5, 3, 2, 0⟩) 1) 2 0 (ceilDiv 32 (patFields [7]) * patPeriod [7]) 1 1) ∧
    ((atPad (.bxld lo ⟨3, 2⟩) 8).executes (.bxld lo ⟨3, 2⟩) = true ∧ ReachesLocal (atPad (.bxld lo ⟨3, 2⟩) 8) 2 0 72 8 8) ∧
    ((atPad (.waita lo ⟨1, 2, 3, 15⟩) 8).executes (.waita lo ⟨1, 2, 3, 15⟩) = true ∧ (atPad (.waita lo ⟨1, 2, 3, 15⟩) 8).bad 3 = false ∧
      ReachesLocal (atPad (.waita lo ⟨1, 2, 3, 15⟩) 8) 2 0 8 8 8) :=
  ⟨⟨by decide, by decide, by constructor <;> decide⟩, ⟨by decide, by constructor <;> decide⟩, by decide, by decide, by constructor <;> decide⟩
/-- R251: a block of INT8 is 32 bytes. -/
theorem test_decoded_load_reaches :
    let i := Instr.vld lo ⟨5, 2, true, false, 0, 0⟩
    let s := demoX i [(2, 64)] [] fun c => { c with bf := [(0, 1)] }
    s.executes i = true ∧ bfFmt (s.core.getBf (bankOf 64)) ≠ 0 ∧ bfSparse (s.core.getBf (bankOf 64)) = 0 ∧ grouped (s.core.getBf (bankOf 64)) = false ∧
      ReachesLocal s 2 0 (spansEnd (decSpans 1 0)) (elemBytes 1) 64 :=
  ⟨by decide, by decide, by decide, by decide, by constructor <;> decide⟩

/-- A machine where H4 is a handle of a resident page of 64 KiB, or of a page of package 3, with every right, and the core holds a wheel
position. -/
def atPage (remote : Bool) (i : Instr) (off : Word) : State :=
  demoX i [(2, off)] [] fun c =>
    { c with
      hnd := [(4, ⟨if remote then 0x7FE5 else 0x7FE1, 3, 0, true, 0, none, false, []⟩)]
      task := c.task.map fun t => { t with wheel := [0] } }

theorem test_handle_accesses_execute : ∀ b ∈ [false, true], ∀ i ∈ [Instr.ldg lo ⟨1, 4, 2, 3, false, 0⟩, .ldgP lo ⟨1, 4, 2, 3, false, 1, 0⟩,
    .stg lo ⟨3, 4, 2, 3, 0⟩, .vldg lo ⟨5, 1, 4, 2, 0⟩, .vstg lo ⟨5, 4, 2, 0⟩, .ordld lo ⟨1, 4, 2, 3, false⟩, .ordst lo ⟨3, 4, 2, 3⟩, .pref lo ⟨4, 2⟩],
    (atPage b i 0xFF80).executes i = true ∧ (atPage b i 0xFF80).bad 2 = false ∧ (atPage b i 0xFF80).bad 3 = false ∧
      (atPage b i 0xFF80).core.holdsWheel = true := by decide
theorem test_handle_accesses_reach (i : Instr) (hi : i = .ldg lo ⟨1, 4, 2, 3, false, 0⟩ ∨ i = .vstg lo ⟨5, 4, 2, 0⟩) :
    (∀ bit ∈ [5, 6, 7, 8], ReachesHandle (atPage true i 0xFF80) 4 0xFF80 128 8 bit) ∧ PageThere (atPage true i 0xFF80) 4 ∧
      PageThere (atPage false i 0xFF80) 4 ∧ (atPage false i 0xFF80).offset 2 (0 : BitVec 15) = 0xFF80 := by
  rcases hi with rfl | rfl <;> refine ⟨?_, .inl (by decide), .inr (by decide), by decide⟩ <;> intro bit hb <;>
    fin_cases hb <;> constructor <;> decide
theorem test_vstg_source_is_clean : (readVec (atPage true (.vstg lo ⟨5, 4, 2, 0⟩) 0).core.mrf (physOp 0 5)).poison = 0 := by decide
theorem test_wrong_local_accesses :
    (let i := Instr.ldx sh ⟨1, 2, 3, false, 0⟩
     ∀ a ∈ [4, 0x300000, 0x400000], let s := demoX i [(2, BitVec.ofNat 64 a)]
       s.executes i = true ∧ s.core.yields .ct = false ∧ s.core.tl < 2 ∧ s.bad 2 = false ∧ (demoX i [] [2]).bad 2 = true) := by decide
theorem test_wrong_handle_accesses :
    (let i := Instr.ldg lo ⟨1, 4, 2, 3, false, 0⟩
     (∀ bits ∈ [0, 0x7FC1, 0xFFE1, 0x7FE1],
        (demoX i [(2, 0xFFF9)] [] fun c => { c with hnd := [(4, ⟨BitVec.ofNat 128 bits, 0, 0, false, 0, none, false, []⟩)] }).executes i = true) ∧
     (let H : Hnd := ⟨0x7FE1, 0, 0, false, 0, none, false, []⟩
      H.valid = true ∧ H.perm 5 = true ∧ H.sync = false ∧ H.remote = false ∧ H.resident = false ∧ 0xFFF9 % 8 ≠ 0 ∧ H.size < 0x10000 + 8)) := by decide

/-- An operation in flight, and a machine that has it alone. -/
def flying (op : Op) (stage : Stage) : Flight :=
  { id := 3, q := .ct, pc := 0, path := 0, cls := 0, op := op, stage := stage, due := 0, sig := 0x80, level := 0, quiet := false, data := [],
    marks := [], hnd := none, late := false }
def inFlight (op : Op) (stage : Stage) : State := (demo false false .ct).updCore fun c => { c with flight := [flying op stage], nextId := 4 }

theorem nothing_before (op : Op) (stage : Stage) (l : Loc) (n : Nat) : NothingBefore (inFlight op stage) (flying op stage) l n := by
  intro g hg h
  have : g = flying op stage := by simpa [inFlight, State.updCore] using hg
  exact absurd h (by rw [this]; exact Nat.lt_irrefl _)
theorem test_loads_are_ready : LoadReady (inFlight (.load (.x 1 4 true) (.spad 8) 4 none none false) .going)
      (flying (.load (.x 1 4 true) (.spad 8) 4 none none false) .going) (.spad 8) 4 ∧
    LoadReady (inFlight (.load (.vec 5) (.spad 8) 128 none none false) .going)
      (flying (.load (.vec 5) (.spad 8) 128 none none false) .going) (.spad 8) 128 ∧
    LoadReady (inFlight (.load (.pattern 3) (.spad 8) 72 none none false) .going)
      (flying (.load (.pattern 3) (.spad 8) 72 none none false) .going) (.spad 8) 72 ∧
    patOk ((inFlight (.load (.pattern 3) (.spad 8) 72 none none false) .going).readLoc (.spad 8) 0 72).1 = true :=
  ⟨⟨⟨by decide, by decide⟩, rfl, by decide, by decide, nothing_before _ _ _ _⟩,
    ⟨⟨by decide, by decide⟩, rfl, by decide, by decide, nothing_before _ _ _ _⟩,
    ⟨⟨by decide, by decide⟩, rfl, by decide, by decide, nothing_before _ _ _ _⟩, by decide⟩

/-- A machine with one operation in flight whose bytes have come. -/
def come (op : Op) (bs : List Byte) : Flight := { flying op .done with data := bs }
def hasCome (op : Op) (bs : List Byte) : State := (inFlight op .done).updCore fun c => { c with flight := [come op bs] }

/-- A scalar load that is performed now, and one whose bytes have come. -/
theorem test_loads_have_their_bytes :
    LoadHas (inFlight (.load (.x 1 4 true) (.spad 8) 4 none none false) .going)
      (flying (.load (.x 1 4 true) (.spad 8) 4 none none false) .going) (.spad 8) 4 [0, 0, 0, 0] ∧
    (let op := Op.load (.x 1 4 true) (.remote 3 8) 4 none (some 1) false
     LoadHas (hasCome op [1, 2, 3, 4]) (come op [1, 2, 3, 4]) (.remote 3 8) 4 [1, 2, 3, 4]) ∧
    (let op := Op.load (.pattern 3) (.spad 8) 72 none none false
     let bs := List.replicate 72 0
     LoadHas (hasCome op bs) (come op bs) (.spad 8) 72 bs ∧ patOk bs = true) :=
  ⟨⟨by decide, .inl ⟨⟨⟨by decide, by decide⟩, rfl, by decide, by decide, nothing_before _ _ _ _⟩, by decide⟩⟩,
    ⟨by decide, .inr ⟨⟨by decide, by decide⟩, by decide⟩⟩, ⟨by decide, .inr ⟨⟨by decide, by decide⟩, by decide⟩⟩, by decide⟩
/-- R249: a vector load that is performed now, and ones whose bytes have been read; each takes the port for this pulse alone, or waits for it. -/
theorem test_vector_loads_have_their_bytes :
    (let op := Op.load (.vec 5) (.spad 8) 128 none none false
     VecHas (inFlight op .going) (flying op .going) (.vec 5) (.spad 8) 128 (List.replicate 128 0) [] ∧ (flying op .going).sideVec = some 5 ∧
       EndsSide (inFlight op .going).core (flying op .going) 5 ∧
       ¬ EndsSide { (inFlight op .going).core with sideFree := 7 } (flying op .going) 5) ∧
    (∀ dst ∈ [LoadDst.vec 5, .dec 5 1 false 0, .fields 5 [7]],
      VecHas (hasCome (.load dst (.spad 8) 1 none none false) [9]) (come (.load dst (.spad 8) 1 none none false) [9]) dst (.spad 8) 1 [9] []) := by
  refine ⟨⟨⟨by decide, .inl ⟨⟨⟨by decide, by decide⟩, rfl, by decide, by decide, nothing_before _ _ _ _⟩, by decide⟩⟩, rfl,
    .inr ⟨⟨by decide, by decide⟩, by decide⟩, ?_⟩, ?_⟩
  · unfold EndsSide BeginsSide; decide
  intro dst h
  simp only [List.mem_cons, List.not_mem_nil, or_false] at h
  rcases h with rfl | rfl | rfl <;> exact ⟨by decide, .inr ⟨⟨by decide, by decide⟩, by decide⟩⟩
theorem test_a_vector_waits_to_land : ({ Core.idle 0 0 0 with sideWr := [(5, Vec.zero)] } : Core).sideWr = [(5, Vec.zero)] := rfl
/-- R248: a promise has come due, with its data there, without it, and timed out; a late one has its data. -/
theorem test_promises_are_due : ∀ dst ∈ [LoadDst.x 1 8 false, .vec 5], ∀ st ∈ [Stage.done, .going, .timedOut],
    (inFlight (.load dst (.spad 8) 8 (some 0) (some 1) false) st).core.flightOf 3 =
        some (flying (.load dst (.spad 8) 8 (some 0) (some 1) false) st) ∧
      (flying (.load dst (.spad 8) 8 (some 0) (some 1) false) st).late = false ∧
      (flying (.load dst (.spad 8) 8 (some 0) (some 1) false) st).marks = [] := by decide
theorem test_a_late_promise_has_its_data : let op := Op.load (.vec 5) (.spad 8) 128 (some 0) (some 1) false
    let f := { flying op .done with late := true }
    let s := (inFlight op .done).updCore fun c => { c with flight := [f] }
    s.core.flightOf f.id = some f ∧ f.due ≤ s.core.pulse ∧ f.stage = .done := by decide

/-- Every unit of the kindling order has started. -/
def powered (s : State) : State :=
  { s with hub := { s.hub with power := { s.hub.power with unitLevel := List.replicate 56 (some 0) } } }

theorem test_stores_are_due : ∀ l ∈ [Loc.spad 8, .hbm 0xFFF8],
    let s := powered (inFlight (.store l [1, 2]) .going)
    s.core.flightOf 3 = some (flying (.store l [1, 2]) .going) ∧ s.core.blocked (flying (.store l [1, 2]) .going) = false ∧
    s.hbmHeld l 2 3 = false ∧ s.hub.mustHold 0xFFF8 2 = false := by decide
/-- R246: the bytes of a store lie little-endian at its address, and its post is made. -/
theorem test_store_writes : (match exec (.storeAcknowledge 3) (inFlight (.store (.spad 8) [1, 2]) .going) with
    | .next t => (t.core.spad, t.core.posts.length)
    | _ => ([], 0)) = ([(8, 1), (9, 2)], 1) := by decide
theorem test_ordered_operations_and_waits :
    (∀ op ∈ [Op.ordLoad 1 (.hbm 8) 8 false, .ordStore (.hbm 8) [1]],
      let s := powered (inFlight op .away)
      s.core.flightOf 3 = some (flying op .away) ∧ (s.core.task.any fun k => k.wheel.contains 0) = false ∧
      ((s.updCore fun c => { c with task := c.task.map fun t => { t with wheel := [0] } }).core.task.any
        fun k => k.wheel.contains 0) = true ∧ s.hbmHeld (.hbm 8) 8 3 = false ∧ s.hub.mustHold 8 1 = false) ∧
    (let s := inFlight (.waita 1 8 0 0) .going
     s.core.flightOf 3 = some (flying (.waita 1 8 0 0) .going) ∧ s.core.erchk = false ∧ leNat (memRead s.core.spad 8 8) = 0 ∧
       (s.readLoc (.spad 8) 0 8).2 = []) ∧
    (let s := (inFlight (.waita 1 8 0 0) .going).updCore fun c => c.updSeq .ct fun v => { v with wd := 1024 }
     s.core.flightOf 3 = some (flying (.waita 1 8 0 0) .going) ∧ 1024 ≤ (s.core.seq .ct).wd) := by decide

/-- Every row of the local accesses and of those through a handle, and the accesses that stand alone. -/
theorem test_access_rows_execute :
    (∀ i ∈ [Instr.ldx sh ⟨1, 2, 3, false, -1⟩, .stx sh ⟨3, 2, 2, 1⟩, .vld lo ⟨5, 2, false, false, 0, 0⟩, .vst lo ⟨5, 2, 0⟩, .vldb lo ⟨5, 3, 2, 0⟩,
      .bxld lo ⟨3, 2⟩, .waita lo ⟨1, 2, 3, 15⟩], let s := atPad i 0x300000
      s.executes i = true ∧ (localRow s i).isSome = true ∧ (∀ q ∈ i.seqs.head?, s.core.yields q = false) ∧ s.core.tl < 2) ∧
    (∀ i ∈ [Instr.ldg lo ⟨1, 4, 2, 3, false, 0⟩, .ldgP lo ⟨1, 4, 2, 3, false, 1, 0⟩, .stg lo ⟨3, 4, 2, 3, 0⟩, .vldg lo ⟨5, 1, 4, 2, 0⟩,
      .vstg lo ⟨5, 4, 2, 0⟩, .ordld lo ⟨1, 4, 2, 3, false⟩, .ordst lo ⟨3, 4, 2, 3⟩, .pref lo ⟨4, 2⟩], let s := atPage false i 0xFFF9
      s.executes i = true ∧ (handleRow s i).isSome = true ∧ (∀ q ∈ i.seqs.head?, s.core.yields q = false) ∧ s.core.tl < 2) := by decide
/-- A poisoned vector, a pattern that is not there, and a decoded VLD of RAW, of a float as integers, and with a block where
the bank has none. -/
theorem test_vectors_and_patterns_are_wrong :
    (∀ i ∈ [Instr.vst lo ⟨5, 2, 0⟩, .vstg lo ⟨5, 4, 2, 0⟩], let s := demoX i [(2, 8)] [] fun c => { c with mrf := [(mrfKey 5 0, mrfCell 0 true)] }
      s.executes i = true ∧ physOp s.core.rbase 5 = 5) ∧
    (let i := Instr.vldb lo ⟨5, 3, 2, 0⟩
     (demoOf i).executes i = true ∧ AMap.get [] (demoOf i).core.bx 3 = []) ∧
    (∀ f ∈ [0, 8, 1], let i := Instr.vld lo ⟨5, 2, true, true, 1, 0⟩
      let s := demoX i [(2, 1)] [] fun c => { c with bf := [(0, BitVec.ofNat 32 f)] }
      s.executes i = true ∧ s.bad 2 = false ∧ s.src 2 < 2 ^ 22) := by decide
set_option maxRecDepth 4096 in
theorem test_a_vector_is_poisoned : (readVec [(mrfKey 5 0, mrfCell 0 true)] 5).poison ≠ 0 := by decide
/-- R414: PREF of a page of a multicast group. -/
theorem test_pref_of_a_group : let i := Instr.pref lo ⟨4, 2⟩
    let s := (atPage true i 0).updHub fun h =>
      { h with funcs := [(0, { Func.reset with dircnt := 1 })], hbm := memWrite h.hbm 0 (wordBytes (2 ^ 64 + 5 * 2 ^ 96 + 2 ^ 108) 16) }
    s.executes i = true ∧ (s.core.getH 4).remote = true ∧ s.hub.homeOf s.core.func ((s.core.getH 4).vaddr + s.src 2) = .group 5 := by decide
/-! Handles, synchronisation and fences. -/

/-- A page of 64 KiB at address 0 that is here, in the core's translation cache. -/
def page0 (sync : Bool) : Xl := ⟨true, true, 0, 0x3FF, sync, true, 0, 0x50000, [], 0, false⟩
def withPage (sync : Bool) (s : State) : State := s.updCore fun c => { c with tlb := [⟨0, 0, page0 sync⟩] }
theorem page_here (s : State) (sync : Bool) (va : Nat) (h1 : s.hub.homeOf s.core.func va = .own)
    (h2 : ((withPage sync s).translate va).1 = page0 sync) : PageHere (withPage sync s) va (page0 sync) :=
  ⟨h1, h2, rfl, by simp [page0], by simp [page0], rfl⟩

theorem test_handle_units_execute :
    ((demoX (.xlate lo ⟨4, 2⟩) [(2, 0xFFFF)]).executes (.xlate lo ⟨4, 2⟩) = true ∧ (demoX (.xlate lo ⟨4, 2⟩) [(2, 0xFFFF)]).bad 2 = false ∧
      (demoX (.xlate lo ⟨4, 2⟩) [(2, 0xFFFF)]).src 2 < 2 ^ 57) ∧
    (∀ i ∈ [Instr.hinv lo ⟨4, false⟩, .hinv lo ⟨0, true⟩, .hqry lo ⟨1, 4, 0⟩, .hqry lo ⟨1, 4, 1⟩, .hqry lo ⟨1, 4, 2⟩],
      (demoOf i).executes i = true) ∧
    (∀ b ∈ [false, true], (atPage b (.pgreq lo ⟨4, 2⟩) 0xFFFF).executes (.pgreq lo ⟨4, 2⟩) = true ∧
      (atPage b (.pgreq lo ⟨4, 2⟩) 0xFFFF).bad 2 = false ∧
      (let H := (atPage b (.pgreq lo ⟨4, 2⟩) 0xFFFF).core.getH 4
       H.valid = true ∧ 0xFFFF < H.size ∧ H.remote = b ∧ (b = true ∨ H.resident = true) ∧ H.denied = false)) := by decide
theorem test_handles_are_due :
    PageHere (withPage false (landing (.h 4 0xFFFF false))) 0xFFFF (page0 false) ∧
    PageHere (withPage false (powered (inFlight (.xlate 4 0xFFFF) .going))) 0xFFFF (page0 false) ∧
    (landing (.h 4 0xFFFF false)).core.completes ⟨3, false, 0, .ct, 0, [.h 4 0xFFFF false], 0x80⟩ = true ∧
    (powered (inFlight (.xlate 4 0xFFFF) .going)).core.flightOf 3 = some (flying (.xlate 4 0xFFFF) .going) ∧
    (withPage false (powered (inFlight (.xlate 4 0xFFFF) .going))).hub.stacksOpen = true ∧
    (let H : Hnd := ⟨3, 0, 0, false, 0xFFFF, none, false, []⟩
     H.miss = true ∧ H.va = 0xFFFF ∧ H.valid = true) ∧
    (inFlight (.pgreq 4 0 0) .done).core.flightOf 3 = some (flying (.pgreq 4 0 0) .done) ∧
    (inFlight (.hinv false 4 [9]) .going).core.flightOf 3 = some (flying (.hinv false 4 [9]) .going) ∧
    9 ∉ (inFlight (.hinv false 4 [9]) .going).core.handleUsers false 4 :=
  ⟨page_here _ _ _ (by decide) (by decide), page_here _ _ _ (by decide) (by decide), by decide, by decide, by decide, by decide, by decide, by decide,
    by decide⟩
/-- R242: XLATE of a resident page makes a valid handle of its physical base. -/
theorem test_xlate_lands : (match exec (.timedCompletion 3) (withPage false (landing (.h 4 0xFFFF false))) with
    | .next t => ((t.core.getH 4).valid, (t.core.getH 4).paddr)
    | _ => (false, 0)) = (true, 0x50000) := by decide

def syncUnits : List Instr := [.acqL lo ⟨2⟩, .acqG lo ⟨2, 3⟩, .relL lo ⟨2⟩, .relI lo ⟨2⟩, .sycas lo ⟨1, 2, 3, 4⟩, .syrd lo ⟨1, 2⟩, .unbind lo ⟨2, 3⟩,
  .bind lo ⟨2, 3, 4⟩]
theorem test_sync_units_execute : ∀ i ∈ syncUnits,
    let s := demoX i [(2, 0xFFF8), (3, 64), (4, 64)]
    (syncRow s i).isSome = true ∧ s.executes i = true ∧ ([2, 3, 4].all fun r => !s.bad r) = true ∧ s.src 2 % 8 = 0 ∧ s.src 2 < 2 ^ 57 ∧
      (demoX i [(2, 0xFFF9), (3, 64), (4, 64)]).src 2 % 8 ≠ 0 ∧ (demoX i [(3, 64), (4, 64)] [2]).bad 2 = true ∧
      (demoX i [(3, 64), (4, 64)] [2]).executes i = true ∧ s.core.yields .ct = false := by decide
/-- The first 64 KiB page of the space is homed at package 3 (R394). -/
def farHome (s : State) : State := s.updHub fun h =>
  { h with funcs := [(0, { Func.reset with dircnt := 1 })], hbm := memWrite h.hbm 0 (wordBytes (2 ^ 64 + 3 * 2 ^ 96) 16) }
theorem test_sync_objects_are_there :
    PageHere (withPage true (demoX (.relI lo ⟨2⟩) [(2, 0xFFF8)])) 0xFFF8 (page0 true) ∧ (page0 true).sync = true ∧
    (withPage true (demoX (.relI lo ⟨2⟩) [(2, 0xFFF8)])).executes (.relI lo ⟨2⟩) = true ∧
    (farHome (demoX (.relI lo ⟨2⟩) [(2, 0xFFF8)])).executes (.relI lo ⟨2⟩) = true ∧
    (farHome (demoX (.relI lo ⟨2⟩) [(2, 0xFFF8)])).hub.homeOf 0 0xFFF8 = .pkg 3 :=
  ⟨page_here _ _ _ (by decide) (by decide), rfl, by decide, by decide, by decide⟩

/-- An address beyond 57 bits, a page that is no SYNC page, an absent page, and a walk that meets a broken table; and what R273 asks of BIND. -/
theorem test_sync_operands_are_wrong : let i := Instr.relI lo ⟨2⟩
    (let s := demoX i [(2, 0x200000000000000)]
     s.executes i = true ∧ (s.core.yields .ct = false ∧ s.core.tl < 2) ∧ s.bad 2 = false ∧ s.src 2 % 8 = 0 ∧ 2 ^ 57 ≤ s.src 2) ∧
    (let s := withPage false (demoX i [(2, 0xFFF8)])
     s.executes i = true ∧ s.hub.homeOf s.core.func 0xFFF8 = .own ∧ (s.translate 0xFFF8).1 = page0 false) ∧
    (let s := demoX i [(2, 0x10000000000000)]
     s.executes i = true ∧ s.hub.homeOf s.core.func 0x10000000000000 = .own ∧ (s.translate 0x10000000000000).1.present = false ∧
       (s.hub.walk s.core.func 0x10000000000000).error = false) ∧
    (let s := (demoX i [(2, 8)]).updHub fun h => { h with funcs := [(0, { Func.reset with s1root := 1 })], hbm := [(0, 5)] }
     s.executes i = true ∧ s.hub.homeOf s.core.func 8 = .own ∧ (s.translate 8).1.present = false ∧ (s.hub.walk s.core.func 8).error = true) ∧
    (∀ x ∈ [(0x20, 64), (64, 0x20), (64, 0), (64, 0x1000000040)],
      (demoX (.bind lo ⟨2, 3, 4⟩) [(2, 8), (3, BitVec.ofNat 64 x.1), (4, BitVec.ofNat 64 x.2)]).executes (.bind lo ⟨2, 3, 4⟩) = true) := by decide
/-- A synchronisation operation that stands at the sync unit. -/
def atUnit (k : SyncKind) : State := powered (inFlight (.sync k (.hbm 8) 8 (some 1)) .away)
theorem test_sync_operations_are_due :
    (∀ k ∈ [SyncKind.acqL, .acqG 1, .relL, .relI, .sycas 0 5, .syrd], (atUnit k).core.flightOf 3 = some (flying (.sync k (.hbm 8) 8 (some 1)) .away) ∧
      (atUnit k).phase ≠ .hub ∧ wordKind k = true ∧ (atUnit k).core.writesPending 3 = false ∧ (atUnit k).hub.mustHold 8 8 = false ∧ (atUnit k).hub.hbmOpen 8 8 = true) ∧
    syncRule (.acqG 1) 0 = none ∧ syncRule .acqL 0 = some (some 1) ∧
    (∀ k ∈ [SyncKind.bind 64 64 0, .unbind 64], (atUnit k).core.flightOf 3 = some (flying (.sync k (.hbm 8) 8 (some 1)) .away)) ∧
    (inFlight (.sync .syrd (.hbm 8) 8 (some 1)) .done).core.flightOf 3 = some (flying (.sync .syrd (.hbm 8) 8 (some 1)) .done) ∧
    (inFlight (.sync .relI (.hbm 8) 8 none) .done).core.flightOf 3 = some (flying (.sync .relI (.hbm 8) 8 none) .done) := by decide
/-- R272: REL.I adds one to the object's word. -/
theorem test_reli_increments : (match exec (.syncOpPerform 3) (atUnit .relI) with
    | .next t => t.hub.hbm
    | _ => []) = [(8, 1)] := by decide
/-- R112: a release performs, in the same moment, the acquire that waits at its object. -/
def waited : State := (atUnit .relL).updHub fun h =>
  { h with hbm := [(8, 1)], syncWait := [⟨.packet ⟨1, 4, 0, 2, 0, [], 1, 0, 0, 8, 0, 0, 9, 0, false, 0, false, .sync .acqL⟩, .acqL, 8, 2, 0, 0, none, 0⟩] }
theorem test_release_performs_the_waiting_acquire :
    waited.core.flightOf 3 = some (flying (.sync .relL (.hbm 8) 8 (some 1)) .away) ∧ waited.core.writesPending 3 = false ∧
      waited.hub.mustHold 8 8 = false ∧ waited.hub.hbmOpen 8 8 = true ∧ BitVec.ofNat 64 (leNat (waited.hub.readHbm 8 8)) ≠ 0 ∧
    (match exec (.syncOpPerform 3) waited with
      | .next t => (t.hub.hbm, t.hub.syncWait.length, t.hub.out.map fun a => (a.dst, a.tag))
      | _ => ([], 9, [])) = ([(8, 1)], 0, [(2, 9)]) := by decide
/-- R114: a region that overlaps one bound at another object leaves for another home. -/
theorem test_a_binding_elsewhere_is_refused :
    (let f := flying (.sync (.bind 64 64 0) (.remote 3 8) 8 none) .commit
     let s := (inFlight f.op .commit).updHub fun h => { h with boundAway := [⟨16, 127, 64, 0, 0, 0, 0⟩] }
     s.core.flightOf f.id = some f ∧ f.due ≤ s.core.pulse ∧ s.core.func = 0) ∧
    (let f := { flying (.sync (.bind 64 64 0) (.remote 3 8) 8 none) .refused with data := [1] }
     let s := (inFlight f.op .refused).updCore fun c => { c with flight := [f] }
     s.core.flightOf f.id = some f ∧ f.due ≤ s.core.pulse ∧ f.data ≠ []) := by decide
/-- R274: a region is bound once; one that overlaps it is refused. -/
theorem test_bind_and_unbind : (match exec (.syncOpPerform 3) (atUnit (.bind 64 64 0)) with
    | .next t => t.hub.bound.length
    | _ => 0) = 1 ∧
    (match exec (.syncOpPerform 3) ((atUnit (.bind 64 64 0)).updHub fun h => { h with bound := [⟨16, 127, 64, 0, 0, 0, 0⟩] }) with
      | .next t => (t.hub.bound.length, t.core.pend.length)
      | _ => (0, 0)) = (1, 1) := by decide
/-- A stream of the SAE with one update of its word 2. -/
def stream : Stream := ⟨7, 0, .spad 8, 64, none, 0, 0, 1, 0, 0, none, 1, [(2, 5)], 0, none, 0x80, 0, 0, false, 0⟩
theorem test_fences_execute :
    (demoOf (.sadrain lo)).executes (.sadrain lo) = true ∧ (demoOf (.xfence lo ⟨1, 2⟩)).executes (.xfence lo ⟨1, 2⟩) = true ∧
    (let s := inFlight (.sadrain [7]) .going
     s.core.flightOf 3 = some (flying (.sadrain [7]) .going) ∧ s.core.sae = []) ∧
    (let s := (inFlight (.sadrain [7]) .going).updCore fun c => { c with sae := [stream] }
     s.core.flightOf 3 = some (flying (.sadrain [7]) .going) ∧ s.core.sae.any (fun x => x.id = 7) = true) ∧
    (let s := inFlight (.xfence 0 2 [9]) .going
     s.core.flightOf 3 = some (flying (.xfence 0 2 [9]) .going) ∧ 9 ∉ (s.core.pathUsers 0).map (·.1)) ∧
    (let s := (inFlight (.xfence 0 2 [9]) .going).updCore fun c =>
       { c with flight := c.flight ++ [{ flying (.store (.spad 0) []) .going with id := 9 }] }
     s.core.flightOf 3 = some (flying (.xfence 0 2 [9]) .going) ∧ 9 ∈ (s.core.pathUsers 0).map (·.1)) := by decide

/-! Regions, formats, copies, the SAE and the chain instructions. -/

def region : Region := ⟨1, 0, 0x40, List.replicate 16 0, [0, 0, 0], [false, false, false], [[], [], [], []], none⟩
def inRegions (n : Nat) (c : Core) : Core := { c with regions := List.replicate n region }
theorem test_regions_and_formats_execute :
    ((demoX (.crgnOpen lo ⟨1, 9⟩) [] [] (inRegions 3)).executes (.crgnOpen lo ⟨1, 9⟩) = true ∧
      (demoX (.crgnOpen lo ⟨1, 9⟩) [] [] (inRegions 3)).core.regions.length < 4) ∧
    ((demoX (.crgnOpen lo ⟨1, 9⟩) [] [] (inRegions 4)).executes (.crgnOpen lo ⟨1, 9⟩) = true ∧
      (demoX (.crgnOpen lo ⟨1, 9⟩) [] [] (atLevel 1)).executes (.crgnOpen lo ⟨1, 9⟩) = true) ∧
    (∀ i ∈ [Instr.crgnClose lo, .crgnAbort lo], (demoX i [] [] (inRegions 1)).executes i = true ∧ (demoX i [] [] (inRegions 1)).core.regions = [region] ∧
      (demoOf i).executes i = true ∧ (demoX i [] [] (atLevel 1)).executes i = true ∧ (demoX i [] [] (atLevel 1)).core.tl = 1) ∧
    (∀ i ∈ [Instr.rotb lo ⟨15⟩, .setrb lo ⟨15⟩, .cplv lo ⟨5, 2, 3, 4⟩, .bfmt lo ⟨23, 0x14C⟩, .bfmtr lo ⟨1, 2⟩], (demoOf i).executes i = true) ∧
    bfValid 0 = true ∧ bfValid 0xF = false := by decide

/-- X2 to X5 of a copy: 128 bytes from 0 to 0x2FFF80, with a flag at 8; and a staged command. -/
def copying (i : Instr) : State := demoX i [(2, 0x2FFF80), (3, 0), (4, 128), (5, 8), (6, 0x8000000400000000)] [] fun c =>
  { c with
    hnd := [(4, ⟨0x7FE1, 0, 0, true, 0, none, false, []⟩)]
    staged := some ⟨⟨.tmma, 0, 0, .spad 0, none, 0, 0, 0, 0, 0, 0, 0, .mx, 0, 0, 0, true, 0, .mx⟩⟩ }
theorem test_copies_execute : ∀ i ∈ [Instr.cpgo lo ⟨2, 3, 4, 0, 5, 0, true, true, false, false⟩, .cpgo lo ⟨2, 3, 4, 0, 5, 0, false, true, true, false⟩,
    .cpgo lo ⟨6, 3, 4, 0, 0, 0, false, false, false, false⟩, .cpgo lo ⟨2, 6, 4, 0, 0, 0, false, false, false, false⟩,
    .cpgo lo ⟨2, 3, 4, 0, 5, 0, true, true, false, true⟩,
    .cpacc lo ⟨2, 0, 0, 0, 0, true⟩],
    (copying i).executes i = true ∧ ((unitPfx i).arith.getD Arith.default).rm ≠ 5 := by decide
open Classical in
/-- Copies that pass every check: between scratchpads with a flag and a staged command, from a page, and to one. -/
theorem test_copies_are_allowed : ∀ x ∈ [(Instr.cpgo lo ⟨2, 3, 4, 0, 5, 0, true, true, false, true⟩, Cpgo.mk 2 3 4 0 5 0 true true false true),
    (.cpgo lo ⟨2, 6, 4, 0, 5, 0, false, false, true, false⟩, ⟨2, 6, 4, 0, 5, 0, false, false, true, false⟩),
    (.cpgo lo ⟨6, 3, 4, 0, 5, 0, false, false, false, false⟩, ⟨6, 3, 4, 0, 5, 0, false, false, false, false⟩)],
    let s := copying x.1
    Passes (cpgoChecks s x.2) ∧ EndInside s (s.src x.2.s) (fun l => l.ss.toInt) (s.levels 1) (fun _ => 128) ∧
      EndInside s (s.src x.2.d) (fun l => l.ds.toInt) (s.levels 1) (s.copyOut (s.src x.2.s) (s.src x.2.d) 128 (s.levels 1)) ∧ s.src 5 + 8 ≤ 0x300000 ∧
      PageThere s 4 ∧ nestCount (s.levels 1) = 1 ∧ burstOk (s.copyFormats (s.src x.2.s) (s.src x.2.d) (s.levels 1) 0).1
        (s.copyFormats (s.src x.2.s) (s.src x.2.d) (s.levels 1) 0).2 128 = true := by
  simp only [List.forall_mem_cons, List.not_mem_nil, false_imp_iff, implies_true, and_true, Passes, cpgoChecks, EndFields, EndInside, PageThere, NestFits]
  and_intros <;> decide
open Classical in
/-- A CPACC whose rows fit in the scratchpad (R263). -/
theorem test_acc_drains_fit : let o := Cpacc.mk 3 0 1 0 3 true
    let s := copying (.cpacc lo o)
    s.executes (.cpacc lo o) = true ∧ Passes (cpaccChecks s o) ∧ ∀ i ≤ 1, s.accRow o i + s.accOut o i ≤ 0x300000 ∧ AccTarget (s.accFormat o i) := by
  refine ⟨by decide, ?_, ?_⟩
  · simp only [Passes, cpaccChecks, List.forall_mem_cons, List.not_mem_nil, false_imp_iff, implies_true, and_true, EndFields]
    decide
  · unfold AccTarget; decide

/-- A command in the copy engine, and a machine that has it alone. -/
def command (kind : CmdKind) (timed ord : Bool) (start : Option Nat) (stage : Stage) (srcs dests : List (Loc × Nat)) (writes : List MemWrite) :
    EngineCmd :=
  { id := 3, q := .ld, pc := 0, kind := kind, timed := timed, ord := ord, arith := Arith.default, bf := [], seed := 1, pred := none, flag := none,
    staged := none, sig := 0x80, cls := 0, hs := [], acc := 0, start := start, due := 0, stage := stage, srcs := srcs, dests := dests, writes := writes, words := [],
    level := 0, quiet := false }
def engine (k : EngineCmd) : State := (demo false false .ct).updCore fun c => { c with cmds := [k], nextId := 4 }
theorem test_copy_events_are_due :
    (let k := command (.copy (.spad 0) (.spad 64) 8 8 [] false) true false none .going [(.spad 0, 8)] [(.spad 64, 8)] []
     (engine k).core.cmdOf 3 = some k ∧ (engine k).core.mayStart k 0 = true ∧ (k.run (engine k)).2 = none ∧ (engine k).core.erchk = false) ∧
    (let k := command (.copy (.spad 0) (.spad 64) 8 8 [] false) false true none .going [(.spad 0, 8)] [(.spad 64, 8)] []
     (engine k).core.cmdOf 3 = some k ∧ k.ord = true ∧ k.timed = false ∧ k.start = none ∧
       ∀ m ∈ (engine { k with pred := some 2 }).core.cmds, m.id ≠ 2) ∧
    (let k := { command (.copy (.spad 0) (.spad 64) 8 8 [] false) true false (some 0) .going [(.spad 0, 8)] [(.spad 64, 8)] [] with
        flag := some (.spad 8, 5) }
     (engine k).core.cmdOf 3 = some k ∧ 0 + k.due ≤ (engine k).core.cycle ∧ k.stage ≠ .done) ∧
    (let k := command (.copy (.spad 0) (.spad 64) 8 8 [] false) false false (some 0) .commit [(.spad 0, 8)] [(.spad 64, 8)] [⟨.spad 64, [1, 2], []⟩]
     (engine k).core.cmdOf 3 = some k ∧ k.due ≤ (engine k).core.pulse) := by decide
/-- A timed copy that has completed in this cycle, its flag inside its destination; and an untimed one that may read. -/
def over1 : EngineCmd :=
  { command (.copy (.spad 0) (.spad 64) 2 2 [] false) true false (some 0) .done [(.spad 0, 2)] [(.spad 64, 2)] [⟨.spad 64, [1, 2], []⟩] with
    flag := some (.spad 64, 5) }
theorem test_copies_land_and_read :
    ((engine over1).core.landing = [over1] ∧ over1.timed = true ∧ over1.flagInside = true ∧ over1.writes = [⟨.spad 64, [1, 2], []⟩]) ∧
    (let k := command (.copy (.spad 0) (.spad 64) 8 8 [] false) false false none .going [(.spad 0, 8)] [(.spad 64, 8)] []
     (engine k).core.cmdOf 3 = some k ∧ k.stage = .going ∧ (engine k).core.cmdBlocked k = false ∧ (engine k).cmdHeld k = false ∧
       (engine k).engineServed k k.srcs = true ∧ (engine k).engineServed k k.dests = true ∧ (k.run (engine k)).2 = none) := by decide
/-- R414: the first page belongs to multicast group 5. -/
def inGroup (s : State) : State := s.updHub fun h =>
  { h with funcs := [(0, { Func.reset with dircnt := 1 })], hbm := memWrite h.hbm 0 (wordBytes (2 ^ 64 + 5 * 2 ^ 96 + 2 ^ 108) 16) }
theorem test_remote_copies_are_due :
    (let k := command (.copy (.remote 3 0) (.spad 64) 8 8 [] false) false false none .going [(.remote 3 0, 8)] [(.spad 64, 8)] []
     (engine k).core.cmdOf 3 = some k ∧ (engine k).core.cmdBlocked k = false ∧ (engine k).cmdHeld k = false ∧
       (engine k).engineServed k k.srcs = true ∧ (farHome (engine k)).hub.homeOf (farHome (engine k)).core.func 0 = .pkg 3) ∧
    (let k := command (.copy (.spad 64) (.remote 3 0) 8 8 [] false) false false none .commit [(.spad 64, 8)] [(.remote 3 0, 8)] [⟨.remote 3 0, [1], []⟩]
     (engine k).core.cmdOf 3 = some k ∧ k.due ≤ (engine k).core.pulse ∧
       (farHome (engine k)).hub.homeOf (farHome (engine k)).core.func 0 = .pkg 3 ∧
       (inGroup (engine k)).hub.homeOf (inGroup (engine k)).core.func 0 = .group 5) := by decide
/-- Two bursts, the second over what the first wrote, and formats that convert. -/
theorem test_bursts_run :
    (let k := command (.copy (.spad 0) (.spad 8) 8 8 [] false) false false none .going [] [] []
     (runBursts k [((.spad 0, 8), (.spad 8, 8)), ((.spad 8, 8), (.spad 16, 8))] 1 (engine k)).2 = none) ∧
    converts 1 5 = true ∧ converts 5 1 = true ∧ unitElems 1 = 1 ∧ elemBytes 5 = 4 ∧ Arith.default.rm ≠ 5 := by decide
theorem test_integer_formats_are_dense : denseInt 1 ∧ denseInt 5 := by unfold denseInt; decide
/-- R86: INT32 300 becomes INT8 44 modulo 256, and 127 under SAT. -/
theorem test_a_conversion_narrows : (burstOut 5 1 Arith.default 1 [0x2C, 1, 0, 0] []).1 = [44] ∧
    (burstOut 5 1 { Arith.default with sat := true } 1 [0x2C, 1, 0, 0] []).1 = [127] := by decide
theorem test_acc_words_are_read : let k := command (.acc (.spad 0) 0 1 0 1 true) true false (some 0) .going [] [] []
    k ∈ ({ (engine k).core with cycle := 1 } : Core).cmds ∧ 0 < 1 ∧ 1 - 0 - 1 < 1 * 1 ∧ 0 + k.due ≤ (engine k).core.cycle ∧ (engine k).core.cmdOf 3 = some k := by decide
/-- A second core, of the same gang. -/
def ganged : State :=
  let s := demo false false .ct
  { s with parked := [{ s.core with core := 1, task := s.core.task.map fun k => { k with rank := 1 } }] }
theorem test_gang_cores_are_written : GangCore ganged (clusterRanks 1 0) { ganged.core with core := 1, task := ganged.core.task.map fun k => { k with rank := 1 } } ∧
    ganged.core.task.isSome = true ∧ (clusterRanks 1 0 = [1]) ∧ ganged.hub.mustHold 8 2 = false :=
  ⟨⟨_, _, rfl, rfl, by decide, by decide⟩, by decide, by decide, by decide⟩
/-- R109: a flag word inside the destination comes after the payload. -/
theorem test_flag_comes_last : memRead (engine over1).landTimed.core.spad 64 2 = [5, 0] := by decide
/-- R261: an untimed copy writes its bytes and posts. -/
theorem test_copy_completes : (match exec (.copyComplete 3) (engine (command (.copy (.spad 0) (.spad 64) 2 2 [] false) false false (some 0) .commit
      [(.spad 0, 2)] [(.spad 64, 2)] [⟨.spad 64, [1, 2], []⟩])) with
    | .next t => (t.core.spad, t.core.posts.length, t.core.cmds.length)
    | _ => ([], 0, 0)) = ([(64, 1), (65, 2)], 1, 0) := by decide
theorem test_fsig_is_due :
    (demoX (.fsig lo ⟨2, 3⟩) [(2, 8)] [3]).executes (.fsig lo ⟨2, 3⟩) = true ∧ (demoX (.fsig lo ⟨2, 3⟩) [(2, 8)] [3]).bad 3 = true ∧
    (∀ w ∈ [0x2FFFF8, 0x20000000000, 0x2A000000, 4, 0x300000], (demoX (.fsig lo ⟨2, 3⟩) [(2, BitVec.ofNat 64 w), (3, 7)]).executes (.fsig lo ⟨2, 3⟩) = true) ∧
    (let k := command (.fsig 8 7) false false none .going [] [] []
     (engine k).core.cmdOf 3 = some k ∧ ∀ m ∈ (engine k).core.cmds, 3 ≤ m.id) ∧
    (let k := command (.fsig 8 7) false false none .commit [] [] []
     (engine k).core.cmdOf 3 = some k ∧ k.due ≤ (engine k).core.pulse ∧ (8 : Word).toNat / 2 ^ 31 % 1024 = (engine k).hub.pkg ∧
       (8 : Word).toNat / 2 ^ 22 % 512 = (engine k).core.id ∧ (engine k).coreAt 0 = some (engine k).core ∧
       (engine k).core.status ≠ .killed ∧ (engine k).core.task.map (·.tenant) = some (engine k).core.tenant) ∧
    (let k := command (.fsig 0x800000 7) false false none .commit [] [] []
     (engine k).core.cmdOf 3 = some k ∧ (0x800000 : Word).toNat / 2 ^ 22 % 512 = 2 ∧ (engine k).coreAt 2 = none) ∧
    (let k := command (.fsig 0x80000008 7) false false none .done [] [] []
     (engine k).core.cmdOf 3 = some k ∧ k.due ≤ (engine k).core.pulse) := by decide
theorem test_tenants_run : RunsTenant (engine (command (.fsig 8 7) false false none .commit [] [] [])) 0 0 ∧
    ¬ RunsTenant (engine (command (.fsig 0x800000 7) false false none .commit [] [] [])) 2 0 :=
  ⟨⟨(engine (command (.fsig 8 7) false false none .commit [] [] [])).core, placedTask { placedImage with portable := false, copyDriven := false },
    by decide, by decide, by decide, by decide⟩, fun ⟨_, _, h, _⟩ =>
    nomatch (show (engine (command (.fsig 0x800000 7) false false none .commit [] [] [])).coreAt 2 = none by decide).symm.trans h⟩
open Classical in
theorem test_saq_is_allowed : ∀ b ∈ [(2 : BitVec 5), 6], ∀ n ∈ [0, 3], let o := Saq.mk b 3 4 5 0 0
    let s := demoX (.saq lo o) [(2, 64), (3, 0), (4, 8), (5, BitVec.ofNat 64 n), (6, 0x8000000400000000)] [] fun c =>
      { c with hnd := [(4, ⟨0x7FE1, 0, 0, true, 0, none, false, []⟩)] }
    s.executes (.saq lo o) = true ∧ Passes (saqChecks s o) ∧ s.src 5 = n := by
  simp only [List.forall_mem_cons, List.not_mem_nil, false_imp_iff, implies_true, and_true, Passes, saqChecks, EndFields]
  and_intros <;> decide
/-- A window of three entries of which two name one word, updates that are applied to HBM, and a stream that ends with a fault. -/
theorem test_windows_are_due :
    (let x : Stream := { stream with n := 3, next := 0, updates := [], vals := 64 }
     let s := (demo false false .st).updCore fun c => { c with sae := [x], spad := [(4, 1)] }
     x.due ≤ s.core.pulse ∧ x.next < x.n ∧ s.core.erchk = false ∧ x.marked s.core 0 3 = none ∧ ([0, 1, 2].all (x.inside s)) = true) ∧
    (let s := powered ((demo false false .st).updCore fun c => { c with sae := [{ stream with target := .hbm 8 }] })
     s.hbmHeld (.hbm 16) 4 7 = false ∧ s.hub.mustHold 16 4 = false ∧ (s.readLoc (.hbm 16) 0 4).2 = [] ∧ stream.held s.core.pulse = false ∧
       ({ stream with target := .hbm 8 } : Stream).held s.core.pulse = false) ∧
    (let x : Stream := { stream with fault := some 1 }
     let s := (demo false false .st).updCore fun c => { c with sae := [x] }
     x.updates = [(2, 5)] ∧ s.core.sae = [x] ∧ x.fault = some 1 ∧ s.hbmHeld (.spad 16) 4 7 = false) := by decide
theorem test_saq_is_due :
    (∀ n ∈ [0, 3], let s := demoX (.saq lo ⟨2, 3, 4, 5, 0, 0⟩) [(2, 64), (3, 0), (4, 8), (5, BitVec.ofNat 64 n)]
      s.executes (.saq lo ⟨2, 3, 4, 5, 0, 0⟩) = true ∧ ([2, 3, 4, 5].any s.bad) = false ∧ s.src 5 = n ∧ s.src 3 % 4 = 0 ∧ s.src 4 % saeBytes 0 = 0) ∧
    (let s := (demo false false .st).updCore fun c => { c with sae := [stream] }
     s.core.sae = [stream] ∧ stream.due ≤ s.core.pulse ∧ s.core.erchk = false ∧ (s.readLoc (.spad 16) 0 4).2 = [] ∧ stream.next = stream.n) := by decide
/-- R267: an add of i32 wraps at 32 bits. -/
theorem test_sae_add_wraps : (match exec (.saeUpdateApply 7) ((demo false false .st).updCore fun c =>
      { c with sae := [stream], spad := memWrite [] 16 [0xFF, 0xFF, 0xFF, 0xFF] }) with
    | .next t => (t.core.spad, t.core.sae.length)
    | _ => ([], 9)) = ([(16, 4)], 0) := by decide

/-- A task of a chain entry that has a slot of every kind, in a chain whose neighbours take 4 KiB. -/
def chained (i : Instr) : State :=
  let s := demoX i [(2, 0), (4, 128)] [] fun c => { c with task := c.task.map fun t => { t with chain := some ⟨some 1, some 0, some 0, some 0, some 0, some 0⟩ } }
  s.updHub fun h => { h with chain := { h.chain with upHello := some ⟨1, false, 0, 1, 0, 4096⟩, downHello := some ⟨2, true, 0, 1, 0, 4096⟩ } }
theorem test_chain_units_execute :
    (∀ i ∈ [Instr.cstash lo ⟨1, 0⟩, .cstash lo ⟨1, 1⟩, .cstash lo ⟨1, 2⟩, .cunstash lo ⟨1⟩, .cfree lo ⟨false⟩, .cfree lo ⟨true⟩],
      (chained i).executes i = true ∧ (chained i).core.chainCtx = some ⟨some 1, some 0, some 0, some 0, some 0, some 0⟩ ∧
        (chained i).hub.chain.freedAct = false ∧ (chained i).hub.chain.freedGrad = false) ∧
    (∀ b ∈ [false, true], (chained (.csend lo ⟨2, 4, 0, b⟩)).executes (.csend lo ⟨2, 4, 0, b⟩) = true ∧
      sendSlot (chained (.csend lo ⟨2, 4, 0, b⟩)).hub ⟨some 1, some 0, some 0, some 0, some 0, some 0⟩ b = some (0, 4096)) ∧
    (inFlight (.cfree true 0) .commit).core.flightOf 3 = some (flying (.cfree true 0) .commit) ∧
    (let k := command (.send true (.spad 0) 0 128 []) false false (some 0) .done [(.spad 0, 128)] [(.absent, 128)] []
     (engine k).core.cmdOf 3 = some k) := by decide
theorem test_chain_sends_fit :
    let s := chained (.csend lo ⟨2, 4, 0, true⟩)
    s.bad 2 = false ∧ s.bad 4 = false ∧ NestFits 128 (s.levels 1) ∧ endKind (s.src 2) = 0 ∧ EndFields (s.src 2) true ∧
      EndInside s (s.src 2) (fun l => l.ss.toInt) (s.levels 1) (fun _ => 128) ∧
      ∀ j < nestCount (s.levels 1), 0 ≤ nestOffset (fun l => l.ds.toInt) (s.levels 1) j ∧ nestOffset (fun l => l.ds.toInt) (s.levels 1) j + 128 ≤ 4096 := by
  simp only [NestFits, EndFields, EndInside]
  and_intros <;> decide

/-- The copy of `copying`, with other registers, poisoned ones, or another core. -/
def miscopying (i : Instr) (xs : List (BitVec 5 × Word)) (bad : List (BitVec 5)) (f : Core → Core) : State :=
  (copying i).updCore fun c => f (c.updSeq (i.seqs.headD .ct) fun v => bad.foldl (fun v r => v.setX r (v.getX r) true)
    (xs.foldl (fun v r => v.setX r.1 r.2 false) v))
def noRights (c : Core) : Core := { c with hnd := [(4, ⟨0x1, 0, 0, true, 0, none, false, []⟩)] }
open Classical in
/-- Copies that fail one check each: poison, fields, a timed end behind a handle, no bursts, nothing staged, a rank outside the gang, no
handle, no right, a misaligned flag word. -/
theorem test_copies_are_refused : let o := Cpgo.mk 2 3 4 0 5 0 true true false true
    ∀ s ∈ [miscopying (.cpgo lo o) [] [3] id, miscopying (.cpgo lo o) [] [2] id, miscopying (.cpgo lo o) [] [4] id, miscopying (.cpgo lo o) [] [5] id,
      miscopying (.cpgo lo o) [(3, 0x400000)] [] id, miscopying (.cpgo lo o) [(2, 0x400000)] [] id, miscopying (.cpgo lo o) [(5, 0x400000)] [] id,
      miscopying (.cpgo lo o) [(3, 0x8000000400000000)] [] id, miscopying (.cpgo lo o) [(4, 0)] [] id,
      miscopying (.cpgo lo o) [] [] fun c => { c with staged := none }, miscopying (.cpgo lo o) [(5, 4)] [] id],
      s.executes (.cpgo lo o) = true ∧ (s.core.yields .ld = false ∧ s.core.tl < 2) ∧ ¬ Passes (cpgoChecks s o) := by
  simp only [List.forall_mem_cons, List.not_mem_nil, false_imp_iff, implies_true, and_true, Passes, cpgoChecks, EndFields, NestFits]
  and_intros <;> decide
open Classical in
theorem test_copies_through_handles_are_refused : let o := Cpgo.mk 2 3 4 0 5 0 false true false false
    ∀ s ∈ [miscopying (.cpgo lo o) [(3, 0x8000000500000000)] [] id, miscopying (.cpgo lo o) [(2, 0x8000000500000000)] [] id,
      miscopying (.cpgo lo o) [(3, 0x8000000400000000)] [] noRights, miscopying (.cpgo lo o) [(2, 0x8000000400000000)] [] noRights],
      s.executes (.cpgo lo o) = true ∧ (s.core.yields .ld = false ∧ s.core.tl < 2) ∧ ¬ Passes (cpgoChecks s o) := by
  simp only [List.forall_mem_cons, List.not_mem_nil, false_imp_iff, implies_true, and_true, Passes, cpgoChecks, EndFields, NestFits]
  and_intros <;> decide
open Classical in
/-- A copy one byte too long for its source, and one whose page is not there. -/
theorem test_copies_end_outside : let o := Cpgo.mk 2 3 4 0 0 0 false false false false
    (let s := miscopying (.cpgo lo o) [(3, 0x2FFF81)] [] id
     s.executes (.cpgo lo o) = true ∧ Passes (cpgoChecks s o) ∧ ¬ EndInside s (s.src 3) (fun l => l.ss.toInt) (s.levels 1) (fun _ => 128)) ∧
    (let s := miscopying (.cpgo lo o) [(3, 0x8000000400000000)] [] fun c => { c with hnd := [(4, ⟨0x7FE1, 0, 0, false, 0, none, false, []⟩)] }
     s.executes (.cpgo lo o) = true ∧ Passes (cpgoChecks s o) ∧ EndInside s (s.src 3) (fun l => l.ss.toInt) (s.levels 1) (fun _ => 128) ∧
       EndInside s (s.src 2) (fun l => l.ds.toInt) (s.levels 1) (s.copyOut (s.src 3) (s.src 2) 128 (s.levels 1)) ∧ ¬ PageThere s 4) := by
  simp only [List.forall_mem_cons, List.not_mem_nil, false_imp_iff, implies_true, and_true, Passes, cpgoChecks, EndFields, NestFits, EndInside, PageThere]
  and_intros <;> decide
open Classical in
theorem test_drains_and_streams_are_refused :
    (let o := Cpacc.mk 3 0 1 0 3 true
     ∀ s ∈ [miscopying (.cpacc lo o) [] [3] id, miscopying (.cpacc lo o) [(3, 0x8000000400000000)] [] id], s.executes (.cpacc lo o) = true ∧
       (s.core.yields .st = false ∧ s.core.tl < 2) ∧ ¬ Passes (cpaccChecks s o)) ∧
    (let o := Cpacc.mk 3 0 1 0 3 true
     let s := miscopying (.cpacc lo o) [(3, 0x2FFD01)] [] id
     s.executes (.cpacc lo o) = true ∧ Passes (cpaccChecks s o) ∧ ¬ s.accRow o 1 + s.accOut o 1 ≤ 0x300000) ∧
    (let o := Saq.mk 3 5 5 5 0 0
     ∀ s ∈ [miscopying (.saq lo o) [] [3] id, miscopying (.saq lo o) [(3, 0x4000000000000000)] [] id, miscopying (.saq lo o) [(5, 0x1000001)] [] id,
       miscopying (.saq lo o) [(5, 6)] [] id, miscopying (.saq lo o) [(3, 0x8000000500000000)] [] id, miscopying (.saq lo o) [(3, 0x8000000400000000)] [] noRights],
       s.executes (.saq lo o) = true ∧ (s.core.yields .st = false ∧ s.core.tl < 2) ∧ ¬ Passes (saqChecks s o)) := by
  simp only [List.forall_mem_cons, List.not_mem_nil, false_imp_iff, implies_true, and_true, Passes, cpaccChecks, saqChecks, EndFields]
  and_intros <;> decide
/-! The flow row and the portable forms. -/

theorem test_injections_execute :
    (∀ i ∈ [Instr.vrd lo ⟨0, 3, 5⟩, .vbcast lo ⟨0, 2, 0, 0, 0, 0, 0, 4⟩, .viota lo ⟨0, 2, 0, 0, 0, 0, 0, 255⟩, .vwr lo ⟨15, 3, 5, false, 0⟩,
      .vwr lo ⟨15, 3, 5, true, 2⟩], (demoOf i).executes i = true ∧ (demoOf i).core.udchk = false) ∧
    ((demoOf (.vrd lo ⟨0, 3, 5⟩)).core.reserve .read 5 0).1 = 0 ∧
    (let c := (demoX (.vrd lo ⟨0, 3, 5⟩) [] [] fun c =>
      { c with ports := [⟨.read, 0, 0, 0, 3⟩, ⟨.read, 0, 1, 0, 3⟩] }).core
     (c.reserve .read 5 0).1 ≠ 0) := by decide

def slots : List Instr := [.vadd lo ⟨2, 1, 0, 0, 0, 0, 0, 0⟩, .vsub lo ⟨2, 1, 0, 0, 0, 0, 0, 0⟩, .vmul lo ⟨1, 1, 0, 0, 0, 0, 0, 0⟩,
  .vfma lo ⟨1, 1, 0, 0, 0, 3, 0, 0⟩, .vmin lo ⟨2, 1, 0, 0, 0, 0, 0, 0⟩, .vmax lo ⟨2, 1, 0, 0, 0, 0, 0, 0⟩, .vabs lo ⟨2, 1, 0, 0, 0, 0, 0, 0⟩,
  .vneg lo ⟨2, 1, 0, 0, 0, 0, 0, 0⟩, .vand lo ⟨2, 1, 0, 0, 0, 0, 0, 0⟩, .vor lo ⟨2, 1, 0, 0, 0, 0, 0, 0⟩, .vxor lo ⟨2, 1, 0, 0, 0, 0, 0, 0⟩,
  .vnot lo ⟨2, 1, 0, 0, 0, 0, 0, 0⟩, .vshl lo ⟨2, 1, 0, 0, 0, 0, 0, 0⟩, .vshr lo ⟨2, 1, 0, 0, 0, 0, 0, 0⟩, .vsha lo ⟨2, 1, 0, 0, 0, 0, 0, 0⟩]
def moreSlots : List Instr := [.vcmp lo ⟨2, 1, 0, 0, 0, 0, 0, 0⟩, .vsel lo ⟨2, 1, 0, 0, 0, 0, 0, 0⟩, .vcvt lo ⟨2, 1, 0, 0, 0, 0, 0, 0⟩,
  .vclmp lo ⟨2, 1, 0, 0, 0, 0, 0, 0⟩, .vscale lo ⟨2, 1, 0, 0, 0, 2, 0, 0⟩, .vqnt lo ⟨2, 1, 0, 0, 0, 3, 0, 0⟩, .vexp2 lo ⟨13, 1, 0, 0, 0, 3, 0, 0⟩,
  .vlog2 lo ⟨13, 1, 0, 0, 0, 3, 0, 0⟩, .vrcp lo ⟨13, 1, 0, 0, 0, 3, 0, 0⟩, .vrsq lo ⟨13, 1, 0, 0, 0, 3, 0, 0⟩, .vtanh lo ⟨13, 1, 0, 0, 0, 3, 0, 0⟩,
  .vsumr lo ⟨13, 1, 0, 0, 0, 2, 0, 0⟩, .vperm lo ⟨13, 1, 0, 0, 0, 2, 0, 0⟩]
theorem test_slots_execute : (∀ i ∈ slots, (slotRow i).isSome = true ∧ (demoOf i).executes i = true ∧ slotWorks (demoOf i).core.map 2 = true) ∧
    ∀ i ∈ moreSlots, (slotRow i).isSome = true ∧ (demoOf i).executes i = true := by decide
/-- R188 and R38: a dead slot, and a slot that was used in this cycle. -/
theorem test_dead_and_busy_slots : let i := Instr.vadd lo ⟨2, 1, 0, 0, 0, 0, 0, 0⟩
    (let s := demoX i [] [] fun c => { c with map := { c.map with dead := [2] } }
     slotWorks s.core.map 2 = false ∧ s.executes i = true) ∧
    (let s := demoX i [] [] fun c => { c with slotLast := [(2, 0)] }
     s.executes i = true ∧ s.core.slotLast.find? (fun x => x.1 = 2) = some (2, 0) ∧ s.core.cycle < 0 + s.core.map.ii.getD 1 1) := by decide
/-- R190 and R36: VADD of two EMPTY positions gives poison in every cell, after the slot's one cycle. -/
theorem test_vadd_of_empty : (match exec (.vadd lo ⟨2, 1, 0, 0, 0, 0, 0, 0⟩) (demoOf (.vadd lo ⟨2, 1, 0, 0, 0, 0, 0, 0⟩)) with
    | .next t => t.core.slotRes.map fun r => (r.due, r.flow, r.v.poison.toNat)
    | _ => []) = [(1, 1, 0xFFFFFFFF)] := by decide

theorem test_lane_rules_apply : intKind .vadd = true ∧ Fmt.i8.isFloat = false ∧ Arith.default.sat = false ∧ Fmt.i32.isFloat = false ∧
    Fmt.i32.width = 32 ∧ minorLow 1 = true ∧ (5 : BitVec 9).toNat % 8 ≤ 5 ∧ Fmt.f32.isFloat = true ∧ 0x3F800000 < 2 ^ Fmt.f32.width ∧
    (numOf .f32 0x3F800000).isNan = false ∧ Arith.default.ftz = false := by decide
/-- R197: int8 lanes wrap: 127 + 1 is -128. -/
theorem test_int8_wraps : intRule .vadd false 0 .i8 127 1 0 = 128 ∧ intRule .vmin false 0 .i8 128 1 0 = 128 ∧ intRule .vshr false 0 .i8 128 9 0 = 64 := by
  decide

def forms : List Instr := [.vaddP lo ⟨0, 0, 3, 1, 2⟩, .vsubP lo ⟨0, 0, 3, 1, 2⟩, .vmulP lo ⟨0, 0, 3, 1, 2⟩, .vfmaP lo ⟨3, 0, 3, 1, 2⟩, .vminP lo ⟨0, 0, 3, 1, 2⟩,
  .vmaxP lo ⟨0, 0, 3, 1, 2⟩, .vabsP lo ⟨0, 0, 3, 1, 0⟩, .vnegP lo ⟨0, 0, 3, 1, 0⟩, .vandP lo ⟨0, 0, 3, 1, 2⟩, .vorP lo ⟨0, 0, 3, 1, 2⟩]
def forms2 : List Instr := [.vxorP lo ⟨0, 0, 3, 1, 2⟩, .vnotP lo ⟨0, 0, 3, 1, 0⟩, .vshlP lo ⟨0, 0, 3, 1, 2⟩, .vshrP lo ⟨0, 0, 3, 1, 2⟩,
  .vshaP lo ⟨0, 0, 3, 1, 2⟩, .vcmpP lo ⟨0, 0, 3, 1, 2⟩, .vselP lo ⟨0, 0, 3, 1, 2⟩, .vcvtP lo ⟨0, 0, 3, 1, 0⟩, .vclmpP lo ⟨0, 0, 3, 1, 2⟩]
def forms3 : List Instr := [.vscaleP lo ⟨2, 0, 3, 1, 2⟩, .vqntP lo ⟨3, 0, 3, 1, 0⟩, .vexp2P lo ⟨3, 0, 3, 1, 0⟩, .vlog2P lo ⟨3, 0, 3, 1, 0⟩,
  .vrcpP lo ⟨3, 0, 3, 1, 0⟩, .vrsqP lo ⟨3, 0, 3, 1, 0⟩, .vtanhP lo ⟨3, 0, 3, 1, 0⟩, .vsumrP lo ⟨2, 0, 3, 1, 0⟩, .vpermP lo ⟨2, 0, 3, 1, 2⟩]
theorem test_forms_execute : ∀ i ∈ forms, (formRow' i).any (fun x => (formSlot (demoOf i).core x.1).isSome) = true ∧ (demoOf i).executes i = true := by
  decide
theorem test_more_forms_execute : ∀ i ∈ forms2, (formRow' i).any (fun x => (formSlot (demoOf i).core x.1).isSome) = true ∧ (demoOf i).executes i = true := by
  decide
theorem test_float_forms_execute : ∀ i ∈ forms3, (formRow' i).any (fun x => (formSlot (demoOf i).core x.1).isSome) = true ∧ (demoOf i).executes i = true := by
  decide
theorem test_moving_forms_execute : ∀ i ∈ [Instr.vmovdP lo ⟨0, 0, 3, 1, 0⟩, .vbcastP lo ⟨0, 0, 3, 1, 0⟩, .viotaP lo ⟨0, 0, 3, 0, 0⟩],
    (demoOf i).executes i = true := by decide

theorem test_timed_results_are_due :
    (let s := (demo false false .mx).updCore fun c => { c with slotRes := [⟨3, 0, 2, 1, Vec.zero, true, 0⟩], nextId := 4 }
     s.core.slotRes.find? (fun x => x.id = 3) = some ⟨3, 0, 2, 1, Vec.zero, true, 0⟩ ∧ s.core.cycle = 0) ∧
    (let s := (demo false false .mx).updCore fun c => { c with lateReads := [⟨3, 0, 1, 5, 2⟩], nextId := 4 }
     s.core.lateReads.find? (fun x => x.id = 3) = some ⟨3, 0, 1, 5, 2⟩ ∧ s.core.cycle = 0) ∧
    (∀ w ∈ [[RegWrite.x .ct 1 5 false], [.p .ct 2 1], []], (let s := (demo false false .ct).updCore fun c => { c with done := [⟨3, false, 0, .ct, 0, w, 0⟩] }
     s.core.done.find? (fun x => x.id = 3) = some ⟨3, false, 0, .ct, 0, w, 0⟩ ∧ s.core.completes ⟨3, false, 0, .ct, 0, w, 0⟩ = true)) := by decide

/-! The matrix array and the accumulators. -/

/-- Operands in the scratchpad: A from 0 on in bank 0, B from 0x20000 on in bank 1, both INT8, one element each. -/
def matrix (i : Instr) : State := demoX i [(2, 0x20000)] [] fun c => { c with bf := [(0, 1), (1, 1)] }
theorem plain_operands (i : Instr) (h : i = .tmma lo ⟨1, 2, 3, 0, 0⟩ ∨ i = .tdist lo ⟨1, 2, 3, 0, 0⟩) :
    PlainOperands (matrix i) ⟨1, 2, 3, 0, 0⟩ := by
  rcases h with rfl | rfl <;> constructor <;> decide
theorem test_array_units_execute : (∀ i ∈ [Instr.tmma lo ⟨1, 2, 3, 0, 0⟩, .tmms lo ⟨1, 2, 3, 0, 0⟩, .tdist lo ⟨1, 2, 3, 0, 0⟩],
      (matRow i).isSome = true ∧ (matrix i).executes i = true) ∧
    (matrix (.mxstage lo ⟨1, 2, 3, 0, 0, 0⟩)).executes (.mxstage lo ⟨1, 2, 3, 0, 0, 0⟩) = true ∧
    (matrix (.mxstage lo ⟨1, 2, 3, 0, 0, 0⟩)).core.staged = none := by decide
theorem test_array_operands_pass :
    (match (matrix (.tmma lo ⟨1, 2, 3, 0, 0⟩)).latched (.tmma lo ⟨1, 2, 3, 0, 0⟩) .tmma 1 2 3 0 0 false with
      | .ok c => decide (c.a = .spad 0 ∧ c.b = some (.spad 0x20000) ∧ (matrix (.tmma lo ⟨1, 2, 3, 0, 0⟩)).core.arrBusy ≤ 0)
      | .error _ => false) = true ∧
    (match (matrix (.tmma lo ⟨1, 2, 3, 0, 0⟩)).latched (.tmma lo ⟨1, 2, 3, 0, 0⟩) .tmma 1 2 3 2047 0 false with
      | .ok _ => true
      | .error _ => false) = true ∧
    (match (matrix (.mxstage lo ⟨1, 2, 3, 0, 0, 0⟩)).latched (.mxstage lo ⟨1, 2, 3, 0, 0, 0⟩) .tmma 1 2 3 0 0 true with
      | .ok c => c.staged
      | .error _ => false) = true := by decide
theorem test_array_operands_refused :
    (match (demoX (.tmma lo ⟨1, 2, 3, 0, 0⟩) [] [1]).latched (.tmma lo ⟨1, 2, 3, 0, 0⟩) .tmma 1 2 3 0 0 false with
      | .ok _ => false
      | .error e => decide (e.cause = 0x30)) = true ∧ (demoX (.tmma lo ⟨1, 2, 3, 0, 0⟩) [] [1]).executes (.tmma lo ⟨1, 2, 3, 0, 0⟩) = true := by decide

def arrCmd : ArrCmd := ⟨.tmma, 0, 0x20000, .spad 0, some (.spad 0x20000), 0, 5, 1, 1, 1, 0xFFFFFFFF, 0, .mx, 0, 0, 0, false, 0x80, .mx⟩
/-- An array instruction of one row, one column and one element, whose operands have been fetched. -/
def arrOp : ArrOp := ⟨3, 0, 0, 1, 0, arrCmd, some ⟨.tmma, 1, 1, 1, [[some { Elem.zero with int := 3 }]]⟩, [(0, [{ Elem.zero with int := -2 }])], none, none, false⟩
def arraying : State := (demo false false .mx).updCore fun c => { c with arr := [arrOp], nextId := 4 }
theorem test_array_events_are_due : arraying.core.arrOf 3 = some arrOp ∧ arrOp.goes 0 = true ∧ arrOp.bad = none ∧
    (AMap.get [] arrOp.a 0).length = shK arrCmd.shape ∧ shM arrCmd.shape = 1 ∧ shN arrCmd.shape = 1 ∧ intFormat arrCmd.fmtA = true ∧
    modeFacc arrCmd.mode = false := by decide
theorem test_array_operand_places : PlainA arrCmd 0 ∧ PlainB arrCmd 0x20000 := by constructor <;> constructor <;> decide
/-- R221: with OVW, the row becomes the product. -/
theorem test_row_is_final : (match exec (.arrayRowFinal 3 0) arraying with
    | .next t => (t.core.accWr.map (·.eff), t.core.arr.length, t.core.posts.length)
    | _ => ([], 9, 9)) = ([.cols 5 [(0, 0xFFFFFFFA)]], 0, 1) := by decide
theorem test_staged_command_is_due : let s := (demo false true .mx).updCore fun c => { c with stagedDue := [(0, ⟨arrCmd⟩), (0, ⟨arrCmd⟩)] }
    s.core.stagedDue = (0, ⟨arrCmd⟩) :: [(0, ⟨arrCmd⟩)] ∧ shKeep arrCmd.shape = false ∧ locKind arrCmd.aLoc ≠ 2 ∧ locKind arrCmd.bLoc ≠ 2 ∧ s.core.arrBusy ≤ 0 := by decide
/-- A staged command that keeps B, where B of its kind and size is held; and one whose A lies behind a handle. -/
theorem test_staged_commands_keep_and_fetch :
    (let k := { arrCmd with shape := arrCmd.shape ||| 0x1000000000000000, b := none }
     let s := (demo false true .mx).updCore fun c => { c with stagedDue := [(0, ⟨k⟩)], bvalid := true, heldB := some ⟨.tmma, 1, 1, 1, [[some Elem.zero]]⟩ }
     s.core.stagedDue = (0, ⟨k⟩) :: [] ∧ shKeep k.shape = true ∧ heldMatches s.core k.kind k.shape = true ∧ locKind k.aLoc ≠ 2) ∧
    (let k := { arrCmd with aLoc := 0x8000000400000000, a := .hbm 0x10000 }
     let s := (demo false true .mx).updCore fun c => { c with stagedDue := [(0, ⟨k⟩)], hnd := [((locHandle k.aLoc).toNat, ⟨1, 0, 0, false, 0, none, false, []⟩)] }
     locKind k.aLoc = 2 ∧ (s.core.getH (locHandle k.aLoc)).valid = true ∧ s.core.arrBusy ≤ s.core.cycle ∧ some k.a = some (.hbm 0x10000) ∧
       0 ∈ (k.part false 0).rows ∧ (k.part false 0).spans ≠ []) := by decide
theorem test_acc_units_execute : (∀ i ∈ [Instr.accrd lo ⟨5, 2047, 3, 0⟩, .accwr lo ⟨5, 2047, 3, 0⟩, .accz lo ⟨2047, 0, 0⟩],
      (demoOf i).executes i = true ∧ (demoOf i).core.udchk = false ∧ (demoOf i).core.yields .mx = false) ∧
    (∀ i ∈ [Instr.accrd lo ⟨5, 2047, 3, 2⟩, .accwr lo ⟨5, 2047, 3, 2⟩, .accz lo ⟨2047, 0, 2⟩],
      (demoX i [(2, 1)]).executes i = true ∧ (demoX i [(2, 1)]).src 2 = 1 ∧ (demoX i [] [2]).executes i = true ∧ (demoX i [] [2]).bad 2 = true) ∧
    ((demoOf (.accwr lo ⟨5, 0, 0, 0⟩)).core.reserve .read 5 0).1 = 0 := by decide
theorem test_accwr_source_is_clean : (readVec (demoOf (.accwr lo ⟨5, 0, 0, 0⟩)).core.mrf (physOp 0 5)).poison = 0 := by decide
theorem test_mxres_and_ttopk_execute :
    (let s := demoX (.mxres lo) [] [] fun c => { c with tl := 1, suspended := some ⟨0, false, arrOp⟩ }
     s.executes (.mxres lo) = true ∧ s.core.tl ≠ 0 ∧ s.core.suspended = some ⟨0, false, arrOp⟩) ∧
    ((demoOf (.mxres lo)).executes (.mxres lo) = true ∧ (demoOf (.mxres lo)).core.tl = 0) ∧
    ((demoOf (.ttopk lo ⟨3, 0, 1, 3, true, false, 31⟩)).executes (.ttopk lo ⟨3, 0, 1, 3, true, false, 31⟩) = true ∧
      (demoOf (.ttopk lo ⟨3, 0, 1, 3, true, false, 31⟩)).core.topkUntil ≤ 0 ∧ (demoOf (.ttopk lo ⟨3, 0, 1, 3, true, false, 31⟩)).core.udchk = false) ∧
    (let s := demoX (.ttopk lo ⟨3, 0, 1, 3, true, false, 31⟩) [] [] fun c => { c with topkUntil := 9 }
     s.executes (.ttopk lo ⟨3, 0, 1, 3, true, false, 31⟩) = true ∧ s.core.cycle < s.core.topkUntil) := by decide
/-- R92: the largest of three columns, and of two that are equal the lower. -/
theorem test_topk_ranks : let c := { (demo false false .mx).core with acc := [(0, 5), (1, 9), (2, 9)] }
    let w := TopkRow.write ⟨3, 0, 0, 19, 19, 96, 2, true, false, 3⟩ c
    [w.v.cell 0, w.v.cell 1, w.v.cell 16, w.v.cell 17] = [1, 2, 9, 9] := by decide


/-! A launch of one node, whose image HBM holds. -/

/-- An image of no code for the nominal map, the reference to it with its digest, and a launch record of one node that runs it, in HBM. -/
def imageBytes : List Byte := (List.range 400).map fun i => BitVec.ofNat 8 (AMap.get 0
  [(0, 0x47), (1, 0x43), (2, 0x48), (3, 0x49), (4, 1), (28, 1), (256, 1)] i)
def digestBytes : List Byte := wordBytes (sha384 imageBytes).toNat 48
def launchBytes : AMap Byte :=
  (List.range' 0 48).map (fun i => (128 + i, BitVec.ofNat 8 ((sha384 imageBytes).toNat / 256 ^ i))) ++
    ((List.range 12).map (fun i => (96 + i, 0xFF)) ++
    [(0, 0x47), (1, 0x43), (2, 0x48), (3, 0x4C), (4, 1), (6, 1), (64, 128), (80, 1), (178, 1), (180, 0x90), (181, 1), (185, 1), (256, 0x47), (257, 0x43), (258, 0x48), (259, 0x49), (260, 1), (284, 1), (512, 1)])
def launchNode : NodeRec := ⟨128, ⟨sha384 imageBytes, 0, 1, 400, 256, [0], imageBytes⟩, 0, 1, 0, 0, false, false, false, 0, 0, 0, 0, 0, []⟩
def cmdBytes (l : List (Nat × Nat)) : List Byte := (List.range 64).map fun i => BitVec.ofNat 8 (AMap.get 0 l i)
def running (op : Nat) (l : List (Nat × Nat)) (r : QRun) : Queue := { Queue.reset with weight := 1, cur := some ⟨0, cmdBytes ((0, op) :: l), r⟩ }
/-- Queue 3 starts the launch, a graph has the node ready, and the chain engine stands at an entry that names the record. -/
def loaded : Hub :=
  { Hub.reset with
    hbm := launchBytes, queues := [(3, running 1 [] .start)]
    graphs := [⟨7, 3, 0, 0, 0, 0, none, [⟨launchNode, .ready, 3, 0, 0, 0, 0⟩], 0, 0, 0xFFFF⟩]
    power := { Power.reset with unitLevel := List.replicate 56 (some 0) }
    chain := { Chain.reset with
      owner := some 3, held := true, started := true, entries := [⟨0, 1, true, true, true, true, 5, 0, false, 0, 0⟩]
      stash := [some 1, none], act := [some 5], grad := [none, some 5], dview := [true], uview := [false, true] } }
def headerBytes : List Byte := (List.range 64).map fun i => BitVec.ofNat 8 (AMap.get 0 [(0, 0x47), (1, 0x43), (2, 0x48), (3, 0x4C), (4, 1), (6, 1)] i)
def nodeBytes : List Byte :=
  (List.range 64).map fun i => BitVec.ofNat 8 (if i < 32 then (AMap.get 0 [(0, 0x80), (16, 1)] i) else if i < 44 then 0xFF else 0)
/-- An extent of one page of this package, with nothing marked, is read by queue 3 as HBM holds it. -/
theorem reads_page (va n : Nat) (bs : List Byte) (hp : pieces va n = [(va, n)])
    (hw : (let t := loaded.walk 0 va
      t.present && t.perm.getLsbD 0 && !t.sync && decide (va < 2 ^ 57) && (t.pa + va % pageBytes t.psize == va)) = true)
    (hv : va < 65536) (hb : loaded.readHbm va n = bs) : loaded.readVa 3 0 va n = .ok ([0], bs) ∧ loaded.readVa chainReader 0 va n = .ok ([0], bs) := by
  have hp' : ∀ who, loaded.readPart who 0 (va, n) = .ok (0, bs) := by
    intro who
    unfold Hub.readPart
    rw [show loaded.homeOf 0 va = .own from rfl]
    have ho : ∀ pa, loaded.hbmOpen pa n = true := fun pa => by unfold Hub.hbmOpen; rw [show loaded.stacksOpen = true by decide, Bool.true_or]
    simp only [ho, Bool.not_true, Bool.false_eq_true, if_false]
    simp only [Bool.and_eq_true, Bool.not_eq_true', decide_eq_true_eq, beq_iff_eq] at hw ⊢
    obtain ⟨⟨⟨⟨h1, h2⟩, h3⟩, h4⟩, h5⟩ := hw
    rw [h5, if_pos ⟨⟨⟨⟨h1, h2⟩, h3⟩, h4⟩, rfl⟩, hb, Nat.div_eq_of_lt hv, Nat.zero_mul]
  constructor <;> (unfold Hub.readVa; rw [hp]; simp [hp', joinParts, Except.map])
theorem reads_header : loaded.readVa 3 0 0 64 = .ok ([0], headerBytes) ∧ loaded.readVa chainReader 0 0 64 = .ok ([0], headerBytes) :=
  reads_page 0 64 _ (by decide) (by decide) (by decide) (by decide)
theorem reads_node_record : loaded.readVa 3 0 64 64 = .ok ([0], nodeBytes) ∧ loaded.readVa chainReader 0 64 64 = .ok ([0], nodeBytes) :=
  reads_page 64 64 _ (by decide) (by decide) (by decide) (by decide)
set_option maxRecDepth 30000 in
theorem reads_image : loaded.readVa 3 0 256 400 = .ok ([0], imageBytes) ∧ loaded.readVa chainReader 0 256 400 = .ok ([0], imageBytes) :=
  reads_page 256 400 _ (by decide) (by decide) (by decide) (by decide)

theorem le_wordBytes (n v : Nat) : leNat (wordBytes v n) = v % 256 ^ n := by
  unfold wordBytes
  induction n generalizing v with
  | zero => simp [leNat, Nat.mod_one]
  | succ n ih =>
    rw [List.range_succ_eq_map, List.map_cons, List.map_map, leNat]
    have : (List.map ((fun i => BitVec.ofNat 8 (v / 256 ^ i)) ∘ Nat.succ) (List.range n)) =
        (List.range n).map fun i => BitVec.ofNat 8 (v / 256 / 256 ^ i) := by
      apply List.map_congr_left; intro i _
      simp [Nat.pow_succ, Nat.div_div_eq_div_mul, Nat.mul_comm]
    rw [this, ih]
    simp [BitVec.toNat_ofNat, Nat.pow_succ]
    rw [Nat.mul_comm (256 ^ n) 256, Nat.mod_mul]
theorem digest_returns (d : BitVec 384) : BitVec.ofNat 384 (leNat (wordBytes d.toNat 48)) = d := by
  rw [le_wordBytes]
  apply BitVec.eq_of_toNat_eq
  rw [BitVec.toNat_ofNat, show (256 ^ 48 : Nat) = 2 ^ 384 by rw [show (256 : Nat) = 2 ^ 8 by norm_num, ← Nat.pow_mul],
    Nat.mod_mod, Nat.mod_eq_of_lt d.isLt]
theorem digest_back : BitVec.ofNat 384 (leNat digestBytes) = sha384 imageBytes := digest_returns _
theorem memRead_range (m : AMap Byte) (a n : Nat) : memRead m a n = (List.range n).map fun i => memGet m (a + i) := by
  induction n generalizing a with
  | zero => rfl
  | succ n ih =>
    rw [memRead, ih, List.range_succ_eq_map, List.map_cons, List.map_map]
    congr 1
    apply List.map_congr_left; intro i _
    show memGet m (a + 1 + i) = memGet m (a + (i + 1))
    congr 1; omega
def refBytes : List Byte := digestBytes ++ [0, 0, 1, 0, 0x90, 1, 0, 0, 0, 1, 0, 0, 0, 0, 0, 0]
set_option maxRecDepth 30000 in
theorem reads_ref : loaded.readVa 3 0 128 64 = .ok ([0], refBytes) ∧ loaded.readVa chainReader 0 128 64 = .ok ([0], refBytes) := by
  refine reads_page 128 64 _ (by decide) (by decide) (by decide) ?_
  rw [show loaded.readHbm 128 64 = memRead loaded.hbm 128 64 from rfl, memRead_range,
    show List.range 64 = List.range 48 ++ (List.range 16).map (48 + ·) by decide, List.map_append, List.map_map]
  unfold refBytes digestBytes wordBytes
  rw [show loaded.hbm = launchBytes from rfl]
  unfold launchBytes
  generalize (sha384 imageBytes).toNat = d
  exact congrArg₂ (· ++ ·) rfl rfl

def launchImage : Image :=
  { portable := false, copyDriven := false, mrfReq := 0, accReq := 0, spadReq := 0, tokq := List.replicate 16 0, bankf := List.replicate 24 0,
    specimen := 0, die := 0, cls := 0, mapVer := 1, mapDig := 0, pdig := 0, variant := 0, use := 0, alat := List.replicate 16 0, live := 0,
    entry := [0, 0, 0, 0], segs := List.replicate 4 ⟨[0], none, 256, 0, []⟩, safe := [] }
set_option maxRecDepth 30000 in
theorem parses_image : parseImage imageBytes (pagedSeg [0] 256 imageBytes) = some launchImage := by decide
theorem loads_image : launchNode.img.loaded = .native launchImage := by
  unfold ImageRef.loaded
  rw [if_pos (show launchNode.img.kind = 1 from rfl), show launchNode.img.bytes = imageBytes from rfl, show launchNode.img.pages = [0] from rfl,
    show launchNode.img.va = 256 from rfl, parses_image]
  rfl
theorem nominal_members (m : DieMap) (h : m.cores = []) (c : Nat) : m.members c = if c = 0 then List.range 168 else [] := by
  have e : ∀ k, m.coreMap k = CoreMap.nominal := fun k => by unfold DieMap.coreMap; rw [h]; rfl
  unfold DieMap.members
  simp only [e]
  rw [show CoreMap.nominal.eligible = true by decide, show CoreMap.nominal.cls = 0 by decide]
  by_cases hc : c = 0
  · subst hc; simp [coresPerDie]
  · rw [if_neg hc]; simp [Ne.symm hc]
theorem nominal_classes (m : DieMap) (h : m.cores = []) : m.classes = [0] := by
  unfold DieMap.classes
  have : (fun c => m.members c != []) = fun c => decide (c = 0) := by
    funext c; rw [nominal_members m h]; by_cases hc : c = 0 <;> simp [hc]
  rw [this]; decide
theorem image_accepted (k : Nat) : loaded.accepts launchImage 0 k = true := by
  unfold Hub.accepts
  rw [show (loaded.map 0).coreMap k = CoreMap.nominal from rfl]
  have h : loaded.builtMap 0 launchImage.mapVer launchImage.mapDig = some DieMap.nominal := by rfl
  rw [h]
  simp only []
  rw [show DieMap.nominal.coreMap k = CoreMap.nominal from rfl]
  decide
def launchCand : Cand := ⟨0, 0, launchImage, [], List.range 168⟩
theorem node_choices : loaded.chosen launchNode = [((0, 0), (launchImage, []))] := by
  have hc : loaded.nodeClasses launchNode = [(0, 0)] := by
    have h0 : (loaded.map 0).classes = [0] := nominal_classes _ rfl
    unfold Hub.nodeClasses
    simp [h0, launchNode]
  unfold Hub.chosen Hub.picks
  rw [hc, loads_image]
  rfl
theorem decides_node : loaded.decideNode launchNode = .ok [launchCand] := by
  have hk : ((loaded.map 0).members 0).filter (loaded.accepts launchImage 0) = List.range 168 := by
    rw [nominal_members _ rfl, if_pos rfl]
    exact List.filter_eq_self.2 fun k _ => image_accepted k
  unfold Hub.decideNode
  rw [loads_image, node_choices]
  simp only [List.filter_cons, List.filter_nil, show (launchImage.copyDriven = launchNode.array) from rfl, decide_true, if_true,
    show Loaded.oversize (.native launchImage) = false by decide, Bool.false_eq_true, if_false, List.map_cons, List.map_nil, hk]
  rfl
theorem image_is_whole : loaded.imageBroken launchNode = false := by
  unfold Hub.imageBroken
  rw [loads_image, node_choices, show launchNode.img.bytes = imageBytes from rfl, show launchNode.img.dig = sha384 imageBytes from rfl]
  simp [launchImage, launchNode]
theorem parseNode_one {h : Hub} {who f i : Nat} {bs r : List Byte} {p : List Nat} {img : List Nat × List Byte} {ref : ImageRef} {x : NodeRec}
    (h1 : nodeOk bs i = true) (h2 : h.readVa who f (fieldAt bs 0 8) 64 = .ok (p, r)) (h3 : refOk r = true) (hr : parseRef r = ref)
    (h4 : h.readVa who f ref.va ref.len = .ok img)
    (hx : { imgref := fieldAt bs 0 8, img := { ref with pages := img.1, bytes := img.2 }, argva := BitVec.ofNat 64 (fieldAt bs 8 8)
            w := fieldAt bs 16 1, classc := fieldAt bs 17 1, diec := fieldAt bs 18 1, array := fieldAt bs 19 1 % 2 == 1
            pre := fieldAt bs 19 1 / 2 % 2 == 1, ember := fieldAt bs 19 1 / 4 % 2 == 1, mrfr := fieldAt bs 20 1, tokr := fieldAt bs 21 1
            accr := fieldAt bs 22 2, spadr := fieldAt bs 24 4, wheel := fieldAt bs 28 1
            preds := ((List.range 6).map fun j => fieldAt bs (32 + 2 * j) 2).filter (· != 0xFFFF) } = x)
    (h6 : h.imageBroken x = false) : h.parseNode who f i bs = .ok x := by
  subst hr hx
  simp only [Hub.parseNode, h1, h2, h3, h4, h6, bind, Except.bind, Bool.not_true, Bool.false_eq_true, if_false]
theorem readLaunch_one {h : Hub} {who va : Nat} {hd bs : List Byte} {p q : List Nat} {x : NodeRec} {cs : List Cand}
    (h1 : h.readVa who 0 va 64 = .ok (p, hd)) (h2 : (fieldAt hd 0 4 == 0x4C484347 && fieldAt hd 4 2 == 1 && zerosAt hd 16 48) = true)
    (h3 : fieldAt hd 6 2 = 1) (h4 : h.readVa who 0 (va + 64) 64 = .ok (q, bs)) (h5 : h.parseNode who 0 0 bs = .ok x)
    (h6 : h.decideNode x = .ok cs) : h.readLaunch who 0 va = .ok [x] := by
  simp only [Bool.and_eq_true] at h2
  simp [Hub.readLaunch, h1, h2.1.1, h2.1.2, h2.2, h3, firstError, h4, bind, Except.bind, h5, Hub.nodeCheck, h6]
theorem parses_ref : parseRef refBytes = ⟨sha384 imageBytes, 0, 1, 400, 256, [], []⟩ := by
  unfold parseRef
  rw [show fieldAt refBytes 0 48 = leNat digestBytes from rfl, digest_back]
  congr 1
theorem parses_node : loaded.parseNode 3 0 0 nodeBytes = .ok launchNode ∧ loaded.parseNode chainReader 0 0 nodeBytes = .ok launchNode :=
  ⟨parseNode_one (by decide) reads_ref.1 (by decide) parses_ref reads_image.1 (congrArg (fun n => ({ launchNode with preds := n } : NodeRec)) (by decide)) image_is_whole,
    parseNode_one (by decide) reads_ref.2 (by decide) parses_ref reads_image.2 (congrArg (fun n => ({ launchNode with preds := n } : NodeRec)) (by decide)) image_is_whole⟩
theorem reads_launch : loaded.readLaunch 3 0 0 = .ok [launchNode] ∧ loaded.readLaunch chainReader 0 0 = .ok [launchNode] :=
  ⟨readLaunch_one reads_header.1 (by decide) (by decide) reads_node_record.1 parses_node.1 decides_node,
    readLaunch_one reads_header.2 (by decide) (by decide) reads_node_record.2 parses_node.2 decides_node⟩

/-! The events of a core. -/

def cored (f : Core → Core) : State := (demo false false .ct).updCore f
theorem test_core_events_are_due :
    (∀ p ∈ [true, false], (cored fun c => { c with status := .setup 0, preempt := p }).core.status = .setup 0 ∧
      (cored fun c => { c with status := .setup 0, preempt := p }).core.preempt = p) ∧
    (let s := cored fun c => { c with tkwdog := 1, ct := { c.ct with waiting := true, wd := 1 } }
     s.seq.waiting = true ∧ s.core.tl = 0 ∧ s.core.tkwdog ≠ 0 ∧ s.core.tkwdog.toNat ≤ s.seq.wd ∧ s.mayEnter) := by
  refine ⟨by decide, by decide, by decide, by decide, by decide, by decide, by decide⟩
/-- R312: a task that was to be pre-empted while it was set up is asked to halt at its start. -/
theorem test_setup_then_halts : (match exec .launchSetupDone (cored fun c => { c with status := .setup 0, preempt := true }) with
    | .next t => t.core.status
    | _ => .free) = .halting := by decide
theorem test_local_operations_leave : ∀ op ∈ [Op.ordLoad 1 (.hbm 8) 8 false, .ordStore (.hbm 8) [1], .sync .relI (.hbm 8) 8 none, .sync .relL (.hbm 8) 8 none],
    let s := inFlight op .commit
    (s.core.flightOf 3 = some (flying op .commit) ∧ (flying op .commit).due ≤ s.core.pulse ∧ s.core.mustStay (flying op .commit) = false) ∧
      localOrdered op := by
  intro op h
  simp only [List.mem_cons, List.not_mem_nil, or_false] at h
  rcases h with rfl | rfl | rfl | rfl <;> exact ⟨by decide, rfl⟩
theorem test_remote_operations_leave : ∀ op ∈ [Op.store (.remote 3 0xFFFF) [1], .sync .relI (.remote 3 8) 8 none, .ordStore (.remote 3 8) [1, 2, 3, 4]],
    let s := farHome (inFlight op .commit)
    (s.core.flightOf 3 = some (flying op .commit) ∧ (flying op .commit).due ≤ s.core.pulse ∧ s.core.mustStay (flying op .commit) = false) ∧
      (requestOf (flying op .commit)).isSome = true ∧ s.hub.homeOf s.core.func 0xFFFF = .pkg 3 ∧ s.hub.homeOf s.core.func 8 = .pkg 3 := by
  decide
theorem test_a_release_is_no_binding : ∀ k ∈ [SyncKind.relI, .bind 64 64 0], (demo false false .ct).hub.refusesBind 0 k = false := by decide
theorem test_page_requests_leave :
    let f := { flying (.pgreq 4 8 8) .commit with hnd := some (some 4, ⟨0x7FE5, 3, 0, true, 0, none, false, []⟩) }
    let s := farHome ((inFlight (.pgreq 4 8 8) .commit).updCore fun c => { c with flight := [f] })
    s.core.flightOf 3 = some f ∧ s.core.mustStay f = false ∧ requestOf f = some (7, 3, 8, .pgreq none) := by decide
theorem test_fabric_signals_leave :
    let k := command (.fsig 0x80000008 5) false false (some 0) .commit [] [] []
    (engine k).core.flightOf 3 = none ∧ (engine k).core.cmdOf 3 = some k ∧ k.due ≤ (engine k).core.pulse ∧ sigPkg 0x80000008 ≠ (engine k).hub.pkg ∧ k.quiet = false := by decide
theorem test_silenced_signals_are_due :
    let k := { command (.fsig 0x80000008 5) false false (some 0) .commit [] [] [] with quiet := true }
    (engine k).core.flightOf 3 = none ∧ (engine k).core.cmdOf 3 = some k ∧ k.due ≤ (engine k).core.pulse ∧ sigPkg 0x80000008 ≠ (engine k).hub.pkg ∧ k.quiet = true := by decide
theorem test_strikes_hit : (cored id).coreAt 0 = some (cored id).core ∧ (cored id).core.status = .running ∧
    (cored fun c => { c with status := .halting }).core.status = .halting ∧ (cored fun c => { c with status := .swapping 0 }).core.status = .swapping 0 := by decide
theorem test_refusals_are_due :
    (∀ op ∈ [Op.store (.hbm 8) [1], .ordStore (.hbm 8) [1]], ∀ st ∈ [Stage.refused, .timedOut], (inFlight op st).core.flightOf 3 = some (flying op st) ∧
      (flying op st).due ≤ (inFlight op st).core.pulse) ∧
    (∀ st ∈ [Stage.refused, .timedOut], (inFlight (.sync .relI (.hbm 8) 8 none) st).core.flightOf 3 = some (flying (.sync .relI (.hbm 8) 8 none) st)) ∧
    (∀ st ∈ [Stage.refused, .timedOut], (inFlight (.pgreq 4 8 8) st).core.flightOf 3 = some (flying (.pgreq 4 8 8) st)) ∧
    (∀ op ∈ [Op.load (.x 1 4 true) (.hbm 8) 4 none none false, .ordLoad 1 (.hbm 8) 8 false],
      (inFlight op .refused).core.flightOf 3 = some (flying op .refused)) ∧
    (∀ st ∈ [Stage.refused, .timedOut], ∀ kind ∈ [CmdKind.fsig 0x80000008 5, .copy (.spad 0) (.spad 64) 8 8 [] false],
      let k := command kind false false (some 0) st [] [] []
      (engine k).core.flightOf 3 = none ∧ (engine k).core.cmdOf 3 = some k) := by decide
theorem test_precise_refusals : trapsPrecisely (flying (.store (.hbm 8) [1]) .refused) ∧ trapsPrecisely (flying (.ordStore (.hbm 8) [1]) .timedOut) ∧
    trapsPrecisely (flying (.sync .relI (.hbm 8) 8 none) .timedOut) ∧ trapsPrecisely (flying (.load (.x 1 4 true) (.hbm 8) 4 none none false) .refused) ∧
    trapsPrecisely (flying (.ordLoad 1 (.hbm 8) 8 false) .refused) := ⟨.inl rfl, .inr rfl, ⟨.inr rfl, rfl⟩, rfl, rfl⟩
/-- A cause of MX's and one of LD's, of which LD's is first (R286). -/
def twoCauses : State := cored fun c => { c with pend := [⟨.mx, 0x50, none, 8, true, 0, false⟩, ⟨.ld, 0x24, some 4, 8, false, 0, false⟩] }
theorem test_a_cause_is_next : twoCauses.core.tookTrap = false ∧ NextCause twoCauses.core ⟨.ld, 0x24, some 4, 8, false, 0, false⟩ ∧ twoCauses.core.tl < 2 :=
  ⟨by decide, ⟨by decide, by decide, by decide, by decide⟩, by decide⟩
theorem test_regions_unwind :
    (let s := cored fun c => { inRegions 2 c with abort := true }
     s.core.regions = [region, region] ∧ s.core.abort = true ∧ s.core.tl = 0 ∧ s.core.status = .running) ∧
    (let s := cored fun c => { inRegions 4 c with consumed := [⟨.ld, 0, 64, 0⟩] }
     s.core.regions = [region, region, region, region] ∧ (∃ x ∈ s.core.consumed, x.level = 0 ∧ (s.core.seq x.q).hold = none) ∧ s.core.tl = 0 ∧
       s.core.status = .running ∧ (s.core.flight.map (·.id)).Nodup) := by decide
theorem test_preemption_is_due :
    (let s := (inFlight (.waita 1 64 5 0) .going)
     s.coreAt 0 = some s.core ∧ s.core.status = .running ∧ (s.core.flight.map (·.id)).Nodup ∧ preemptDrops (flying (.waita 1 64 5 0) .going) = true) ∧
    (let s := cored fun c => { c with status := .setup 0 }
     s.coreAt 0 = some s.core ∧ s.core.status = .setup 0) ∧
    (let s := cored fun c => { c with status := .restoring 9 }
     s.coreAt 0 = some s.core ∧ s.core.status = .restoring 9) ∧
    (let s := cored fun c => { c with status := .killed }
     s.core.status = .killed ∧ s.core.drained = true) ∧
    (let s := cored fun c => { c with status := .halting }
     s.core.status = .halting ∧ s.core.bufferEmpty = true ∧ s.core.replayLeft = 0 ∧ s.core.drainForms = false) ∧
    (let s := cored fun c => { c with status := .halted }
     s.core.status = .halted ∧ s.core.drained = true ∧ s.core.task.isSome = true) ∧
    (let s := cored fun c => { c with status := .saving 0 }
     s.core.status = .saving 0 ∧ 0 ≤ s.tick ∧ s.core.task.isSome = true) ∧
    (let s := cored fun c => { c with status := .restoring 0, preempt := true }
     s.core.status = .restoring 0 ∧ 0 ≤ s.tick ∧ s.core.preempt = true) ∧
    (let s := cored fun c => { c with status := .restoring 0 }
     s.core.status = .restoring 0 ∧ 0 ≤ s.tick ∧ s.core.preempt = false ∧ ¬ (s.core.tl = 0 ∧ s.core.suspended.any (·.armed) = true)) := by decide
/-- The image cache holds the native image of `imageBytes` for the task of the core. -/
def imaged (s : State) : State := s.updHub fun h => { h with cache := [⟨1, 0, 0, 0, 1, 0, 1, imageBytes, [], []⟩] }
/-- A portable task at its safe point, where every other sequencer has ended. -/
def atSafe (f : Core → Core) : State := cored fun c => f { c with
  ct := { c.ct with pc := 0x44 }, ld := { c.ld with ended := true }, mx := { c.mx with ended := true }, st := { c.st with ended := true },
  task := some (placedTask { placedImage with portable := true, safe := [[0x40, 0, 0, 0]] }) }
theorem test_continuations_and_ends_are_due :
    (let s := atSafe id
     safeEntry s.core (s.core.ct.pc - 4) = some 0 ∧ s.core.safeHolds 0 = true ∧ s.core.status = .running ∧ s.core.task.map (·.image.portable) = some true) ∧
    (let s := atSafe fun c => { c with status := .swapping 0 }
     s.core.status = .swapping 0 ∧ s.core.emptied = true ∧ s.core.task.map (·.stale) = some false ∧ s.nativeHere = none) ∧
    (∀ st ∈ [Status.running, .halting], let s := cored fun c => { c with ended := true, status := st }
     s.core.ended = true ∧ s.core.leaveAt ≤ s.core.pulse ∧ s.core.status = st ∧ s.core.task.isSome = true ∧ s.hub.takeover = none) := by decide
set_option maxRecDepth 30000 in
theorem test_an_image_waits : ∀ st ∈ [Status.running, .swapping 0], (imaged (atSafe fun c => { c with status := st })).nativeHere.isSome = true := by decide
set_option maxRecDepth 30000 in
/-- R332: the task goes on where the other image has its safe point. -/
theorem test_continuation_waits : (match exec .continuationStart (imaged (atSafe id)) with
    | .next t => t.core.status
    | _ => .free) = .swapping 0 := by decide
theorem test_translations_are_due :
    let k : Translation := ⟨5, 1, 0, 0, 0, 0, 0, [], 0, false⟩
    let s := (demo false false .ct).updHub fun h => { h with translations := [{ k with version := (h.map 0).version }] }
    s.hub.translations.find? (fun x => x.id = 5) = some { k with version := (s.hub.map 0).version } ∧ s.hub.well.erased = false ∧
      ∀ x ∈ s.hub.cache, x.pdig ≠ 0 := by decide
/-- A gang of two that runs node 0 of graph 0, the other member of which has been saved; and a takeover that holds the end back. -/
theorem test_gangs_end_with_saved_members :
    let x : NodeRec := { launchNode with w := 2 }
    let s := (cored fun c => { c with ended := true }).updHub fun h =>
      { h with graphs := [⟨0, 3, 0, 0, 0, 0, none, [⟨x, .running, 3, 0, 0, 0, 0⟩], 0, 0, 0xFFFF⟩], saved := [⟨0, 0, (cored id).core⟩] }
    s.core.ended = true ∧ s.core.leaveAt ≤ s.core.pulse ∧ s.core.status = .running ∧ s.hub.takeover = none ∧ s.hub.events = [] ∧
      (s.hub.graphOf 0).map (fun g => g.nodes.map fun y => (y.state, y.ended, y.rec_.w)) = some [(.running, 0, 2)] ∧
      2 ≤ 0 + 1 + (s.hub.saved.filter fun r => r.graph = 0 && r.node = 0).length := by decide
theorem test_takeovers_hold_events : let s := (cored fun c => { c with ended := true }).updHub fun h => { h with takeover := some 5 }
    s.core.ended = true ∧ s.core.leaveAt ≤ s.core.pulse ∧ s.core.status = .running ∧ s.hub.takeover ≠ none := by decide
theorem test_reads_leave : ∀ op ∈ [Op.load (.x 1 8 false) (.remote 3 8) 8 none none false, .ordLoad 1 (.remote 3 8) 8 false, .operand 7 false 0 0 (.remote 3 8) [(0, 32)]],
    (requestOf (flying op .commit)).isSome = true ∧
      (farHome (inFlight op .commit)).core.flightOf 3 = some (flying op .commit) ∧ (farHome (inFlight op .commit)).core.mustStay (flying op .commit) = false := by decide

/-! The host interface, queues and the dispatcher. -/

def hubbed (f : Hub → Hub) : State := (demo false false .ct).updHub f
/-- One function of some version agreed, one queue that it owns. -/
def agreed : State := hubbed fun h =>
  { h with funcs := [(5, { Func.reset with agree := 0x10001 })], queues := [(1023, { Queue.reset with func := 5 })] }
theorem test_host_registers_take_writes :
    ((agreed.hub.func 5).agree.getLsbD 16 = true ∧ (agreed.hub.queue 1023).func = 5 ∧ 1023 ∉ agreed.hub.kicks) ∧
    (agreed.hub.func 0).agree.getLsbD 16 = false ∧ (agreed.hub.queue ((7 : Word).toNat % 1024)).func ≠ 5 ∧ 1024 ≤ (1024 : Word).toNat ∧
    (let s := hubbed fun h => { h with kicks := [1023] }
     1023 ∈ s.hub.kicks ∧ s.hub.takeover = none) ∧
    (descriptorOk (cmdBytes [(16, 4), (19, 0x10)]) = true ∧ (agreed.hub.queue 0).state = 0 ∧ agreed.hub.embstat = false) ∧
    (let s := hubbed fun h => { h with queues := [(3, { Queue.reset with log2sz := 4, weight := 1, state := 2, tail := 5 })] }
     let bs := cmdBytes [(16, 4), (19, 0x10), (24, 1)]
     descriptorOk bs = true ∧ (s.hub.queue 3).state = 2 ∧ fieldAt bs 24 1 = 1 ∧ s.hub.embstat = false ∧
       ((s.hub.queue 3).cbase = fieldAt bs 0 8 ∧ (s.hub.queue 3).cplbase = fieldAt bs 8 8) ∧
       ((s.hub.queue 3).log2sz = fieldAt bs 16 1 ∧ (s.hub.queue 3).loc = fieldAt bs 17 1) ∧
       ((s.hub.queue 3).func = fieldAt bs 18 1 ∧ (s.hub.queue 3).tenant.toNat = fieldAt bs 20 3) ∧
       ((s.hub.queue 3).prio = fieldAt bs 19 1 % 4 ∧ (s.hub.queue 3).weight = fieldAt bs 19 1 / 16) ∧ (s.hub.queue 3).vec = fieldAt bs 23 1) ∧
    (0x20 : Word).toNat % 32 = 0 ∧ (12 : Word).toNat % 16 ≤ 12 ∧
    ((0x200005 : Word).toNat / 2 ^ 21 % 2 ^ 8 ≠ 0 ∧ ∀ g, g < 64 → g ≠ 63 → BitVec.ofNat 20 (0x200005 : Word).toNat ≠ 0 →
      (agreed.hub.func g).tenant ≠ BitVec.ofNat 20 (0x200005 : Word).toNat) ∧
    (16 : Word).toNat % 16 = 0 ∧ (0x4000 : Word).toNat % 2 ^ 15 ≤ 16384 ∧ (1 ≤ (10000 : Word).toNat % 2 ^ 14 ∧ (10000 : Word).toNat % 2 ^ 14 ≤ 10000) ∧
    ((0x8000000000000000 : Word).getLsbD 63 = true ∧ agreed.coreAt ((0x8000000000000000 : Word).toNat % 512) = some agreed.core) ∧
    (0x10000 : Word).toNat % 2 ^ 16 = 0 ∧ (0x10000 : Word).toNat < 2 ^ 52 ∧ (agreed.hub.func 0).pool.length < 4096 := by decide
/-- R385: commands below QTAIL when a drained queue is opened again are still flushed. -/
theorem test_reopening_flushes : (match exec (.queueDescriptorWrite 0 3 (cmdBytes [(16, 4), (19, 0x10), (24, 1)])) (hubbed fun h =>
      { h with queues := [(3, { Queue.reset with log2sz := 4, weight := 1, state := 2, tail := 5 })] }) with
    | .next t => ((t.hub.queue 3).state, (t.hub.queue 3).flush)
    | _ => (0, 0)) = (1, 5) := by decide
theorem fieldAt_memRead (m : AMap Byte) (a n off k : Nat) (h : off + k ≤ n) : fieldAt (memRead m a n) off k = leNat (memRead m (a + off) k) := by
  unfold fieldAt
  congr 1
  apply List.ext_getElem
  · simp [memRead_range]; omega
  · intro i _ _; simp [memRead_range, Nat.add_assoc]
/-- The record of a slot table of no circuit, in force from tick 0 on. -/
def slotHub : Hub := { Hub.reset with hbm := [(0, 0x47), (1, 0x43), (2, 0x48), (3, 0x53), (4, 1)] }
theorem slot_words (i : Nat) (h : i < 256) : fieldAt (memRead slotHub.hbm 0 8256) (64 + 32 * i) 32 = 0 := by
  rw [fieldAt_memRead _ _ _ _ _ (by omega), memRead_range]
  have : ((List.range 32).map fun j => memGet slotHub.hbm (0 + (64 + 32 * i) + j)) = List.replicate 32 0 := by
    apply List.eq_replicate_iff.2
    refine ⟨by simp, fun b hb => ?_⟩
    obtain ⟨j, -, rfl⟩ := List.mem_map.1 hb
    have h0 : 0 + (64 + 32 * i) + j = j + 32 * i + 59 + 1 + 1 + 1 + 1 + 1 := by omega
    rw [h0]; rfl
  rw [this]; decide
set_option maxRecDepth 30000 in
theorem test_slot_tables_are_read : (slotHub.readSlotTable 0 0).isSome = true := by
  have hw : ((List.range 256).map fun i => fieldAt (memRead slotHub.hbm 0 8256) (64 + 32 * i) 32) = List.replicate 256 0 := by
    apply List.eq_replicate_iff.2
    refine ⟨by simp, fun b hb => ?_⟩
    obtain ⟨i, hi, rfl⟩ := List.mem_map.1 hb
    exact slot_words i (List.mem_range.1 hi)
  have hf : ∀ off k, off + k ≤ 8256 → fieldAt (memRead slotHub.hbm 0 8256) off k = leNat (memRead slotHub.hbm off k) := fun off k h => by
    rw [fieldAt_memRead _ _ _ _ _ h, Nat.zero_add]
  unfold Hub.readSlotTable
  rw [show slotHub.readHbm 0 8256 = memRead slotHub.hbm 0 8256 from rfl]
  simp only [hw, hf 6 2 (by decide), hf 8 8 (by decide), hf 0 4 (by decide), hf 4 2 (by decide), hf 16 48 (by decide)]
  decide
theorem test_tables_marks_and_quotes_are_due :
    (let x : SlotTable := ⟨0, 0, [], []⟩
     let s := hubbed fun h => { h with slotNext := some x }
     s.hub.slotNext = some x ∧ x.start ≤ s.tick) ∧
    ((1 : Word).getLsbD 0 = true ∧ (2 : Word).getLsbD 0 = false ∧ agreed.hub.ckpt.ctl.getLsbD 0 = false) ∧
    (let s := hubbed fun h => { h with well := { h.well with erased := true } }
     s.hub.well.erased = true) ∧
    agreed.hub.well.erased = false ∧ (agreed.hub.func 0).nonce.length = 32 := by decide

def queued (r : Queue) : State := hubbed fun h => { h with queues := [(3, r)] }
theorem at_start (op : Nat) (l : List (Nat × Nat)) (h : fieldAt (cmdBytes ((0, op) :: l)) 0 1 = op) :
    AtStart (queued (running op l .start)) 3 op ⟨0, cmdBytes ((0, op) :: l), .start⟩ := ⟨rfl, rfl, h⟩
theorem test_commands_start : (AtStart (queued (running 0 [] .start)) 3 0 ⟨0, cmdBytes [(0, 0)], .start⟩) ∧
    AtStart (queued (running 2 [(24, 1)] .start)) 3 2 ⟨0, cmdBytes [(0, 2), (24, 1)], .start⟩ ∧
    (AtStart (queued (running 3 [] .start)) 3 3 ⟨0, cmdBytes [(0, 3)], .start⟩ ∧ fieldAt (cmdBytes [(0, 3)]) 24 1 = 0) ∧
    (AtStart (queued (running 3 [(24, 1)] .start)) 3 3 ⟨0, cmdBytes [(0, 3), (24, 1)], .start⟩ ∧ fieldAt (cmdBytes [(0, 3), (24, 1)]) 24 1 = 1) ∧
    (AtStart (queued (running 4 [(16, 9)] .start)) 3 4 ⟨0, cmdBytes [(0, 4), (16, 9)], .start⟩ ∧ fieldAt (cmdBytes [(0, 4), (16, 9)]) 20 1 = 0 ∧
      (queued (running 4 [(16, 9)] .start)).hub.ckpt.asked = none) :=
  ⟨at_start 0 [] (by decide), at_start 2 [(24, 1)] (by decide), ⟨at_start 3 [] (by decide), by decide⟩,
    ⟨at_start 3 [(24, 1)] (by decide), by decide⟩, ⟨at_start 4 [(16, 9)] (by decide), by decide, by decide⟩⟩
theorem test_launches_start :
    (AtStart { demo false false .ct with hub := loaded } 3 1 ⟨0, cmdBytes [(0, 1)], .start⟩ ∧
      loaded.readLaunch 3 (loaded.queue 3).func (fieldAt (cmdBytes [(0, 1)]) 16 8) = .ok [launchNode]) ∧
    (AtStart (powered (queued (running 1 [(16, 64)] .start))) 3 1 ⟨0, cmdBytes [(0, 1), (16, 64)], .start⟩ ∧
      (powered (queued (running 1 [(16, 64)] .start))).hub.readLaunch 3 0 64 = .error (.fails 6 none, 0xFFFF)) ∧
    (AtStart (farHome (queued (running 1 [(16, 64)] .start))) 3 1 ⟨0, cmdBytes [(0, 1), (16, 64)], .start⟩ ∧
      ∃ l n, (farHome (queued (running 1 [(16, 64)] .start))).hub.readLaunch 3 0 64 = .error (.waits l, n)) :=
  ⟨⟨⟨rfl, rfl, by decide⟩, reads_launch.1⟩, ⟨at_start 1 [(16, 64)] (by decide), rfl⟩, ⟨at_start 1 [(16, 64)] (by decide), _, _, rfl⟩⟩
/-- Stage 1 maps the first 1 GiB of the space of function 0 to itself, as a SYNC page: a table at each level, and a leaf at level 2. -/
def mapped (leaf : Nat) (s : State) : State := s.updHub fun h =>
  { h with
    funcs := [(0, { Func.reset with s1root := 0x1001 })]
    hbm := memWrite (memWrite (memWrite h.hbm 0x1000 (wordBytes 0x2001 8)) 0x2000 (wordBytes 0x3001 8)) 0x3000 (wordBytes leaf 8) }
/-- R425: no stack has started, whichever holds the object. -/
theorem test_a_stack_is_not_open : (hubbed id).hub.hbmOpen 0x10000 8 = false := by
  unfold Hub.hbmOpen
  rw [show (hubbed id).hub.stacksOpen = false by decide, show pagesOf 0x10000 8 = [1] by decide, Bool.false_or]
  have : ∀ d, (hubbed id).hub.stackOpen d = false := fun d => by
    unfold Hub.stackOpen
    rw [show (hubbed id).hub.power.unitLevel = List.replicate 56 none from rfl]; simp only [List.getD_eq_getElem?_getD, List.getElem?_replicate]; split <;> rfl
  simp [this]
theorem test_queue_objects_are_reached :
    (let s := mapped 0x1FFF (queued (running 2 [(18, 1)] .start))
     s.hub.homeOf 0 0x10000 = .own ∧ (s.hub.walk 0 0x10000).present = true ∧ (s.hub.walk 0 0x10000).sync = true ∧
       fieldAt (cmdBytes [(0, 2), (18, 1)]) 16 8 = 0x10000 ∧ s.hub.syncWait = [] ∧ (s.hub.walk 0 0x10000).pa = 0 ∧
       (powered s).hub.hbmOpen 0x10000 8 = true ∧ s.hub.mustHold 0x10000 8 = false ∧ syncRule (.acqG 1) 0 = none ∧ syncRule (.acqG 0) 0 = some none ∧ syncRule .relI 0 = some (some 1)) ∧
    (let s := inGroup (queued (running 2 [(16, 8)] .start))
     s.hub.homeOf 0 8 = .group 5) ∧
    (let s := farHome (queued (running 2 [(16, 8)] .start))
     s.hub.homeOf 0 8 = .pkg 3 ∧ fieldAt (cmdBytes [(0, 2), (16, 8)]) 16 8 = 8) ∧
    (let s := mapped 0x0FFF (queued (running 2 [(18, 1)] .start))
     s.hub.homeOf 0 0x10000 = .own ∧ (s.hub.walk 0 0x10000).sync = false) ∧
    2 ^ 57 ≤ fieldAt (cmdBytes [(0, 2), (23, 2)]) 16 8 := by decide
theorem test_records_and_turns_are_due :
    (let s := queued (running 0 [] (.over 255 255 0xFFFF))
     (s.hub.queue 3).cur = some ⟨0, cmdBytes [(0, 0)], .over 255 255 0xFFFF⟩ ∧ 16 ≤ (cmdBytes [(0, 0)]).length ∧ (s.hub.queue 3).loc / 2 % 2 = 0) ∧
    (let s := powered (queued { running 0 [] (.over 0 0 0xFFFF) with loc := 2 })
     (s.hub.queue 3).loc / 2 % 2 = 1 ∧ s.hub.hbmOpen 0 16 = true ∧ s.hub.mustHold 0 16 = false) ∧
    (let s := hubbed fun h => { h with events := [⟨7, 0, 0⟩] }
     s.hub.events = [⟨7, 0, 0⟩] ∧ s.hub.takeover = none) ∧
    (let s := hubbed fun h => { h with takeover := some 0 }
     s.hub.takeover ≠ none) ∧
    (hubbed id).hub.graphs = [] := by decide
def aNode (st : NodeState) (level : Nat) : Node := ⟨{ launchNode with img := ⟨0, 0, 1, 400, 256, [], []⟩ }, st, level, 0, 0, 0, 0⟩
def aGraph (st : NodeState) (level : Nat) : Graph := ⟨7, 3, 0, 0, 0, 0, none, [aNode st level], 0, 0, 0xFFFF⟩
theorem test_nodes_are_promoted : ∀ st ∈ [NodeState.ready, .saved],
    let s := { hubbed fun h => { h with graphs := [aGraph st 1] } with tick := 2500000 }
    s.hub.graphOf 7 = some (aGraph st 1) ∧ (aGraph st 1).nodes[0]? = some (aNode st 1) ∧ (aNode st 1).since + 2500000 ≤ s.tick := by decide
/-- The first core of the package is free, and its cluster has started. -/
def starting : State := { demo false false .ct with hub := loaded, core := { (demo false false .ct).core with task := none, status := .free } }
theorem test_nodes_start : ∃ g x cs c ks ws, starting.hub.graphs = [g] ∧ g.nodes = [x] ∧ g.status = 0 ∧ g.queue < 1024 ∧ x.state = .ready ∧ x.level ≤ 3 ∧
    1 ≤ (starting.hub.queue g.queue).weight ∧ starting.hub.decideNode x.rec_ = .ok cs ∧ starting.placeNode (g.id, 0) false [] g.func x.rec_ cs = some (c, ks) ∧
    pickWheels x.rec_.wheel x.rec_.w starting.wheelUsed = some ws ∧ c.img.portable = false ∧ ks.Nodup :=
  ⟨_, ⟨launchNode, .ready, 3, 0, 0, 0, 0⟩, _, launchCand, [0], [[]], rfl, rfl, rfl, by decide, rfl, by decide, by decide, decides_node, rfl, rfl, rfl, by decide⟩
/-- A task that ends under its graph. -/
theorem test_graph_of_a_task : let s := hubbed fun h => { h with graphs := [aGraph .running 0] }
    (s.hub.graphOf 7).isSome = true ∧ (aGraph .running 0).nodes[0]?.isSome = true ∧ s.hub.takeover = none := by decide

/-! Pages and the fabric. -/

/-- Function 0 has tenant 5. -/
def tenanted (s : State) : State := s.updHub fun h => h.updFunc 0 fun v => { v with tenant := 5 }
def packet (kind : BitVec 5) (va : Nat) (body : Body) : Packet := ⟨1, kind, 0, 2, 0, [], 1, 0, 5, va, 0, 0, 9, 0, false, 0, false, body⟩
def paged (leaf : Nat) : State := tenanted (mapped leaf (hubbed id))
def far : State := tenanted (farHome (hubbed id))

theorem test_invalidations_are_due :
    (2 < 3 ∧ (0x1FFFFFFC0000004 : Word).toNat = 0x1FFFFFFC0000000 + 2 * 2 ∧ 0x1FFFFFFC0000000 % pageBytes 2 = 0 ∧ 0x1FFFFFFC0000000 < 2 ^ 57) ∧
    (0 < 3 ∧ (0xFFFFFFFFF0000 : Word).toNat = 0xFFFFFFFFF0000 + 2 * 0 ∧ 0xFFFFFFFFF0000 % pageBytes 0 = 0 ∧ 0xFFFFFFFFF0000 < 2 ^ 52) ∧
    (∀ stage ∈ [1, 2], let i : Inval := ⟨4, 0, stage, [(0, 3)], []⟩
      let s := hubbed fun h => { h with invals := [i] }
      s.hub.invals.find? (fun j => j.id = 4) = some i ∧ (s.hub.invals.find? fun j => j.func = i.func && j.stage = i.stage) = some i ∧
        (∀ w ∈ i.waits, s.stillOut w = false) ∧ ∀ w ∈ i.syncs, w ∉ s.hub.syncWait) := by
  decide
/-- A load through a handle that an invalidation covers, and an acquire of a queue that waits through one; both hold their invalidations up. -/
def covered : Hnd := ⟨0x7FE1, 0, 0, true, 0x10000, none, false, [(0x20000, 65536)]⟩
def acquire : SyncWait := ⟨.queue 3, .acqL, 8, 0, 512, 0, some covered, 1⟩
def reading : State := ((inFlight (.load (.x 1 4 true) (.hbm 8) 4 none none false) .going).updCore fun c => { c with
    hnd := [(4, covered)], flight := [{ flying (.load (.x 1 4 true) (.hbm 8) 4 none none false) .going with hnd := some (some 4, covered) }] }).updHub fun h =>
  { h with syncWait := [acquire], invals := [⟨4, 0, 1, [(0, 3)], []⟩, ⟨5, 0, 2, [], [acquire]⟩, ⟨6, 0, 2, [], []⟩],
           queues := [(3, running 2 [] (.sync .acqL 8))] }
theorem test_invalidations_cover_accesses :
    reading.core.task.any (fun k => k.fn = 0) = true ∧ (∀ g ∈ reading.core.flight, g.over = false ∧ g.id = 3) ∧ reading.core.id = 0 ∧
      (∀ r ∈ [Cover.all, .va 0x10000 65536, .ipa 0x20000 65536], r.via covered = true ∧ r.hnd (reading.core.getH 4) = true) ∧
      (Cover.va 0 65536).hnd (reading.core.getH 4) = false ∧ acquire.func = 0 ∧ (acquire.via.any Cover.all.via) = true ∧
      reading.stillOut (0, 3) = true ∧ reading.awaits acquire = true ∧
      reading.hub.invals.find? (fun j => j.id = 4) = some ⟨4, 0, 1, [(0, 3)], []⟩ ∧
      reading.hub.invals.find? (fun j => j.id = 5) = some ⟨5, 0, 2, [], [acquire]⟩ ∧
      (reading.hub.invals.find? fun j => j.func = 0 && j.stage = 2) ≠ some ⟨6, 0, 2, [], []⟩ := by decide
theorem test_faults_are_open :
    (let r : FaultRec := ⟨0, 1, 5, 1, 8, [.core 0 0 0 3]⟩
     let s := (inFlight (.pgreq 4 8 8) .away).updHub fun h => { h with faults := [r] }
     s.hub.faults.find? (fun q => q.func = 0 && q.token = r.token) = some r ∧ (8 : Word).toNat = r.token + 0 ∧ s.core.id = coreId 0 0 0 ∧
       s.core.flightOf 3 = some (flying (.pgreq 4 8 8) .away)) ∧
    (let r : FaultRec := ⟨0, 1, 5, 1, 0xFFFFFFFF, [.remote 2 9 8]⟩
     let s := hubbed fun h => { h with faults := [r] }
     s.hub.faults.find? (fun q => q.func = 0 && q.token = r.token) = some r ∧ r.token < 2 ^ 32 ∧ (0x1FFFFFFFF : Word).toNat = r.token + 2 ^ 32) := by decide
theorem test_pages_may_be_cleared :
    (let s := paged 0x0FFF
     (0x10000 : Word).toNat % 65536 = 0 ∧ (s.hub.walk 0 0x10000).present = true ∧ (s.hub.paOf 0 (s.hub.walk 0 0x10000).entry).toOption = some 0x3000 ∧
       (s.hub.func 0).s1root.getLsbD 0 = true ∧ s.hub.homeOf 0 0x10000 = .own ∧ s.hub.mustHold (0x3000 + 6) 1 = false) ∧
    (1 : Word).getLsbD 0 = true ∧ (paged 0x0FFF).hub.heldWrites = [] ∧ (paged 0x0FFF).hub.ckpt.pages = [] ∧
    (let s := queued (running 4 [(16, 9), (20, 1)] .start)
     fieldAt (cmdBytes [(0, 4), (16, 9), (20, 1)]) 20 1 = 1 ∧ s.hub.ckpt.asked = none ∧ s.hub.heldWrites = [] ∧ s.hub.ckpt.pages = []) := by decide
/-- Function 1 has no tables, so nothing of it is to be cleared; function 0 has one leaf, whose byte 6 is. -/
theorem test_no_tables_no_leaves : (paged 0x0FFF).hub.migBytes 1 = [] ∧ (queued (running 4 [] .start)).hub.migBytes 0 = [] := by decide
theorem test_marks_start : AtStart (queued (running 4 [(16, 9), (20, 1)] .start)) 3 4 ⟨0, cmdBytes [(0, 4), (16, 9), (20, 1)], .start⟩ :=
  at_start 4 [(16, 9), (20, 1)] (by decide)

theorem test_requests_reach_their_home :
    ((paged 0x0FFF).hub.contextOf 5 = some 0 ∧ (paged 0x0FFF).hub.moving 0 0x1FFFF = none ∧ (paged 0x0FFF).hub.readMarks 0x1FFFF 1 = [] ∧
      0x1FFFF % 65536 + 1 ≤ 65536 ∧ (paged 0x0FFF).hub.mustHold 0x1FFFF 1 = false) ∧
    (far.hub.contextOf 5 = some 0 ∧ far.hub.moving 0 8 = none) ∧ ((paged 3).hub.contextOf 5 = some 0 ∧ (paged 3).hub.moving 0 8 = none) ∧
    (hubbed id).hub.contextOf 5 = none := by decide
theorem test_homes_find_their_pages :
    (∃ x, (paged 0x0FFF).ingressOf 0 0x1FFFF (some 0) false false = .ok x ∧ x.pa + 0x1FFFF % pageBytes x.psize = 0x1FFFF) ∧
    (∀ mc, ∃ x, (paged 0x0FFF).ingressOf 0 0x1FFFF (some 1) false mc = .ok x ∧ x.pa + 0x1FFFF % pageBytes x.psize = 0x1FFFF) ∧
    (∀ b, ∀ mc, far.ingressOf 0 8 (some b) false mc = .moved 3) ∧ (∀ mc, (paged 3).ingressOf 0 8 (some 0) false mc = .denied) ∧
    (∀ mc, (paged 3).ingressOf 0 8 (some 1) false mc = .denied) ∧
    (∃ x, (paged 0x1FFF).ingressOf 0 0x10008 none true false = .ok x ∧ (x.pa + 0x10008 % pageBytes x.psize) % 8 = 0) :=
  ⟨⟨_, rfl, by decide⟩, fun mc => by cases mc <;> exact ⟨_, rfl, by decide⟩, fun b mc => rfl, fun mc => by cases mc <;> rfl,
    fun mc => by cases mc <;> rfl, ⟨_, rfl, by decide⟩⟩
theorem test_sync_requests_are_answered :
    (let w := BitVec.ofNat 64 (leNat (memRead (paged 0x1FFF).hub.hbm 0x10008 8))
     syncRule (.acqG 1) w = none ∧ syncRule .relI w = some (some 1) ∧ syncRule .syrd w = some none) ∧
    (paged 0x1FFF).hub.mustHold 0x10008 8 = false ∧ (powered (paged 0x1FFF)).hub.hbmOpen 0x10008 8 = true ∧ wordKind .relI = true ∧ (paged 0x1FFF).hub.contextOf 5 = some 0 ∧ (paged 0x1FFF).hub.syncWait = [] := by decide
theorem test_ordered_requests_wait_their_turn :
    ((paged 0x0FFF).hub.moving 0 0x1FFFF = none ∧ packet 5 0x1FFFF (.ordLoad 1) ∉ (paged 0x0FFF).hub.arrivals) ∧
    (∀ b ∈ [Body.ordLoad 1, .ordStore [7]], let s := (paged 0x0FFF).updHub fun h => { h with arrivals := [packet 5 0x1FFFF b] }
      s.hub.contextOf 5 = some 0 ∧ s.hub.arrivals = packet 5 0x1FFFF b :: [] ∧ s.tick % 1024 % 64 = 0 ∧ s.hub.readMarks 0x1FFFF 1 = [] ∧
        s.hub.mustHold 0x1FFFF 1 = false) := by decide
def tenantFive : State := (hubbed id).updCore fun c => { c with task := some { placedTask placedImage with tenant := 5 } }
theorem test_flags_of_other_packages : (packet 6 0 (.fsig 0 8 1)).tenant = 5 ∧ RunsTenant tenantFive 0 5 ∧
    ¬ RunsTenant tenantFive 400 5 ∧ ¬ RunsTenant (hubbed id) 0 5 := by
  refine ⟨rfl, ⟨tenantFive.core, _, by decide, by decide, rfl, rfl⟩, fun ⟨_, _, h, _⟩ => ?_, fun ⟨_, k, h, _, ht, hk⟩ => ?_⟩
  · exact nomatch (show tenantFive.coreAt 400 = none by decide).symm.trans h
  · have e : ((hubbed id).coreAt 0).bind (fun c => c.task.map (·.tenant)) = some 0 := by decide
    rw [h, Option.bind_some, ht, Option.map_some, hk] at e
    exact absurd e (by decide)
theorem test_page_requests_are_answered :
    (∃ x, (paged 0x0FFF).ingressOf 0 8 none ((paged 0x0FFF).hub.walk 0 8).sync false = .ok x) ∧
    ((paged 0).ingressOf 0 8 none ((paged 0).hub.walk 0 8).sync false = .absent false ∧ (∀ r ∈ (paged 0).hub.faults, r.func ≠ 0) ∧
      ((paged 0).hub.func 0).frctl.getLsbD 5 = false) ∧
    (let r : FaultRec := ⟨0, 0, 5, 2, 8, [.remote 3 1 8]⟩
     let s := (paged 0).updHub fun h => { h with funcs := h.funcs.map fun x => (x.1, { x.2 with frctl := 0x20 }), faults := [r] }
     s.ingressOf 0 8 none (s.hub.walk 0 8).sync false = .absent false ∧ s.hub.faults = [r] ∧ r.page = 8 / 65536 ∧
       (s.hub.func 0).frctl.getLsbD 5 = true ∧ ¬ RingFull (s.hub.func 0)) ∧
    RingFull { Func.reset with frctl := 0x20, frtail := 16 } :=
  ⟨⟨_, rfl⟩, ⟨rfl, by decide, by decide⟩, ⟨rfl, rfl, by decide, by decide, by unfold RingFull; decide⟩, by unfold RingFull; decide⟩
/-- Tables of function 0 down to the leaf of page 0, which is absent, and a frame in its pool. -/
def roomy : State := hubbed fun h =>
  { h with
    funcs := [(0, { Func.reset with tenant := 5, s1root := 0x1001, pool := [0x20000], dirbase := 0x8000 })]
    hbm := [(0x1000, 1), (0x1001, 0x20), (0x2000, 1), (0x2001, 0x30), (0x3000, 1), (0x3001, 0x40), (0x4000, 1), (0x4001, 0x50)] }
theorem test_pages_arrive :
    (roomy.hub.contextOf 5 = some 0 ∧ roomy.hub.roomForPage 0 0 = some (0x5000, 0x20000, 0x20000, []) ∧ roomy.hub.heldWrites = [] ∧
      roomy.hub.ckpt.pages = [] ∧ (roomy.hub.func 0).dirbase.toNat + 16 * 0 ≤ 0x20000 ∧ 0x5000 + 8 ≤ (roomy.hub.func 0).dirbase.toNat) ∧
    ((tenanted (hubbed id)).hub.roomForPage 0 0 = none ∧ ((tenanted (hubbed id)).hub.func 0).frctl.getLsbD 5 = false ∧
      ∀ r ∈ (tenanted (hubbed id)).hub.faults, r.func ≠ 0) := by decide
/-- The first part of a page, a part that follows it, the last one, and one that follows nothing. -/
theorem test_parts_join : (roomy.hub.joinPart (packet 10 0x10000 .none) [7] []).map (·.bytes) = some [7] ∧
    (let h := { roomy.hub with incoming := [⟨2, 5, 0x10000, [7], []⟩] }
     (h.joinPart { packet 10 0x10001 .none with src := 2 } [8] []).map (·.bytes) = some [7, 8]) ∧
    roomy.hub.joinPart (packet 10 0x10001 .none) [8] [] = none := by decide
/-- The last part of a page, after the 61,440 bytes that came before it. -/
theorem joins_last (bs cs : List Byte) (h : bs.length = 61440) : ({ roomy.hub with incoming := [⟨2, 5, 0, bs, []⟩] } : Hub).joinPart
    { packet 10 61440 .none with src := 2 } cs [] = some ⟨2, 5, 0, bs ++ cs, []⟩ := by
  unfold Hub.joinPart
  simp [packet, h]
theorem test_a_page_is_whole : ∃ w, ({ roomy.hub with incoming := [⟨2, 5, 0, List.replicate 61440 0, []⟩] } : Hub).joinPart
    { packet 10 61440 .none with src := 2 } (List.replicate 4096 1) [] = some w ∧ w.bytes.length = 65536 ∧ w.va = 0 :=
  ⟨_, joins_last _ _ List.length_replicate, by rw [List.length_append, List.length_replicate, List.length_replicate], rfl⟩
theorem test_a_page_has_its_length : (List.replicate 65536 (0 : Byte)).length = 65536 := List.length_replicate

/-- Requests of the core in hand that are out. -/
def request (op : Op) (body : Body) (held : Bool) (dst : Nat) : Request :=
  ⟨9, some ⟨0, 0, 3⟩, { packet (if op = .sync .relI (.remote 2 8) 8 none then 4 else 2) 8 body with dst := dst }, some 0, held⟩
def asked (op : Op) (body : Body) (held : Bool) (dst : Nat) : State := (inFlight op .away).updHub fun h =>
  { h with requests := [request op body held dst] }
theorem test_answers_are_awaited : ∀ op ∈ [Op.store (.remote 2 8) [1], .ordLoad 1 (.remote 2 8) 8 false],
    let r := request op (.writes []) false 2
    Awaited (asked op (.writes []) false 2) r (flying op .away) ∧ r.tag = 9 ∧ r.held = false ∧ r.sent = some 0 ∧ r.packet.dst < 1024 ∧
      (∀ k, r.packet.body ≠ .sync k) ∧ (∀ d l n pr v ab, (flying op .away).op ≠ .load d l n pr (some v) ab) := by
  intro op h
  simp only [List.mem_cons, List.not_mem_nil, or_false] at h
  rcases h with rfl | rfl <;>
    exact ⟨⟨⟨rfl, rfl⟩, ⟨rfl, rfl⟩, by decide, ⟨by decide, rfl⟩⟩, rfl, rfl, rfl, by decide, fun _ => nofun, fun _ _ _ _ _ _ => nofun⟩
theorem test_timeouts_and_holds_are_due :
    (let s := { asked (.store (.remote 2 8) [1]) (.writes []) false 1023 with tick := 125000 }
     0 + 1250 * s.hub.fto ≤ s.tick ∧ (s.hub.requests.find? (fun q => q.tag = 9)).map (·.held) = some false) ∧
    (let s := asked (.sync .relI (.remote 2 8) 8 none) (.sync .relI) false 2
     (s.hub.requests.find? (fun q => q.tag = 9 && q.sent.isSome)).map (·.packet.kind) = some 4) ∧
    (∀ q ∈ (hubbed id).hub.requests, q.tag = 9 → q.sent = none) ∧
    ((asked (.store (.remote 2 8) [1]) (.writes []) true 2).hub.requests.find? (fun q => q.tag = 9)).map (·.held) = some true := by decide
/-- A page that is mapped, and one that is not any more. -/
theorem test_a_page_may_move :
    let m : Migration := ⟨6, 0, 0, 0, 3, 0, none, [], []⟩
    let s := roomy.updHub fun h => { h with migrations := [m] }
    let t := s.updHub fun h => { h with hbm := memWrite h.hbm 0x5000 [3] }
    (∀ x ∈ [s, t], x.hub.migrations.find? (fun x => x.id = 6) = some m ∧ m.due ≤ x.tick ∧ x.moveWaits m = false) ∧
      s.hub.pageLeaf 0 0 = none ∧ t.hub.pageLeaf 0 0 = some 0x5000 := by decide
/-- All links are up, and every unit has started. -/
def linked : State := hubbed fun h =>
  { h with links := List.replicate 24 ⟨2, 1, 0, 4, 0, 0⟩, power := { h.power with unitLevel := List.replicate 56 (some 0) } }
theorem test_packets_travel :
    (linked.hub.well.halted = false ∧ 23 < 24 ∧ (linked.hub.link 23).state = 2) ∧
    (let p := packet 3 8 .none
     p.ver = 1 ∧ 1 ≤ p.kind.toNat ∧ p.kind.toNat ≤ 11 ∧ p.kind ≠ 9 ∧ p.reserved = false ∧ p.nhop < p.hptr ∧ p.dst = linked.hub.pkg ∧
       linked.hub.badAnswer p = false ∧ ∀ c ∈ linked.hub.combos, c.src = p.dst → c.tag ≠ p.tag) ∧
    (let p := { packet 11 8 .none with dst := 1023 }
     p.nhop < p.hptr ∧ p.dst ≠ linked.hub.pkg) ∧
    (let p := { packet 1 8 .none with ports := [23], hptr := 0 }
     p.hptr ≤ p.nhop ∧ p.ports.getD p.hptr 31 = 23) ∧
    (let p := { packet 12 8 .none with ver := 0 }
     p.ver ≠ 1 ∧ 11 < p.kind.toNat) ∧
    (linked.hub.power.unitLevel.getD (50 + 23 / 4) none ≠ none ∧ 23 < linked.hub.links.length) := by decide

/-- A handle whose page was absent when it was made, of a page that is there now; and handles of a page homed elsewhere. -/
theorem test_pages_become_present :
    let i : Instr := .pgreq lo ⟨4, 2⟩
    let s := mapped 0x0FFF ((demoX i [(2, 0xFFFF)]).updCore fun c => { c with hnd := [(4, ⟨1, 0, 0, false, 0, none, false, []⟩)] })
    s.executes i = true ∧ s.bad 2 = false ∧ BecamePresent s (s.core.getH 4) (s.hub.walk 0 0) ∧ s.src 2 < pageBytes (s.hub.walk 0 0).psize :=
  ⟨by decide, by decide, ⟨by decide, by decide, rfl, by decide, by decide⟩, by decide⟩
theorem test_far_handles_land : (farHome (landing (.h 4 0xFFFF true))).hub.homeOf 0 0xFFFF = .pkg 3 ∧ (landing (.h 4 0xFFFF true)).hub.homeOf 0 0xFFFF = .own ∧
    (farHome (landing (.h 4 0xFFFF true))).core.completes ⟨3, false, 0, .ct, 0, [.h 4 0xFFFF true], 0x80⟩ = true := by decide

/-! The chain schedule engine. -/

/-- Every unit of a package has started. -/
def lit (h : Hub) : Hub := { h with power := { h.power with unitLevel := List.replicate 56 (some 0) } }
def chainCmd (resume : Nat) (va : Nat) (r : QRun) : Queue := running 5 [(16, va % 256), (17, va / 256), (24, resume)] r
def withChain (f : Chain → Chain) (s : State) : State := s.updHub fun h => h.updChain f
/-- A table of one entry, whose first byte is given. -/
def tabled (b : Byte) (s : State) : State := s.updHub fun h =>
  { lit h with
    hbm := [(0, 0x47), (1, 0x43), (2, 0x48), (3, 0x54), (4, 1), (6, 1), (8, 0xFF), (9, 0xFF), (10, 0xFF), (11, 0xFF), (64, b), (73, 1)] }
def tableOf (b : Byte) : List Byte × List (List Byte) :=
  ((List.range 64).map fun i => AMap.get 0 [(0, 0x47), (1, 0x43), (2, 0x48), (3, 0x54), (4, 1), (6, 1), (8, 0xFF), (9, 0xFF), (10, 0xFF), (11, 0xFF)] i,
   [(List.range 32).map fun i => AMap.get 0 [(0, b), (9, 1)] i])
theorem chain_at_start (r va : Nat) (h : fieldAt (cmdBytes [(0, 5), (16, va % 256), (17, va / 256), (24, r)]) 0 1 = 5) (f : Hub → Hub)
    (hf : ∀ h : Hub, (f h).queues = h.queues) :
    AtStart ((queued (chainCmd r va .start)).updHub f) 3 5 ⟨0, cmdBytes [(0, 5), (16, va % 256), (17, va / 256), (24, r)], .start⟩ := by
  refine ⟨?_, rfl, h⟩
  show ((f _).queue 3).cur = _
  unfold Hub.queue
  rw [hf]; rfl
theorem test_chains_start :
    (let s := (queued (chainCmd 0 0 .start)).updHub fun h => { h with chain := { h.chain with held := true } }
     AtStart s 3 5 ⟨0, cmdBytes [(0, 5), (16, 0), (17, 0), (24, 0)], .start⟩ ∧ s.hub.chain.held = true ∧ s.hub.chain.owner ≠ some 3) ∧
    (let s := (queued (chainCmd 0 0 .start)).updHub lit
     AtStart s 3 5 ⟨0, cmdBytes [(0, 5), (16, 0), (17, 0), (24, 0)], .start⟩ ∧ s.hub.chain.held = false ∧ s.hub.readTable 3 0 0 = .error (.fails 6 none)) ∧
    (∀ r ∈ [0, 1], fieldAt (cmdBytes [(0, 5), (16, 0), (17, 0), (24, r)]) 24 1 = r) ∧
    (let s := (queued (chainCmd 1 0 .start)).updHub fun h => { h with chain := { h.chain with stopped := true, started := true, owner := some 3 } }
     AtStart s 3 5 ⟨0, cmdBytes [(0, 5), (16, 0), (17, 0), (24, 1)], .start⟩ ∧ s.hub.chain.held = false ∧ s.hub.chain.stopped = true ∧
       s.hub.chain.owner = some 3 ∧ s.hub.chain.started = true) ∧
    (let s := (queued (chainCmd 1 0 .start)).updHub fun h => { h with chain := { h.chain with stopped := true, started := true, owner := some 2 } }
     AtStart s 3 5 ⟨0, cmdBytes [(0, 5), (16, 0), (17, 0), (24, 1)], .start⟩ ∧ s.hub.chain.owner ≠ some 3) :=
  ⟨⟨chain_at_start 0 0 (by decide) _ fun _ => rfl, rfl, by decide⟩, ⟨chain_at_start 0 0 (by decide) _ fun _ => rfl, rfl, rfl⟩, by decide,
    ⟨chain_at_start 1 0 (by decide) _ fun _ => rfl, rfl, rfl, rfl, rfl⟩, ⟨chain_at_start 1 0 (by decide) _ fun _ => rfl, by decide⟩⟩
theorem test_chain_tables_are_read :
    (tabled 0 (hubbed id)).hub.readTable 3 0 0 = .ok (tableOf 0) ∧ firstOffender (tableOf 0).1 (tableOf 0).2 = none ∧
    (readChainHeader (tableOf 0).1).up = 0xFFFF ∧ (readChainHeader (tableOf 0).1).down = 0xFFFF ∧ (tabled 0 (hubbed id)).hub.chain.hellos = [] ∧
    (tabled 0x0C (hubbed id)).hub.readTable 3 0 0 = .ok (tableOf 0x0C) ∧ firstOffender (tableOf 0x0C).1 (tableOf 0x0C).2 = some 0 ∧
    (tabled 0 (hubbed id)).hub.chain.held = false := by
  refine ⟨rfl, by decide, by decide, by decide, by decide, rfl, by decide, by decide⟩
theorem test_far_tables_are_awaited :
    let s := (queued (chainCmd 0 64 .start)).updHub fun h =>
      { h with funcs := [(0, { Func.reset with dircnt := 1 })], hbm := memWrite h.hbm 0 (wordBytes (2 ^ 64 + 3 * 2 ^ 96) 16) }
    AtStart s 3 5 ⟨0, cmdBytes [(0, 5), (16, 64), (17, 0), (24, 0)], .start⟩ ∧ s.hub.chain.held = false ∧
      ∃ l, s.hub.readTable 3 0 64 = .error (.waits l) :=
  ⟨chain_at_start 0 64 (by decide) _ fun _ => rfl, rfl, _, rfl⟩
theorem test_hellos_are_kept_or_not :
    (let s := withChain (fun c => { c with started := true }) (hubbed id)
     s.hub.chain.started = true ∧ s.hub.chain.done = false ∧ s.hub.chain.stopped = false) ∧
    (let s := withChain (fun c => { c with started := true, stopped := true }) (hubbed id)
     s.hub.chain.held = false ∧ s.hub.chain.stopped = true) := by decide

def anEntry : ChainEntry := ⟨0, 1, true, true, true, true, 5, 0, false, 0, 0⟩
/-- The engine examines its head in this cycle. -/
def examining (e : ChainEntry) (f : Chain → Chain) : State :=
  { hubbed fun h => { lit h with queues := [(3, running 5 [] .chain)], chain := f { loaded.chain with entries := [e] } } with tick := 1 }
theorem at_head (e : ChainEntry) : AtHead (examining e id) e := ⟨rfl, ⟨rfl, rfl, rfl, rfl⟩, rfl, Nat.one_pos⟩
theorem test_entries_issue :
    (let s := { demo false false .ct with hub := loaded, tick := 1 }
     AtHead s anEntry ∧ anEntry.kind ≠ 3 ∧ MayIssue s.hub.chain anEntry ∧ s.hub.entryRecord anEntry = .ok [launchNode]) ∧
    MayIssue (examining anEntry id).hub.chain anEntry ∧ (examining anEntry id).hub.entryRecord anEntry = .error (.fails 6 none, 0xFFFF) ∧
    ∃ l n, (farHome (examining anEntry id)).hub.entryRecord anEntry = .error (.waits l, n) :=
  ⟨⟨⟨rfl, ⟨rfl, rfl, rfl, rfl⟩, rfl, Nat.one_pos⟩, by decide, ⟨by decide, by decide, by decide, by decide, by decide⟩, reads_launch.2⟩,
    ⟨by decide, by decide, by decide, by decide, by decide⟩, rfl, _, _, rfl⟩
theorem test_entries_wait :
    (let c := (examining anEntry fun c => { c with act := [some 4] }).hub.chain
     anEntry.nact = true ∧ some anEntry.mb ∉ c.act) ∧
    (let c := (examining anEntry fun c => { c with grad := [none] }).hub.chain
     some anEntry.mb ∈ c.act ∧ anEntry.ngrad = true ∧ some anEntry.mb ∉ c.grad) ∧
    (let e := { anEntry with nact := false, ngrad := false }
     let c := (examining e fun c => { c with stash := [some 1] }).hub.chain
     e.stash = 1 ∧ none ∉ c.stash) ∧
    (let e := { anEntry with nact := false, ngrad := false, stash := 0 }
     let c := (examining e fun c => { c with dview := [false], uview := [false] }).hub.chain
     e.stash ≠ 1 ∧ e.sdown = true ∧ true ∉ c.dview ∧ e.sup = true ∧ true ∉ c.uview) := by decide
def syncEntry : ChainEntry := ⟨3, 0, false, false, false, false, 0, 0, false, 0x10000, 1⟩
theorem test_sync_entries_are_due :
    (∀ leaf ∈ [0x0FFF, 0x1FFF], let s := mapped leaf (examining syncEntry id)
      s.hub.chain.sync = none ∧ syncEntry.kind = 3 ∧ syncEntry.addr < 2 ^ 57 ∧ syncEntry.addr % 8 = 0 ∧ s.hub.homeOf 0 0x10000 = .own ∧ s.hub.syncWait = [] ∧
        (s.hub.walk 0 0x10000).pa = 0 ∧ s.hub.mustHold 0x10000 8 = false ∧ (s.hub.walk 0 0x10000).present = true ∧ (s.hub.walk 0 0x10000).sync = decide (leaf = 0x1FFF)) ∧
    (let s := examining syncEntry fun c => { c with sync := some (.over 0 0 0), acq := true, entries := [syncEntry, anEntry] }
     s.hub.chain.entries[s.hub.chain.head]? = some syncEntry ∧ s.hub.chain.head + 1 < s.hub.chain.entries.length) ∧
    (let s := examining syncEntry fun c => { c with sync := some (.over 0 0 0), acq := true }
     s.hub.chain.entries.length ≤ s.hub.chain.head + 1 ∧ s.hub.chain.owner = some 3 ∧
       (s.hub.queue 3).cur = some ⟨0, cmdBytes [(0, 5)], .chain⟩) ∧
    (examining syncEntry fun c => { c with sync := some (.over 7 0 0) }).hub.chain.sync = some (.over 7 0 0) := by decide
theorem test_sync_entries_acquire : (∀ n ∈ [0, 1], let e := { syncEntry with target := BitVec.ofNat 64 n }
      let s := mapped 0x1FFF (examining e fun c => { c with sync := some (.over 0 0 0) })
      s.hub.chain.sync = some (.over 0 0 0) ∧ s.hub.chain.acq = false ∧ e.addr < 2 ^ 57 ∧ e.addr % 8 = 0 ∧ s.hub.homeOf 0 0x10000 = .own ∧
        (s.hub.walk 0 0x10000).present = true ∧ (s.hub.walk 0 0x10000).sync = true ∧ s.hub.syncWait = []) := by decide
theorem test_sync_entries_wait : (∀ n ∈ [0, 1], let v : Word := BitVec.ofNat 64 n
      let s := (examining syncEntry fun c => { c with sync := some (.sync (.acqG v) 0x10000), acq := true }).updHub fun h =>
        { h with syncWait := [⟨.chain, .acqG v, 0x10000, h.pkg, 512, h.chain.func, none, 0⟩] }
      s.hub.chain.sync = some (.sync (.acqG v) 0x10000) ∧ s.hub.syncWait = [⟨.chain, .acqG v, 0x10000, s.hub.pkg, 512, s.hub.chain.func, none, 0⟩] ∧ s.hub.hbmOpen 0x10000 8 = true) := by decide
/-- The object holds 0: an ACQ.G of 0 is satisfied, one of 1 waits. -/
theorem test_sync_object_is_zero : (mapped 0x1FFF (examining syncEntry fun c => { c with sync := some (.over 0 0 0) })).hub.readHbm 0x10000 8 =
    List.replicate 8 0 := by decide
set_option maxRecDepth 10000 in
/-- R350: the REL.I of a SYNC entry is done in its cycle; the ACQ.G is the next thing to do. -/
theorem test_sync_entry_releases : (match exec .chainSyncEntryIssue (mapped 0x1FFF (examining syncEntry id)) with
    | .next t => (t.hub.chain.sync, leNat (t.hub.readHbm 0x10000 8))
    | _ => (none, 9)) = (some (.over 0 0 0xFFFF), 1) := by decide
theorem test_chain_graphs_complete :
    (let s := (examining { anEntry with nact := false, ngrad := false } fun c =>
        { c with running := some 7, sentDown := true, sentUp := true, entries := [anEntry, anEntry], head := 1 }).updHub fun h =>
          { h with graphs := [aGraph .done 0] }
     s.hub.chain.running = some 7 ∧ s.hub.graphOf 7 = some (aGraph .done 0) ∧ (aGraph .done 0).over = some (0, 0, 0xFFFF) ∧
       s.hub.chain.entries[s.hub.chain.entry]? = some anEntry ∧ s.hub.chain.ctx.act = none ∧ s.hub.chain.ctx.grad = none ∧
       s.hub.chain.sentDown = true ∧ s.hub.chain.sentUp = true ∧ s.hub.chain.head < s.hub.chain.entries.length ∧
       ∀ c ∈ s.cores, c.task.any (fun k => k.graph = 7) = false) ∧
    (let s := (examining anEntry fun c => { c with running := some 0 })
     s.core ∈ s.cores ∧ s.hub.chain.running = some 0 ∧ s.core.task.any (fun k => k.graph = 0) = true) ∧
    { aGraph (.failed 6) 0 with status := 6 }.over = some (6, 0, 0xFFFF) := by decide
theorem test_slots_open_and_fill :
    (let s := withChain (fun c => { c with tenant := 5, header := { c.header with up := 2, down := 2 } }) (hubbed id)
     (∀ g ∈ [false, true], (packet 8 0 (.slotFree g 15)).tenant = s.hub.chain.tenant ∧
       (packet 8 0 (.slotFree g 15)).src = (if g then s.hub.chain.header.up else s.hub.chain.header.down))) ∧
    (packet 8 0 (.payload true 0 5 [] true)).tenant ≠ (hubbed id).hub.chain.tenant ∧
    (∀ up ∈ [false, true], ∀ last ∈ [false, true],
      let s := withChain (fun c =>
        { c with tenant := 5, act := [none], grad := [none], header := { c.header with up := 2, down := 2, abase := 0x10000, gbase := 0x10000 } })
        (paged 0x0FFF)
      let p := packet 8 0 (.payload up 0 5 [⟨0xFFFF, [1], []⟩] last)
      p.tenant ≠ 0 ∧ p.tenant = s.hub.chain.tenant ∧ p.src = (if up then s.hub.chain.header.down else s.hub.chain.header.up) ∧
        0 < (if up then s.hub.chain.grad else s.hub.chain.act).length ∧
        (if up then s.hub.chain.header.gradBase 0 else s.hub.chain.header.actBase 0).toNat + 0xFFFF = 0x1FFFF ∧ 0x1FFFF % 65536 + 1 ≤ 65536 ∧
        s.hub.moving 0 0x1FFFF = none ∧ s.hub.migrations = [] ∧ s.hub.mustHold 0x1FFFF 1 = false) := by decide
theorem test_payload_pages_are_found : ∃ x, (paged 0x0FFF).ingressOf 0 0x1FFFF (some 5) false false = .ok x ∧
    x.pa + 0x1FFFF % pageBytes x.psize = 0x1FFFF := ⟨_, rfl, by decide⟩
/-- What a launch record holds does not lie with the chain engine. -/
theorem launch_any_chain (h : Hub) (c : Chain) (a b d : Nat) : ({ h with chain := c } : Hub).readLaunch a b d = h.readLaunch a b d := rfl
/-- R348: an entry that has issued as graph 9, whose launch record is to be read still. -/
def issued9 : Chain := { loaded.chain with running := some 9 }
theorem test_entries_are_launched_late :
    (let s := { demo false false .ct with hub := { loaded with chain := issued9 }, tick := 1 }
     s.hub.chain.running = some 9 ∧ s.hub.graphOf 9 = none ∧ s.hub.chain.entries[s.hub.chain.entry]? = some anEntry ∧ s.hub.entryRecord anEntry = .ok [launchNode]) ∧
    (let s := examining anEntry fun c => { c with running := some 9 }
     s.hub.graphOf 9 = none ∧ s.hub.entryRecord anEntry = .error (.fails 6 none, 0xFFFF)) :=
  ⟨⟨rfl, rfl, rfl, (launch_any_chain loaded issued9 chainReader 0 0).trans reads_launch.2⟩, rfl, rfl⟩

/-! Power, ember saves and the operation of the fleet. -/

def withPower (f : Power → Power) : State := hubbed fun h => { h with power := f h.power }
def savedHub (r : Queue) : HubSave := ⟨[(3, r)], [3], [], [], [], Chain.reset, [⟨3, 0, 0, 9, true⟩]⟩
def ember (r : Queue) (whole : Bool) : Ember := ⟨⟨0x45484347, 1, 0, 0, 0, 256, emberDigest (savedHub r) [], if whole then 0xA5 else 0⟩, savedHub r, [], 0⟩
theorem test_power_steps_are_due :
    ((withPower id).hub.power.next = some (0, 0) ∧ 0 ≤ (withPower id).tick) ∧
    (withPower fun p => { p with next := some (55, 1) }).tick < 1 ∧ (withPower id).hub.power.ember = false ∧
    (withPower fun p => { p with ember := true }).hub.power.ember = true := by decide
theorem test_drains_time_out :
    (let s := ((inFlight (.ordLoad 4 (.remote 2 8) 8 false) .away).updCore fun c => { c with status := .halted }).updHub fun h => { h with emberEnd := some 0 }
     s.hub.emberEnd = some 0 ∧ 0 ≤ s.tick ∧ s.core.task.isSome = true ∧ s.core.status = .halted ∧
       s.core.flight = [flying (.ordLoad 4 (.remote 2 8) 8 false) .away]) ∧
    (let s := ((inFlight (.sync .syrd (.remote 2 8) 8 (some 4)) .away).updCore fun c => { c with status := .killed }).updHub fun h => { h with emberEnd := some 0 }
     s.hub.emberEnd = some 0 ∧ 0 ≤ s.tick ∧ s.core.task.isSome = true ∧ s.core.status = .killed ∧
       s.core.flight = [flying (.sync .syrd (.remote 2 8) 8 (some 4)) .away]) ∧
    (let s := hubbed fun h => { h with emberEnd := some 0 }
     s.hub.emberEnd = some 0 ∧ ∀ c ∈ s.cores, c.drained = true) := by decide
theorem test_images_are_written_and_resumed :
    (let s := (withPower fun p => { p with ember := true }).updHub fun h => { h with image := some (ember Queue.reset false) }
     let s := s.updCore fun c => { c with task := none }
     s.hub.image.isSome = true ∧ (ember Queue.reset false).whole = false ∧ s.hub.power.ember = true ∧ ∀ c ∈ s.cores, c.task = none) ∧
    (let e := ember (running 1 [] (.graph 7)) true
     let s := hubbed fun h => { h with image := some e, embstat := true }
     s.hub.embstat = true ∧ (AMap.get Queue.reset e.hub.queues 3).cur = some ⟨0, cmdBytes [(0, 1)], .graph 7⟩) ∧
    (let e := ember { Queue.reset with op := some 4 } true
     let x := AMap.get Queue.reset e.hub.queues 3
     x.cur = none ∧ x.op = some 4 ∧ ⟨3, 0, 0, 9, true⟩ ∈ e.hub.marks ∧ e.records = []) ∧
    (let r := running 5 [] .chain
     let e := { ember r true with hub := { savedHub r with chain := { Chain.reset with owner := some 3, done := true } } }
     (AMap.get Queue.reset e.hub.queues 3).cur = some ⟨0, cmdBytes [(0, 5)], .chain⟩ ∧ e.hub.chain.owner = some 3 ∧ e.hub.chain.done = true ∧
       ⟨3, 0, 0, 9, true⟩ ∈ e.hub.marks ∧ (AMap.get Queue.reset e.hub.queues 3).tenant = 0 ∧ e.hub.chain.graphEnd ≤ 0) ∧
    (hubbed id).hub.embstat = false := by decide
/-- R433: an image with its digest, the specimen and the version is usable. -/
theorem test_images_are_usable (r : Queue) : (ember r true).head.digest = emberDigest (ember r true).hub (ember r true).records ∧
    (ember r true).head.specimen = State.reset.hub.specimen ∧ (ember r true).head.ever = 1 ∧ (ember r true).whole = true :=
  ⟨rfl, rfl, rfl, rfl⟩
/-- One record is saved since the save began; its node is to be kept. -/
theorem test_saved_records_are_kept : let s := (hubbed id).updHub fun h => { h with image := some (ember Queue.reset false), saved := [⟨7, 0, (hubbed id).core⟩] }
    s.hub.saved[(ember Queue.reset false).before + 0]? = some ⟨7, 0, (hubbed id).core⟩ := rfl

def checkpointed (f : Ckpt → Ckpt) : State := hubbed fun h => { lit h with ckpt := f h.ckpt }
/-- R437: a stack that holds no staged page has room for one. -/
theorem one_page_fits (h : Hub) (hs : h.ckpt.staged = []) (p : Nat) : h.stagingFull [p] = false := by
  simp [Hub.stagingFull, hs, stagingRoom]
theorem test_held_writes_are_due : let w : HeldWrite := ⟨2, 0x4FFFF, [1], []⟩
    let s := (checkpointed fun c => { c with ctl := 1, pages := [4] }).updHub fun h => { h with heldWrites := [w] }
    s.hub.heldWrites.find? s.hub.admits = some w ∧ 4 * 65536 < w.pa + w.bytes.length ∧ w.pa < 4 * 65536 + 65536 := by
  refine ⟨List.find?_cons_of_pos ?_, by decide, by decide⟩
  unfold Hub.admits
  simp only [List.length_singleton, Bool.and_eq_true, Bool.not_eq_true']
  refine ⟨by decide, ?_⟩
  exact one_page_fits _ rfl 4
theorem test_marks_and_copies_are_due :
    (let s := checkpointed fun c => { c with asked := some (9, [0, 1, 2, 3, 4, 5, 6, 7]) }
     s.hub.ckpt.asked = some (9, [0, 1, 2, 3, 4, 5, 6, 7]) ∧ 7 ∈ [0, 1, 2, 3, 4, 5, 6, 7] ∧ s.hub.stackOpen 7 = true ∧ (hubbed id).hub.stackOpen 7 = false ∧ s.hub.ckpt.pages = []) ∧
    (let s := checkpointed fun c => { c with asked := some (9, [0, 1, 2, 3, 4, 5, 6, 7]), pages := [4] }
     s.hub.ckpt.pages ≠ []) ∧
    (let s := checkpointed fun c => { c with ctl := 1, pages := [12582911, 4], staged := [(4, [], [])] }
     s.hub.ckpt.pages = 12582911 :: [4] ∧ s.hub.ckpt.ctl.getLsbD 0 = true ∧ s.hub.ckpt.ctl.getLsbD 1 = false ∧
       (∀ x ∈ s.hub.ckpt.staged, x.1 ≠ 12582911) ∧ s.hub.ckpt.staged.find? (fun x => x.1 = 4) = some (4, [], [])) ∧
    (checkpointed id).hub.heldWrites.find? (checkpointed id).hub.admits = none := by decide
def sounded (f : Sounding → Sounding) : State :=
  (hubbed fun h => { h with sounding := f h.sounding }).updCore fun c => { c with task := none, status := .free }
theorem test_soundings_are_due :
    (let s := sounded fun x => { x with armed := true, mask := 2 ^ 41 }
     s.hub.sounding.armed = true ∧ s.hub.sounding.opened = false ∧ s.hub.sounding.start.toNat ≤ s.tick) ∧
    (sounded id).hub.sounding.armed = false ∧ (sounded fun x => { x with armed := true, start := 1 }).tick < 1 ∧
    (let s := sounded fun x => { x with opened := true, todo := [0] }
     s.hub.sounding.opened = true ∧ s.hub.sounding.todo = 0 :: [] ∧ s.hub.sounding.cur = none ∧ s.hub.well.halted = false ∧
       s.hub.power.ember = false ∧ ∀ k ∈ s.cores, 21 * k.die + k.cluster = 0 → k.task = none ∧ k.status = .free) ∧
    (let s := sounded fun x => { x with cur := some (41, 0, true), todo := [41] }
     s.hub.sounding.cur = some (41, 0, true) ∧ 0 ≤ s.tick) ∧ (sounded fun x => { x with cur := some (41, 1, false) }).tick < 1 := by decide
theorem test_records_sensors_and_errors_are_due :
    (hubbed fun h => { h with newMap := [(1, [])] }).hub.newMap = (1, []) :: [] ∧
    (∀ p ∈ [0, 1, 2], (hubbed fun h => { h with well := { h.well with policy := [0, 0, 0, 0, p] } }).hub.well.policy.getD 4 0 = p) ∧
    ((hubbed id).coreAt 0 = some (hubbed id).core ∧ (hubbed id).cores.length = 1) ∧ (hubbed id).hub.takeover = none := by decide
/-- R439: a record with SEQ 0 is refused. -/
theorem test_a_record_is_refused : ¬ConfigRecordOk (hubbed id).hub ((hubbed id).hub.readHbm 0 264) := by
  intro h
  exact absurd h.1 (by decide)

/-! The machine as a whole. -/

/-- The sequencer in turn is to fetch the parcels from address 0 of its code on. -/
def fetching (ws : List Nat) : State := (hubbed id).updCore fun c =>
  { c with task := some (placedTask { placedImage with segs := List.replicate 4 ⟨[0], none, 0, 65536, Machine.parcelBytes ws⟩ }) }
theorem test_units_are_fetched :
    (let s := fetching [0xEC0B2800]
     (s.agenda = [] ∧ s.phase = .issue ∧ s.core.mayIssue s.who = true) ∧ ¬(s.who = .ct ∧ inRuntime s.seq.pc.toNat = true) ∧
       s.core.stalls s.who = false) ∧
    (let s := fetching [0xEC0B2800]
     (match decode (s.codeAt s.who s.seq.pc.toNat) with
       | .unit i n true => i == .wrsr sh ⟨0x0B, 5⟩ && n == 1 && s.core.deltaDone s.who ((i.info.map (issueDelta i)).getD 0) && s.unitMarked n == none
       | _ => false) = true) ∧
    (let s := fetching [0xFFFFFFFF]
     (match decode (s.codeAt s.who s.seq.pc.toNat) with
       | .bad _ => s.core.deltaDone s.who (badDelta (toParcels (s.codeAt s.who s.seq.pc.toNat))) &&
           s.unitMarked (badLen (toParcels (s.codeAt s.who s.seq.pc.toNat))) == none
       | _ => false) = true ∧ s.core.yields .ct = false ∧ s.core.tl < 2) ∧
    ((hubbed id).updCore fun c => { c with status := .halted }).core.mayIssue .ct = false := by decide
/-- R296: the third byte of a unit, or of bytes that are none, is marked. -/
theorem test_marked_fetches_are_due : ∀ w ∈ [0xEC0B2800, 0xFFFFFFFF],
    let s := (fetching [w]).updHub fun h => { h with hbmUe := [2] }
    (match decode (s.codeAt s.who s.seq.pc.toNat) with
      | .unit i n _ => s.core.deltaDone s.who ((i.info.map (issueDelta i)).getD 0) && s.unitMarked n == some 2
      | .bad _ => s.core.deltaDone s.who (badDelta (toParcels (s.codeAt s.who s.seq.pc.toNat))) &&
          s.unitMarked (badLen (toParcels (s.codeAt s.who s.seq.pc.toNat))) == some 2) = true ∧ s.core.yields .ct = false ∧ s.core.tl < 2 := by decide
def pulsing (ph : Phase) (f : Core → Core) : State :=
  { (withPower fun p => { p with unitLevel := List.replicate 56 (some 0) }).updCore f with phase := ph }
theorem test_pulses_are_due :
    (let w : MrfWrite := ⟨1, 0, 0, 5, Vec.zero, 0x80000001, true⟩
     let s := pulsing .begin fun c => { c with mwr := [w], accWr := [⟨1, 0, .zero 2047 1⟩], drives := [⟨0, 1, 14, Vec.zero⟩] }
     s.delivered = true ∧ s.core.status = .running ∧ s.core.replayLeft = 0 ∧ s.core.tl = 0 ∧ s.core.mxWait = false ∧ s.core.resuming = false ∧
       s.core.restored = false ∧ s.core.drainForms = false ∧ s.core.ilk = 0 ∧ s.core.lateForms = [] ∧ s.core.topk = [] ∧
       s.core.mwr.filter (fun w => w.fin = s.core.cycle) = [w] ∧ s.core.accWr.filter (fun w => w.cyc = s.core.cycle) = [⟨1, 0, .zero 2047 1⟩] ∧
       (s.core.drives.map fun d => (d.cyc, d.pos)) = [(0, 14)]) ∧
    (let s := pulsing .begin fun c => { c with mxWait := true }
     s.core.mxWait = true ∧ s.core.status = .running ∧ s.core.restored = false ∧ s.core.resuming = false ∧ s.core.drainForms = false ∧
       s.core.tookTrap = false) ∧
    (let s := pulsing .begin fun c => { c with tl := 2, preTrap := some ⟨1, 0, 0, 0, 0⟩ }
     s.core.tl ≠ 0 ∧ s.core.portable = false ∧ s.core.status = .running) ∧ (hubbed id).delivered = false ∧
    (let s := pulsing .close fun c => { c with posts := [⟨4, .ct, 0, 0, 63⟩] }
     s.core.cmds = [] ∧ s.core.posts = [⟨4, .ct, 0, 0, 63⟩]) ∧
    (∀ n ∈ [1, 2], let s := { pulsing .rotate id with turns := n, parked := [(demo false false .ct).core] }
      s.parked.length = 1 ∧ (1 < s.turns ∨ ∀ c ∈ s.cores, c.landing = [])) ∧
    (demo false false .ct).delivered = false := by decide
theorem test_accumulator_columns_land :
    let s := pulsing .begin fun c => { c with accWr := [⟨1, 0, .cols 5 [(127, 3)]⟩] }
    s.core.accWr.filter (fun w => w.cyc = s.core.cycle) = [⟨1, 0, .cols 5 [(127, 3)]⟩] ∧ ([(127, (3 : BitVec 32))].map Prod.fst).Nodup := by decide
theorem test_a_small_machine_is_legal : (demo false false .ct).legal = true := by decide

end Sys2Proof.Tests
end

section
/-!
Timed results (R16, R27, R31, R35, R157, R325): the register writes, row values and frozen cycles that the events of the timed domain
bring about.
-/

namespace Sys2Proof.Machine

open Sys2Proof

/-! What an update of the core leaves alone. -/

/-- The post of an instruction that completes is its SIGNAL post (R16). -/
theorem post_postsSignal (c : Core) (p : Pending) : PostsSignal p c (c.post p.id p.q p.pc p.sig) := by
  unfold PostsSignal Core.post
  cases byteTokens p.sig with
  | none => simp
  | some w => rfl

theorem SameMemory.updCore {s : State} {g : Core → Core} (h : (g s.core).spad = s.core.spad) : SameMemory s (s.updCore g) :=
  ⟨fun _ => rfl, fun _ => rfl, fun a => by rw [State.updCore_core, h], rfl⟩

theorem SameStores.of_eq {c d : Core} (mrf : d.mrf = c.mrf) (acc : d.acc = c.acc) (hnd : d.hnd = c.hnd) (bf : d.bf = c.bf)
    (bx : d.bx = c.bx) : SameStores c d where
  mrf _ := by rw [mrf]
  acc _ _ := by rw [Core.getAcc, Core.getAcc, acc]
  hnd _ := by rw [Core.getH, Core.getH, hnd]
  bf _ := by rw [Core.getBf, Core.getBf, bf]
  bx _ := by rw [bx]

theorem SameStores.trans {a b c : Core} (h : SameStores a b) (h' : SameStores b c) : SameStores a c where
  mrf k := (h'.mrf k).trans (h.mrf k)
  acc r n := (h'.acc r n).trans (h.acc r n)
  hnd r := (h'.hnd r).trans (h.hnd r)
  bf k := (h'.bf k).trans (h.bf k)
  bx k := (h'.bx k).trans (h.bx k)

theorem SameSpecials.trans {a b c : Core} (h : SameSpecials a b) (h' : SameSpecials b c) : SameSpecials a c := by
  cases h
  cases h'
  constructor <;> simp [*]

theorem SameRegisters.of_seq {c d : Core} (h : ∀ q, d.seq q = c.seq q) : SameRegisters c d where
  x q _ := by rw [h q]
  poison q _ := by rw [h q]
  p q _ := by rw [h q]
  level q _ := by rw [h q]
  tmask q := by rw [h q]
  seed q := by rw [h q]

theorem Core.seq_updSeq_eq (c : Core) (q p : SeqId) (g : Seq → Seq) :
    (c.updSeq q g).seq p = if p = q then g (c.seq p) else c.seq p := by
  split
  · subst p; exact c.seq_updSeq q g
  · exact c.seq_updSeq_ne g ‹_›

theorem Core.seq_writeP (c : Core) (q p : SeqId) (r : BitVec 3) (v : PWord) :
    (c.writeP q r v).seq p = if p = q then (c.seq p).setP r v else c.seq p := by
  rw [← c.seq_updSeq_eq q p fun s => s.setP r v]
  cases p <;> rfl

/-! TIMED_COMPLETION (R16, R157). -/

/-- What the register write of a completing instruction leaves alone on its core: what a program reads but X and P. -/
structure KeepsButXP (c d : Core) : Prop where
  spad : d.spad = c.spad
  stores : SameStores c d
  specials : SameSpecials c d
  loops : SameLoops c d
  pcs : ∀ q, (d.seq q).pc = (c.seq q).pc

theorem KeepsButXP.refl (c : Core) : KeepsButXP c c :=
  ⟨rfl, .of_eq rfl rfl rfl rfl rfl, by constructor <;> simp, fun _ => ⟨rfl, rfl⟩, fun _ => rfl⟩

theorem KeepsButXP.trans {a b c : Core} (h : KeepsButXP a b) (h' : KeepsButXP b c) : KeepsButXP a c where
  spad := h'.spad.trans h.spad
  stores := h.stores.trans h'.stores
  specials := h.specials.trans h'.specials
  loops q := ⟨(h'.loops q).1.trans (h.loops q).1, (h'.loops q).2.trans (h.loops q).2⟩
  pcs q := (h'.pcs q).trans (h.pcs q)

theorem keepsButXP_post (c : Core) (n : Nat) (q : SeqId) (pc : Word) (sig : BitVec 8) : KeepsButXP c (c.post n q pc sig) where
  spad := by simp
  stores := .of_eq (by simp) (by simp) (by simp) (by simp) (by simp)
  specials := by constructor <;> simp
  loops p := by simp
  pcs p := by simp

theorem keepsButXP_updSeq (c : Core) (q : SeqId) {g : Seq → Seq}
    (hg : ∀ v, (g v).pc = v.pc ∧ (g v).loops = v.loops ∧ (g v).ended = v.ended) : KeepsButXP c (c.updSeq q g) where
  spad := by simp
  stores := .of_eq (by simp) (by simp) (by simp) (by simp) (by simp)
  specials := by constructor <;> simp
  loops p := by rw [c.seq_updSeq_eq]; split <;> simp [hg]
  pcs p := by rw [c.seq_updSeq_eq]; split <;> simp [hg]

theorem keepsButXP_setX (c : Core) (q : SeqId) (r : BitVec 5) (v : Word) (b : Bool) :
    KeepsButXP c (c.updSeq q fun s => s.setX r v b) :=
  keepsButXP_updSeq c q fun _ => by simp

/-- Beyond the register itself `writeP` only notes the old value for CHKR (R186). -/
theorem keepsButXP_writeP (c : Core) (q : SeqId) (r : BitVec 3) (v : PWord) : KeepsButXP c (c.writeP q r v) :=
  (keepsButXP_updSeq c q fun _ => by simp).trans (b := c.updSeq q fun s => s.setP r v)
    ⟨rfl, .of_eq rfl rfl rfl rfl rfl, by constructor <;> simp [Core.writeP], fun p => by cases p <;> exact ⟨rfl, rfl⟩,
      fun p => by cases p <;> rfl⟩

/-- The state in which a completing instruction is no longer in flight. -/
def State.withoutDone (s : State) (n : Nat) : State :=
  s.updCore fun c => { c with done := c.done.filter fun p => p.id != n }

/-- TIMED_COMPLETION of an instruction that is due: it leaves the list, its writes land, its post is made. -/
theorem exec_timedCompletion_of_due {n : Nat} {s : State} {p : Pending} (hp : s.core.done.find? (fun x => x.id = n) = some p)
    (hdue : s.core.completes p = true) :
    exec (.timedCompletion n) s =
      .next ((p.writes.foldl State.landWrite (s.withoutDone n)).updCore fun c => c.post p.id p.q p.pc p.sig) := by
  show execTimedCompletion n s = _
  simp only [execTimedCompletion, hp, hdue, State.withoutDone]
  rfl

@[simp] theorem State.seq_withoutDone (s : State) (n : Nat) (q : SeqId) : (s.withoutDone n).core.seq q = s.core.seq q := by
  cases q <;> rfl

theorem keepsButXP_withoutDone (s : State) (n : Nat) : KeepsButXP s.core (s.withoutDone n).core :=
  ⟨rfl, .of_eq rfl rfl rfl rfl rfl, by constructor <;> simp [State.withoutDone], fun q => by simp, fun q => by simp⟩

/-- What a completion does whatever register it writes: the post is made, the instruction is no longer in flight, and all else but X
and P stays. -/
structure Completed (n : Nat) (p : Pending) (s t : State) : Prop where
  posts : PostsSignal p s.core t.core
  done : t.core.done = s.core.done.filter (fun x => x.id != n)
  memory : SameMemory s t
  core : KeepsButXP s.core t.core

/-- A completion whose writes amount to an update `g` of the core that keeps all but X and P: its sequencers end as `g` leaves them. -/
theorem completed_of_landing {n : Nat} {s : State} {p : Pending} {g : Core → Core}
    (hp : s.core.done.find? (fun x => x.id = n) = some p) (hdue : s.core.completes p = true)
    (hland : p.writes.foldl State.landWrite (s.withoutDone n) = (s.withoutDone n).updCore g)
    (hg : ∀ c, KeepsButXP c (g c) ∧ (g c).done = c.done ∧ (g c).posts = c.posts) :
    ∃ t, exec (.timedCompletion n) s = .next t ∧ Completed n p s t ∧ ∀ q, t.core.seq q = (g (s.withoutDone n).core).seq q := by
  obtain ⟨hkeep, hdone, hposts⟩ := hg (s.withoutDone n).core
  have hcore := ((keepsButXP_withoutDone s n).trans hkeep).trans (keepsButXP_post _ p.id p.q p.pc p.sig)
  refine ⟨_, (exec_timedCompletion_of_due hp hdue).trans (by rw [hland]), ⟨?posts, ?done, ?memory, hcore⟩, fun q => by simp⟩
  case posts => exact (post_postsSignal _ p).trans (congrArg (· ++ _) hposts)
  case done => exact (Core.post_done ..).trans hdone
  case memory => exact ⟨fun _ => rfl, fun _ => rfl, fun a => congrArg (memGet · a) hcore.spad, rfl⟩

/-! The three completions of R157: with an X write, with a P write, with none. -/

/-- A write of X lands in its register and nowhere else (R10). -/
theorem landsX_setX (c : Core) (q : SeqId) (r : BitVec 5) (v : Word) (b : Bool) :
    LandsX q r v b c (c.updSeq q fun s => s.setX r v b) := by
  intro p t
  rw [c.seq_updSeq_eq]
  by_cases hp : p = q
  · by_cases ht : t = r <;> simp [hp, ht, Seq.getX_setX, Seq.getXP_setX]
  · simp [hp]

/-- A write of P lands in its register and nowhere else (R10). -/
theorem landsP_writeP (c : Core) (q : SeqId) (r : BitVec 3) (v : PWord) : LandsP q r v c (c.writeP q r v) := by
  intro p t
  rw [c.seq_writeP]
  by_cases hp : p = q
  · by_cases ht : t = r <;> simp [hp, ht, Seq.getP_setP]
  · simp [hp]

theorem sameP_setX (c : Core) (q : SeqId) (r : BitVec 5) (v : Word) (b : Bool) :
    SameP c (c.updSeq q fun s => s.setX r v b) := by
  intro p t
  rw [c.seq_updSeq_eq]
  split <;> simp [Seq.getP]

theorem sameX_writeP (c : Core) (q : SeqId) (r : BitVec 3) (v : PWord) : SameX c (c.writeP q r v) := by
  intro p t
  rw [c.seq_writeP]
  split <;> simp [Seq.getX, Seq.getXP]

theorem timedCompletion_writes_x {n : Nat} {s : State} {p : Pending} {q : SeqId} {r : BitVec 5} {v : Word} {b : Bool}
    (hp : s.core.done.find? (fun x => x.id = n) = some p) (hdue : s.core.completes p = true) (hw : p.writes = [.x q r v b]) :
    ∃ t, exec (.timedCompletion n) s = .next t ∧ Completed n p s t ∧ LandsX q r v b s.core t.core ∧ SameP s.core t.core := by
  obtain ⟨t, ht, hc, hseq⟩ := completed_of_landing hp hdue (by rw [hw]; rfl) fun c => ⟨keepsButXP_setX c q r v b, by simp⟩
  refine ⟨t, ht, hc, fun p' r' => ?_, fun p' r' => ?_⟩
  · simpa [hseq] using landsX_setX (s.withoutDone n).core q r v b p' r'
  · simpa [hseq] using sameP_setX (s.withoutDone n).core q r v b p' r'

theorem timedCompletion_writes_p {n : Nat} {s : State} {p : Pending} {q : SeqId} {r : BitVec 3} {v : PWord}
    (hp : s.core.done.find? (fun x => x.id = n) = some p) (hdue : s.core.completes p = true) (hw : p.writes = [.p q r v]) :
    ∃ t, exec (.timedCompletion n) s = .next t ∧ Completed n p s t ∧ LandsP q r v s.core t.core ∧ SameX s.core t.core := by
  obtain ⟨t, ht, hc, hseq⟩ := completed_of_landing hp hdue (by rw [hw]; rfl) fun c => ⟨keepsButXP_writeP c q r v, by simp [Core.writeP]⟩
  refine ⟨t, ht, hc, fun p' r' => ?_, fun p' r' => ?_⟩
  · simpa [hseq] using landsP_writeP (s.withoutDone n).core q r v p' r'
  · simpa [hseq] using sameX_writeP (s.withoutDone n).core q r v p' r'

theorem timedCompletion_writes_nothing {n : Nat} {s : State} {p : Pending}
    (hp : s.core.done.find? (fun x => x.id = n) = some p) (hdue : s.core.completes p = true) (hw : p.writes = []) :
    ∃ t, exec (.timedCompletion n) s = .next t ∧ Completed n p s t ∧ SameRegisters s.core t.core := by
  obtain ⟨t, ht, hc, hseq⟩ := completed_of_landing (g := id) hp hdue (by rw [hw]; rfl) fun c => ⟨.refl c, rfl, rfl⟩
  exact ⟨t, ht, hc, .of_seq fun q => by simp [hseq]⟩

/-- TIMED_COMPLETION of an instruction that is due and writes one X register, one P register, or none. -/
theorem timedCompletion_lands {n : Nat} {s : State} {p : Pending} (hp : s.core.done.find? (fun x => x.id = n) = some p)
    (hdue : s.core.completes p = true)
    (hkind : (∃ q r v b, p.writes = [.x q r v b]) ∨ (∃ q r v, p.writes = [.p q r v]) ∨ p.writes = []) :
    ∃ t, exec (.timedCompletion n) s = .next t ∧ Completed n p s t ∧
      (∀ q r v b, p.writes = [.x q r v b] → LandsX q r v b s.core t.core ∧ SameP s.core t.core) ∧
      (∀ q r v, p.writes = [.p q r v] → LandsP q r v s.core t.core ∧ SameX s.core t.core) ∧
      (p.writes = [] → SameRegisters s.core t.core) := by
  rcases hkind with ⟨q, r, v, b, hw⟩ | ⟨q, r, v, hw⟩ | hw
  · obtain ⟨t, ht, hc, hx⟩ := timedCompletion_writes_x hp hdue hw
    refine ⟨t, ht, hc, fun _ _ _ _ hw' => ?_, by simp [hw], by simp [hw]⟩
    cases hw.symm.trans hw'
    exact hx
  · obtain ⟨t, ht, hc, hP⟩ := timedCompletion_writes_p hp hdue hw
    refine ⟨t, ht, hc, by simp [hw], fun _ _ _ hw' => ?_, by simp [hw]⟩
    cases hw.symm.trans hw'
    exact hP
  · obtain ⟨t, ht, hc, hregs⟩ := timedCompletion_writes_nothing hp hdue hw
    exact ⟨t, ht, hc, by simp [hw], by simp [hw], fun _ => hregs⟩

/-! The flow row (R35, R37). -/

/-- Whether a value stands on a flow at a position in a cycle. -/
def Drive.standsAt (d : Drive) (cyc flow pos : Nat) : Bool := d.cyc = cyc && d.flow = flow && d.pos = pos

theorem Drive.standsAt_iff {d : Drive} {cyc flow pos : Nat} :
    d.standsAt cyc flow pos = true ↔ d.cyc = cyc ∧ d.flow = flow ∧ d.pos = pos := by
  simp [Drive.standsAt, and_assoc]

theorem Core.driven_eq (c : Core) (x f p : Nat) :
    c.driven x f p = (c.drives.find? fun e => e.standsAt x f p).map (·.v) := rfl

/-- A value after a collision with another that is driven (R37). -/
def Drive.collided (e d : Drive) : Drive := if e.standsAt d.cyc d.flow d.pos then { e with v := Vec.poisoned } else e

theorem Drive.collided_standsAt (e d : Drive) (x f p : Nat) : (e.collided d).standsAt x f p = e.standsAt x f p := by
  unfold Drive.collided
  split <;> rfl

theorem addDrive_eq (ds : List Drive) (d : Drive) :
    addDrive ds d =
      if ds.any (fun e => e.standsAt d.cyc d.flow d.pos) then ds.map (fun e => e.collided d) else ds ++ [d] := rfl

/-- The value found in a place after a collision: poisoned where it collided, the old one elsewhere. -/
theorem find?_map_collided (ds : List Drive) (d : Drive) (x f p : Nat) :
    ((ds.map fun e => e.collided d).find? fun e => e.standsAt x f p).map (·.v) =
      (ds.find? fun e => e.standsAt x f p).map fun e => if d.standsAt x f p then Vec.poisoned else e.v := by
  have hkey : (fun e : Drive => e.standsAt x f p) ∘ (fun e : Drive => e.collided d) = fun e : Drive => e.standsAt x f p :=
    funext fun e => e.collided_standsAt d x f p
  rw [List.find?_map, hkey, Option.map_map]
  refine Option.map_congr fun e he => ?_
  obtain ⟨rfl, rfl, rfl⟩ := Drive.standsAt_iff.1 (List.find?_some (p := fun e : Drive => e.standsAt x f p) he)
  have hcomm : e.standsAt d.cyc d.flow d.pos = d.standsAt e.cyc e.flow e.pos := by
    simp [Drive.standsAt, eq_comm]
  simp only [Function.comp_apply, Drive.collided, hcomm]
  split <;> rfl

/-- The first value in a place is driven, a second one collides with it (R35, R37). -/
theorem Core.drives_drive (c : Core) (cyc flow pos : Nat) (v : Vec) : Drives c (c.drive cyc flow pos v) cyc flow pos v := by
  intro x f p
  have hany : (c.driven cyc flow pos).isSome = c.drives.any fun e => e.standsAt cyc flow pos := by
    rw [Core.driven_eq, Option.isSome_map, List.isSome_find?]
  have hplace : Drive.standsAt ⟨cyc, flow, pos, v⟩ x f p = true ↔ x = cyc ∧ f = flow ∧ p = pos := by
    rw [Drive.standsAt_iff, eq_comm, eq_comm (a := flow), eq_comm (a := pos)]
  rw [Core.driven_eq, Core.drive, addDrive_eq, hany]
  by_cases hit : c.drives.any (fun e => e.standsAt cyc flow pos) = true
  · rw [if_pos hit, find?_map_collided]
    simp only [hplace, hit, if_true]
    split
    next h =>
      obtain ⟨rfl, rfl, rfl⟩ := h
      obtain ⟨e, he⟩ := Option.isSome_iff_exists.1 (List.isSome_find?.trans hit)
      rw [he]
      rfl
    next => rfl
  · rw [if_neg hit, List.find?_append, List.find?_singleton]
    simp only [hplace, hit]
    split
    next h =>
      obtain ⟨rfl, rfl, rfl⟩ := h
      have hnone := List.find?_eq_none.2 fun e he => mt (List.any_of_mem he) hit
      simp [hnone]
    next => simp [Core.driven_eq]

/-! SLOT_RESULT, MRF_ACCESS_START and the interlock. -/

/-- The core after a slot's result is driven (R35, R84). -/
def Core.drivesResult (c : Core) (r : SlotRes) : Core :=
  ({ c with
    slotRes := c.slotRes.filter fun x => x.id != r.id
    pend := c.pend ++ if r.fpInv then [(⟨.mx, 0x12, some r.pc, 0, false, c.tl, false⟩ : PendCause)] else [] }).drive c.cycle r.flow r.pos r.v

theorem exec_slotResult_of_due {s : State} {r : SlotRes} (hr : s.core.slotRes.find? (fun x => x.id = r.id) = some r)
    (hdue : r.due = s.core.cycle) (hf : r.flow < 16) : exec (.slotResult r.id) s = .next (s.updCore (·.drivesResult r)) := by
  show execSlotResult r.id s = _
  simp only [execSlotResult, hr, hdue, bne_self_eq_false, Bool.false_eq_true, if_false, hf, if_true]
  cases h : r.fpInv <;> simp [State.updCore, Core.drivesResult, Core.drive, Cause.fpInvalid, h]

theorem slotResult_drives {s : State} {r : SlotRes} (hr : s.core.slotRes.find? (fun x => x.id = r.id) = some r)
    (hdue : r.due = s.core.cycle) (hf : r.flow < 16) :
    ∃ t, exec (.slotResult r.id) s = .next t ∧ t.core.slotRes = s.core.slotRes.filter (fun x => x.id != r.id) ∧
      Drives s.core t.core s.core.cycle r.flow r.pos r.v ∧ SameMemory s t ∧ SameRegisters s.core t.core ∧ SameStores s.core t.core ∧
      t.core.pend = s.core.pend ++ if r.fpInv then [⟨.mx, 0x12, some r.pc, 0, false, s.core.tl, false⟩] else [] :=
  ⟨_, exec_slotResult_of_due hr hdue hf, rfl, s.core.drives_drive s.core.cycle r.flow r.pos r.v, .updCore rfl,
    .of_seq fun q => by cases q <;> rfl, .of_eq rfl rfl rfl rfl rfl, rfl⟩

theorem mrfAccessStart_drives {s : State} {r : LateRead} (hr : s.core.lateReads.find? (fun x => x.id = r.id) = some r)
    (hstart : r.start = s.core.cycle) :
    ∃ t, exec (.mrfAccessStart r.id) s = .next t ∧ t.core.lateReads = s.core.lateReads.filter (fun x => x.id != r.id) ∧
      Drives s.core t.core (s.core.cycle + r.occ) r.flow 0 (readVec s.core.mrf r.m) ∧ SameMemory s t ∧
      SameRegisters s.core t.core ∧ SameStores s.core t.core := by
  have hexec : exec (.mrfAccessStart r.id) s = .next (s.updCore fun c =>
      ({ c with lateReads := c.lateReads.filter fun x => x.id != r.id }).drive (c.cycle + r.occ) r.flow 0 (readVec c.mrf r.m)) := by
    show execMrfAccessStart r.id s = _
    simp [execMrfAccessStart, hr, hstart]
  exact ⟨_, hexec, rfl, s.core.drives_drive _ r.flow 0 _, .updCore rfl, .of_seq fun q => by cases q <;> rfl,
    .of_eq rfl rfl rfl rfl rfl⟩

/-- The excess that is due is that of every slot result of the cycle, or more (R325). -/
theorem Core.classExcess_le_excessDue {c : Core} {r : SlotRes} (hr : r ∈ c.slotRes) (hdue : r.due = c.cycle) (hf : r.flow < 16) :
    c.classExcess (r.pos - 1) ≤ c.excessDue := by
  have hmem : c.classExcess (r.pos - 1) ∈
      (c.slotRes.filter fun r => r.due = c.cycle && r.flow < 16).map fun r => c.classExcess (r.pos - 1) :=
    List.mem_map_of_mem (f := fun r : SlotRes => c.classExcess (r.pos - 1)) (List.mem_filter.2 ⟨hr, by simp [hdue, hf]⟩)
  unfold Core.excessDue
  rw [List.foldl_max]
  refine le_max_of_le_right (List.le_max?_getD_of_mem ?_)
  simp only [List.mem_append, hmem, true_or]

theorem interlockFreeze_holds {s : State} (hilk : s.core.ilk = 0) :
    ∃ t, exec .interlockFreeze s = .next t ∧ t.core.ilk = s.core.excessDue ∧ SameMemory s t ∧
      SameRegisters s.core t.core ∧ SameStores s.core t.core := by
  have hexec : exec .interlockFreeze s = .next (s.updCore fun c => { c with ilk := c.excessDue }) := by
    show execInterlockFreeze s = _
    rw [execInterlockFreeze, if_pos hilk]
  exact ⟨_, hexec, rfl, .updCore rfl, .of_seq fun q => by cases q <;> rfl, .of_eq rfl rfl rfl rfl rfl⟩

theorem Core.slotResult_mem_cycleEvents {c : Core} {r : SlotRes} (hr : r ∈ c.slotRes) (hdue : r.due = c.cycle) :
    Instr.slotResult r.id ∈ c.cycleEvents := by
  have hmem : Instr.slotResult r.id ∈ (c.slotRes.filter fun r => r.due = c.cycle).map fun r => .slotResult r.id :=
    List.mem_map_of_mem (f := fun r : SlotRes => Instr.slotResult r.id) (List.mem_filter.2 ⟨hr, by simp [hdue]⟩)
  simp only [Core.cycleEvents, List.mem_append, hmem, or_true, true_or]

theorem Core.timedCompletion_mem_cycleEvents {c : Core} {p : Pending} (hp : p ∈ c.done) (hon : p.onCycle = true)
    (hdue : p.due ≤ c.cycle) : Instr.timedCompletion p.id ∈ c.cycleEvents := by
  have hmem : Instr.timedCompletion p.id ∈ (c.done.filter fun p => p.onCycle && p.due ≤ c.cycle).map fun p => .timedCompletion p.id :=
    List.mem_map_of_mem (f := fun p : Pending => Instr.timedCompletion p.id) (List.mem_filter.2 ⟨hp, by simp [hon, hdue]⟩)
  simp only [Core.cycleEvents, List.mem_append, hmem, or_true]

/-- Settles O39: a completion is the landing of its one write, seen as an update of the core that keeps all but X and P
(`timedCompletion_lands`); SLOT_RESULT and MRF_ACCESS_START each drive one vector (`Core.drives_drive`); the interlock holds the maximum of
the excesses that are due. -/
theorem timedResultsArrive : Obligations.TimedResultsArrive := by
  refine ⟨fun n s p hp hdue hkind => ?_, fun q => ⟨q.getX_zero, q.getXP_zero, q.getP_zero⟩,
    fun s r hr hdue hf => slotResult_drives hr hdue hf, fun s r hr hstart => mrfAccessStart_drives hr hstart,
    fun s hilk => ?_, fun s => ⟨_, rfl, rfl, rfl, fun r hr hdue => ?_, fun p hp hon hdue => ?_⟩⟩
  · obtain ⟨t, ht, ⟨hposts, hdone, hmem, hcore⟩, hx, hP, hnone⟩ := timedCompletion_lands hp hdue hkind
    exact ⟨t, ht, hposts, hdone, hmem, hcore.stores, hcore.specials, hcore.loops, hcore.pcs, hx, hP, hnone⟩
  · obtain ⟨t, ht, hilk', hmem, hregs, hstores⟩ := interlockFreeze_holds hilk
    exact ⟨t, ht, hilk', hmem, hregs, hstores, fun r hr hdue hf => hilk' ▸ Core.classExcess_le_excessDue hr hdue hf⟩
  · exact List.mem_append_left _ (Core.slotResult_mem_cycleEvents hr hdue)
  · exact List.mem_append_left _ (Core.timedCompletion_mem_cycleEvents hp hon hdue)

end Sys2Proof.Machine
end

section
/-!
The scalar divides (R85, R137, R157, R161, R284): what a unit that only completes does, what a trap at issue does, and how the
four divides choose between the two.
-/

namespace Sys2Proof.Machine

open Sys2Proof

/-! A timed unit that only completes (R16, R157). -/

theorem Unwritten.completeAfter {i : Instr} {s t : State} (h : Unwritten i s t) (u : Ctx) (lat : Nat) (ws : List RegWrite) :
    Unwritten i s (t.completeAfter u lat ws) where
  memory := ⟨h.memory.hbm, h.memory.host, h.memory.spad, h.memory.others⟩
  registers := by
    obtain ⟨hx, hpoison, hp, hlevel, htmask, hseed⟩ := h.registers
    constructor <;> simpa [State.completeAfter]
  stores := ⟨h.stores.mrf, h.stores.acc, h.stores.hnd, h.stores.bf, h.stores.bx⟩
  specials := by
    obtain ⟨⟩ := h.specials
    constructor <;> assumption
  pcs p hp := by simpa [State.completeAfter] using h.pcs p hp
  tokens := h.tokens

/-- The end of a turn changes nothing that a program reads. -/
theorem Unwritten.afterIssue {i : Instr} {s t : State} (h : Unwritten i s t) (q : SeqId) : Unwritten i s (afterIssue t q) where
  memory := by
    obtain ⟨hhbm, hhost, hspad, hothers⟩ := h.memory
    constructor <;> simpa
  registers := by simpa using h.registers
  stores := by simpa using h.stores
  specials := by simpa using h.specials
  pcs := by simpa using h.pcs
  tokens := by simpa using h.tokens

/-- The completion that a unit notes as it issues is its pending one (R16). -/
theorem done_completeAfter_issued {i : Instr} {f : Info} {s : State} (hf : i.info = some f) (lat : Nat) (ws : List RegWrite) :
    ((issued i f s).completeAfter (ctxOf s f) lat ws).core.done = s.core.done ++ [s.pending i lat ws] := by
  have hsig : unitSignal i = f.signal := by simp [unitSignal, hf]
  show (issued i f s).core.done ++ [⟨(issued i f s).core.nextId, decide (s.who = .mx), (issued i f s).core.now s.who + lat, s.who,
      s.seq.pc, ws, f.signal⟩] =
    s.core.done ++ [⟨s.core.nextId, decide (s.who = .mx), s.core.now s.who + lat, s.who, s.seq.pc, ws, unitSignal i⟩]
  rw [issued_core_done, issued_core_nextId, issued_now, hsig]

/-- A unit that executes, and whose body only notes the writes to come, completes (R157). -/
theorem completes_of_completeAfter {i : Instr} {s : State} {body : Ctx → State → Eff} {lat : Nat} {ws : List RegWrite}
    (hexec : exec i s = issue i s body) (h : s.executes i = true)
    (hbody : ∀ f, i.info = some f →
      body (ctxOf s f) (issued i f s) = .ok ((issued i f s).completeAfter (ctxOf s f) lat ws)) :
    Completes i s lat ws := by
  obtain ⟨f, hf, hissue⟩ := issue_executes h body
  rw [hbody f hf] at hissue
  refine ⟨_, hexec.trans hissue, ?done, ?pc, ?loops,
    ((issued_unwritten i f s hf).completeAfter _ lat ws).afterIssue s.who, by simp [State.completeAfter], by simp [State.completeAfter]⟩
  case done => rw [afterIssue_core]; exact done_completeAfter_issued hf lat ws
  case pc => simp [State.completeAfter, issued_pc, ctxOf, State.nextPc, hf]
  case loops => exact fun q => by simp [State.completeAfter]

/-! A trap at issue (R137, R284 to R286). -/

/-- What noting a trap leaves alone on its core before the trap is entered: all that traps and returns themselves leave alone, and the
trap registers and PCs as well. -/
structure KeepsAtTrap (c d : Core) : Prop where
  core : KeepsButXP c d
  registers : SameRegisters c d
  tokens : d.tok = c.tok
  work : d.flight = c.flight ∧ d.cmds = c.cmds ∧ d.done = c.done ∧ d.posts = c.posts

theorem SameRegisters.trans {a b c : Core} (h : SameRegisters a b) (h' : SameRegisters b c) : SameRegisters a c where
  x q r := (h'.x q r).trans (h.x q r)
  poison q r := (h'.poison q r).trans (h.poison q r)
  p q r := (h'.p q r).trans (h.p q r)
  level q n := (h'.level q n).trans (h.level q n)
  tmask q := (h'.tmask q).trans (h.tmask q)
  seed q := (h'.seed q).trans (h.seed q)

theorem KeepsAtTrap.trans {a b c : Core} (h : KeepsAtTrap a b) (h' : KeepsAtTrap b c) : KeepsAtTrap a c where
  core := h.core.trans h'.core
  registers := h.registers.trans h'.registers
  tokens := h'.tokens.trans h.tokens
  work := by
    obtain ⟨hflight, hcmds, hdone, hposts⟩ := h.work
    obtain ⟨hflight', hcmds', hdone', hposts'⟩ := h'.work
    exact ⟨hflight'.trans hflight, hcmds'.trans hcmds, hdone'.trans hdone, hposts'.trans hposts⟩

/-- An update of one sequencer that leaves what a program reads of it. -/
theorem keepsAtTrap_updSeq (c : Core) (q : SeqId) {g : Seq → Seq}
    (hpc : ∀ v, (g v).pc = v.pc ∧ (g v).loops = v.loops ∧ (g v).ended = v.ended)
    (hreg : ∀ v, (g v).x = v.x ∧ (g v).xp = v.xp ∧ (g v).p = v.p ∧ (g v).cl = v.cl ∧ (g v).tmask = v.tmask ∧ (g v).srseed = v.srseed) :
    KeepsAtTrap c (c.updSeq q g) where
  core := keepsButXP_updSeq c q hpc
  registers := by
    constructor <;> intro p <;> rw [c.seq_updSeq_eq] <;> split <;> simp [Seq.getX, Seq.getXP, Seq.getP, Seq.getCl, hreg]
  tokens := by simp
  work := by simp

theorem keepsAtTrap_noteOver (c : Core) (q : SeqId) (cause : Cause) : KeepsAtTrap c (c.noteOver q cause) := by
  unfold Core.noteOver
  split
  · exact ⟨⟨rfl, .of_eq rfl rfl rfl rfl rfl, by constructor <;> simp, fun p => by cases p <;> exact ⟨rfl, rfl⟩, fun p => by cases p <;> rfl⟩,
      .of_seq fun p => by cases p <;> rfl, rfl, rfl, rfl, rfl, rfl⟩
  · exact ⟨.refl c, .of_seq fun _ => rfl, rfl, rfl, rfl, rfl, rfl⟩

/-- The sequencers after a trap is entered: CT stands at the vector of the level, to issue there; the others are as they were. -/
theorem Core.seq_enterTrap {c : Core} (htl : c.tl < 2) (q : SeqId) (cause : Cause) (late : Bool) (epc eaddr : Word) (p : SeqId) :
    (c.enterTrap q cause late epc eaddr).seq p =
      if p = .ct then { c.ct with pc := c.tvec (c.tl + 1), redo := true, minGap := 1, waiting := false } else c.seq p := by
  obtain h | h : c.tl = 0 ∨ c.tl = 1 := by omega
  all_goals cases p <;> simp [Core.enterTrap, Core.seq, Core.tvec, h]

/-- What TrapEntry below TL 2 writes for a cause raised at issue: the level and its registers, and none of the other level's (R284). -/
theorem Core.enterTrap_trapSet {c : Core} (htl : c.tl < 2) (q : SeqId) (cause : Cause) (epc eaddr : Word) :
    (c.enterTrap q cause false epc eaddr).tl = c.tl + 1 ∧
    (c.enterTrap q cause false epc eaddr).trapSet (c.tl + 1) =
      ⟨cause.setWidth 64, epc, eaddr, BitVec.ofNat 64 (seqCode q), if q = .ct then (c.trapSet (c.tl + 1)).ret else c.ct.pc⟩ ∧
    ∀ n, n = 1 ∨ n = 2 → n ≠ c.tl + 1 → (c.enterTrap q cause false epc eaddr).trapSet n = c.trapSet n := by
  obtain h | h : c.tl = 0 ∨ c.tl = 1 := by omega
  all_goals simp [Core.enterTrap, Core.trapSet, h]

theorem Core.trapSet_of_specials {c d : Core} (h : SameSpecials c d) (n : Nat) : d.trapSet n = c.trapSet n := by
  simp [Core.trapSet, h.ecause, h.epc, h.eaddr, h.eseq, h.ret]

theorem Core.tvec_of_specials {c d : Core} (h : SameSpecials c d) (n : Nat) : d.tvec n = c.tvec n := by
  simp [Core.tvec, h.tvec]

/-- TrapEntry below TL 2 leaves alone what traps leave alone (R284). -/
theorem Core.enterTrap_keeps {c : Core} (htl : c.tl < 2) (q : SeqId) (cause : Cause) (late : Bool) (epc eaddr : Word) :
    SameStores c (c.enterTrap q cause late epc eaddr) ∧
    SameSpecials c ((c.enterTrap q cause late epc eaddr).withTrapsOf c) ∧
    (c.enterTrap q cause late epc eaddr).spad = c.spad ∧ (c.enterTrap q cause late epc eaddr).tok = c.tok ∧
    (c.enterTrap q cause late epc eaddr).flight = c.flight ∧ (c.enterTrap q cause late epc eaddr).cmds = c.cmds ∧
    (c.enterTrap q cause late epc eaddr).done = c.done ∧ (c.enterTrap q cause late epc eaddr).posts = c.posts := by
  obtain h | h : c.tl = 0 ∨ c.tl = 1 := by omega
  all_goals
    refine ⟨?stores, ?specials, ?_⟩
    case stores => constructor <;> simp [Core.enterTrap, h, Core.getAcc, Core.getH, Core.getBf]
    case specials => constructor <;> simp [Core.enterTrap, Core.withTrapsOf, h]
    simp [Core.enterTrap, h]

theorem Core.enterTrap_sameRegisters {c : Core} (htl : c.tl < 2) (q : SeqId) (cause : Cause) (late : Bool) (epc eaddr : Word) :
    SameRegisters c (c.enterTrap q cause late epc eaddr) := by
  constructor <;> intro p <;> rw [c.seq_enterTrap htl] <;> split <;> simp [Seq.getX, Seq.getXP, Seq.getP, Seq.getCl, *, Core.seq]

theorem Core.withTrapsOf_of_specials {c d : Core} (h : SameSpecials c d) (e : Core) : e.withTrapsOf d = e.withTrapsOf c := by
  simp [Core.withTrapsOf, h.tl, h.ecause, h.epc, h.eaddr, h.eseq, h.ret]

/-- What the steps of a trap at issue leave alone together: noting it (`d`), then entering it (`t.core`). -/
theorem outsideTraps_of_enterTrap {s t : State} {d : Core} {q : SeqId} {cause : Cause} {epc eaddr : Word}
    (hkeep : KeepsAtTrap s.core d) (htl : d.tl < 2) (hcore : t.core = d.enterTrap q cause false epc eaddr)
    (hhub : t.hub = s.hub) (hparked : t.parked = s.parked) : OutsideTraps s t := by
  obtain ⟨hstores, hspecials, hspad, htok, hflight, hcmds, hdone, hposts⟩ := Core.enterTrap_keeps htl q cause false epc eaddr
  have hregs := Core.enterTrap_sameRegisters htl q cause false epc eaddr
  have hseq := Core.seq_enterTrap htl q cause false epc eaddr
  rw [← hcore] at hstores hspecials hspad htok hflight hcmds hdone hposts hregs hseq
  rw [Core.withTrapsOf_of_specials hkeep.core.specials] at hspecials
  refine ⟨?memory, hkeep.registers.trans hregs, hkeep.core.stores.trans hstores, hkeep.core.specials.trans hspecials,
    fun p => ?loops, fun n => ?tokens, ?work, hhub, hparked⟩
  case memory => exact ⟨by simp [hhub], by simp [hhub], by simp [hspad, hkeep.core.spad], by rw [hparked]⟩
  case loops =>
    rw [hseq]
    split
    · subst p; exact hkeep.core.loops .ct
    · exact hkeep.core.loops p
  case tokens => rw [Core.getTok, htok, hkeep.tokens, Core.getTok]
  case work =>
    obtain ⟨hflight', hcmds', hdone', hposts'⟩ := hkeep.work
    exact ⟨hflight.trans hflight', hcmds.trans hcmds', hdone.trans hdone', hposts.trans hposts'⟩

/-- A trap that is noted (`d`) and then entered is one of `Entered`. -/
theorem entered_of_enterTrap {s t : State} {d : Core} {q : SeqId} {cause : Cause} {epc eaddr : Word}
    (hkeep : KeepsAtTrap s.core d) (htl : s.core.tl < 2) (hcore : t.core = d.enterTrap q cause false epc eaddr)
    (hhub : t.hub = s.hub) (hparked : t.parked = s.parked) : Entered s t q cause epc eaddr := by
  have hsame := hkeep.core.specials
  have hdtl : d.tl < 2 := hsame.tl ▸ htl
  obtain ⟨hlevel, hsaved, hothers⟩ := Core.enterTrap_trapSet hdtl q cause epc eaddr
  have hseq := Core.seq_enterTrap hdtl q cause false epc eaddr
  rw [← hcore] at hlevel hsaved hothers hseq
  simp only [Core.trapSet_of_specials hsame, hsame.tl] at hlevel hsaved hothers
  have hpcs (p : SeqId) (hp : p ≠ .ct) : (t.core.seq p).pc = (s.core.seq p).pc := by rw [hseq, if_neg hp, hkeep.core.pcs]
  refine ⟨hlevel, hsaved.trans ?saved, fun h => hothers 2 (.inr rfl) (by omega), fun h => hothers 1 (.inl rfl) (by omega), ?vector,
    ⟨hpcs .ld nofun, hpcs .mx nofun, hpcs .st nofun⟩, outsideTraps_of_enterTrap hkeep hdtl hcore hhub hparked⟩
  case saved => rw [show d.ct.pc = s.core.ct.pc from hkeep.core.pcs .ct]
  case vector =>
    calc t.core.ct.pc = d.tvec (d.tl + 1) := by rw [show t.core.ct = _ from hseq .ct]; rfl
      _ = s.core.tvec (s.core.tl + 1) := by rw [Core.tvec_of_specials hsame, hsame.tl]

/-- The core of a trap at issue as the trap is entered: the unit is to issue again, and no longer waits (R137). -/
def Core.atTrap (c : Core) (q : SeqId) (cause : Cause) : Core :=
  ((c.updSeq q fun v => { v with redo := true }).noteOver q cause).updSeq q fun v => { v with waiting := false, brkPass := none }

theorem keepsAtTrap_atTrap (c : Core) (q : SeqId) (cause : Cause) : KeepsAtTrap c (c.atTrap q cause) :=
  ((keepsAtTrap_updSeq c q (by simp) (by simp)).trans (keepsAtTrap_noteOver _ q cause)).trans
    (keepsAtTrap_updSeq _ q (by simp) (by simp))

/-- Where the cause does not yield (R286) and the core is below TL 2, a trap at issue is noted and entered. -/
theorem trapAtIssue_eq {s : State} (h : s.mayEnter) (cause : Cause) (eaddr : Word) :
    s.trapAtIssue cause eaddr =
      s.updCore fun c => (c.atTrap s.who cause).enterTrap s.who cause false s.seq.pc eaddr := by
  obtain ⟨hyields, htl⟩ := h
  have hlevel : (s.core.atTrap s.who cause).tl ≠ 2 := by
    rw [(keepsAtTrap_atTrap s.core s.who cause).core.specials.tl]
    omega
  simp only [State.trapAtIssue, hyields, Bool.false_eq_true, if_false, State.raise]
  exact if_neg hlevel

/-- A cause raised at issue below TL 2 is entered, with EPC at the unit (R137, R284). -/
theorem entered_trapAtIssue {s : State} (h : s.mayEnter) (cause : Cause) (eaddr : Word) :
    Entered s (s.trapAtIssue cause eaddr).pass s.who cause s.seq.pc eaddr :=
  have ⟨_, htl⟩ := h
  entered_of_enterTrap (keepsAtTrap_atTrap s.core s.who cause) htl (by rw [State.pass_core, trapAtIssue_eq h]; rfl)
    (by rw [State.pass_hub, trapAtIssue_eq h]; rfl) (by rw [State.pass_parked, trapAtIssue_eq h]; rfl)

/-- A unit that executes, and whose operands trap, enters the trap (R137). -/
theorem trapsWith_of_error {i : Instr} {s : State} {body : Ctx → State → Eff} {cause : Cause} {eaddr : Word}
    (hexec : exec i s = issue i s body) (h : s.executes i = true) (hmay : s.mayEnter)
    (hbody : ∀ f, i.info = some f → body (ctxOf s f) (issued i f s) = .error ⟨cause, eaddr⟩) : TrapsWith i s cause eaddr :=
  ⟨_, hexec.trans (issue_error h body hbody), entered_trapAtIssue hmay cause eaddr⟩

/-! The .w forms and the divides on naturals (R85, R161). -/

theorem signedOf_toNat {w : Nat} (hw : 0 < w) (x : BitVec w) : signedOf w x.toNat = x.toInt := by
  obtain ⟨n, rfl⟩ : ∃ n, w = n + 1 := ⟨w - 1, by omega⟩
  rw [signedOf, BitVec.toInt_eq_toNat_cond, Nat.add_sub_cancel, Nat.pow_succ]
  have hiff : x.toNat < 2 ^ n ↔ 2 * x.toNat < 2 ^ n * 2 := by omega
  simp only [hiff, Nat.cast_mul, Nat.cast_pow, Nat.cast_ofNat, pow_succ]

/-- The result of a width form in its register: that of the low bits, sign-extended. -/
theorem wForm_eq_extended (w : Bool) (f : (n : Nat) → BitVec n → BitVec n → BitVec n) (a b : Word) :
    wForm w f a b = extended (widthOf w) (f (widthOf w) (a.setWidth _) (b.setWidth _)).toNat := by
  cases w
  · simp [wForm, extended, widthOf, signedOf_toNat]
  · simp [wForm, extended, widthOf, signedOf_toNat, BitVec.signExtend]

theorem sInt_eq_signedOf {w a : Nat} (ha : a < 2 ^ w) : sInt w a = signedOf w a := by
  rw [sInt, signedOf, Nat.mod_eq_of_lt ha]
  by_cases h : a < 2 ^ (w - 1)
  · rw [if_neg (by omega), if_pos h]
  · rw [if_pos (by omega), if_neg h]; push_cast; rfl

theorem patternOf_eq_narrow (w : Nat) (x : Int) : patternOf w x = narrow w x := by simp [patternOf, narrow]

theorem narrow_lt (w : Nat) (x : Int) : narrow w x < 2 ^ w := by
  have hpos : (0 : Int) < 2 ^ w := by positivity
  rw [narrow, Int.toNat_lt (Int.emod_nonneg x hpos.ne')]
  exact_mod_cast Int.emod_lt_of_pos x hpos

theorem quotOf_lt {w a : Nat} (signed : Bool) (b : Nat) (ha : a < 2 ^ w) : quotOf signed w a b < 2 ^ w := by
  have hpos : 0 < 2 ^ w := by positivity
  unfold quotOf
  split
  · omega
  · split
    · exact narrow_lt w _
    · exact (Nat.div_le_self a b).trans_lt ha

theorem remOf_lt {w a : Nat} (signed : Bool) (b : Nat) (ha : a < 2 ^ w) : remOf signed w a b < 2 ^ w := by
  unfold remOf
  split
  · exact ha
  · split
    · exact narrow_lt w _
    · exact (Nat.mod_le a b).trans_lt ha

/-! The model's divides on w-bit values are those of the table of R85. -/

theorem divS_eq_quotOf {w a b : Nat} (ha : a < 2 ^ w) (hb : b < 2 ^ w) : divS w a b = quotOf true w a b := by
  simp [divS, quotOf, sInt_eq_signedOf, patternOf_eq_narrow, Nat.mod_eq_of_lt, ha, hb]

theorem divU_eq_quotOf {w a b : Nat} (ha : a < 2 ^ w) (hb : b < 2 ^ w) : divU w a b = quotOf false w a b := by
  simp [divU, quotOf, Nat.mod_eq_of_lt, ha, hb]

theorem remS_eq_remOf {w a b : Nat} (ha : a < 2 ^ w) (hb : b < 2 ^ w) : remS w a b = remOf true w a b := by
  simp [remS, remOf, sInt_eq_signedOf, patternOf_eq_narrow, Nat.mod_eq_of_lt, ha, hb]

theorem remU_eq_remOf {w a b : Nat} (ha : a < 2 ^ w) (hb : b < 2 ^ w) : remU w a b = remOf false w a b := by
  simp [remU, remOf, Nat.mod_eq_of_lt, ha, hb]

/-- The trap of a divide of clean values is that of R85: a zero divisor is never minus one. -/
theorem divTrap_eq_divCause (signed : Bool) (w : Nat) (tmask : Word) (a b : Nat) (hw : 0 < w) :
    divTrap signed w tmask a b = divCause signed w (a % 2 ^ w) (b % 2 ^ w) tmask := by
  have hone : 0 ≠ 2 ^ w - 1 := by have := Nat.one_lt_two_pow hw.ne'; omega
  unfold divTrap divCause
  by_cases hb : b % 2 ^ w = 0
  · simp [hb, hone]
  · simp [hb, and_assoc]

/-! The four divides as they issue (R85). -/

/-- An operation gives the results of a row of R85 on w-bit values, and they are w-bit values. -/
def GivesResultsOf (g f : Nat → Nat → Nat → Nat) : Prop :=
  ∀ w a b, a < 2 ^ w → b < 2 ^ w → g w a b = f w a b ∧ f w a b < 2 ^ w

/-- Each row of R85 issues one body, on an operation that agrees with the table on w-bit values. -/
theorem divRow_exec {i : Instr} {o : RRR} {signed : Bool} {f : Nat → Nat → Nat → Nat} (h : divRow i = some (o, signed, f)) :
    ∃ g, (∀ s, exec i s = issue i s (divide signed o g)) ∧ GivesResultsOf g f := by
  unfold divRow at h
  split at h <;> cases h
  · exact ⟨divS, fun _ => rfl, fun w a b ha hb => ⟨divS_eq_quotOf ha hb, quotOf_lt true b ha⟩⟩
  · exact ⟨divU, fun _ => rfl, fun w a b ha hb => ⟨divU_eq_quotOf ha hb, quotOf_lt false b ha⟩⟩
  · exact ⟨remS, fun _ => rfl, fun w a b ha hb => ⟨remS_eq_remOf ha hb, remOf_lt true b ha⟩⟩
  · exact ⟨remU, fun _ => rfl, fun w a b ha hb => ⟨remU_eq_remOf ha hb, remOf_lt false b ha⟩⟩

theorem widthOf_pos (w : Bool) : 0 < widthOf w := by cases w <;> decide

/-- The value a divide writes is that of the table on the low bits of its sources. -/
theorem wForm_divide {f g : Nat → Nat → Nat → Nat} (hg : GivesResultsOf g f) (w : Bool) (a b : Word) :
    wForm w (fun n x y => BitVec.ofNat n (g n x.toNat y.toNat)) a b =
      extended (widthOf w) (f (widthOf w) (a.toNat % 2 ^ widthOf w) (b.toNat % 2 ^ widthOf w)) := by
  obtain ⟨heq, hlt⟩ := hg (widthOf w) (a.setWidth (widthOf w)).toNat (b.setWidth (widthOf w)).toNat (BitVec.isLt _) (BitVec.isLt _)
  rw [wForm_eq_extended, heq, BitVec.toNat_ofNat, Nat.mod_eq_of_lt hlt, BitVec.toNat_setWidth, BitVec.toNat_setWidth]

theorem issued_x (i : Instr) (f : Info) (s : State) (r : BitVec 5) : (issued i f s).x (ctxOf s f) r = s.seq.getX r :=
  issued_getX i f s s.who r

theorem issued_anyPoison_pair (i : Instr) (f : Info) (s : State) (a b : BitVec 5) :
    (issued i f s).anyPoison (ctxOf s f) [a, b] = (s.bad a || s.bad b) := by
  simp [State.anyPoison, State.xPoison, State.regs, State.bad, State.seq, ctxOf]

/-- The body of a divide as it issues: its result is due where a source is poisoned or R85 has no cause, and it traps with the cause of
R85 where both are clean. -/
theorem divide_issued {f g : Nat → Nat → Nat → Nat} (hg : GivesResultsOf g f)
    (signed : Bool) (o : RRR) (i : Instr) (s : State) (k : Info) {w a b : Nat} (hw : w = widthOf o.w)
    (ha : a = s.src o.a % 2 ^ w) (hb : b = s.src o.b % 2 ^ w) :
    ((s.bad o.a || s.bad o.b || (divCause signed w a b s.seq.tmask).isNone) = true →
      divide signed o g (ctxOf s k) (issued i k s) = .ok ((issued i k s).completeAfter (ctxOf s k) (if o.w then 12 else 20)
        [.x s.who o.d (extended w (f w a b)) (s.bad o.a || s.bad o.b)])) ∧
    ∀ cause, (s.bad o.a || s.bad o.b) = false → divCause signed w a b s.seq.tmask = some cause →
      divide signed o g (ctxOf s k) (issued i k s) = .error ⟨cause, 0⟩ := by
  subst ha hb hw
  have htmask : ((issued i k s).regs (ctxOf s k)).tmask = s.seq.tmask := issued_seq_tmask i k s s.who
  have hcause := divTrap_eq_divCause signed (widthOf o.w) s.seq.tmask (s.src o.a) (s.src o.b) (widthOf_pos o.w)
  simp only [State.src, widthOf] at hcause
  simp only [divide, issued_x, issued_anyPoison_pair, wForm_divide hg, htmask, hcause, State.src, widthOf]
  refine ⟨fun hgoes => ?goes, fun cause hclean hc => ?traps⟩
  case goes =>
    cases hbad : s.bad o.a || s.bad o.b with
    | true => rfl
    | false =>
      rw [hbad, Bool.false_or, Option.isNone_iff_eq_none] at hgoes
      rw [hgoes]
      rfl
  case traps =>
    rw [hclean, hc]
    rfl

/-- Settles O3: each of the four rows issues the body of `divide` (`divRow_exec`), which only notes its write or traps as R85 says
(`divide_issued`). -/
theorem divideResults : Obligations.DivideResults := by
  refine ⟨fun i s o signed f hrow hex hgoes => ?_, fun i s o signed f cause hrow hex hmay hclean hcause => ?_⟩
  all_goals obtain ⟨g, hexec, hg⟩ := divRow_exec hrow
  · exact completes_of_completeAfter (hexec s) hex fun k _ => (divide_issued hg signed o i s k rfl rfl rfl).1 hgoes
  · exact trapsWith_of_error (hexec s) hex hmay fun k _ => (divide_issued hg signed o i s k rfl rfl rfl).2 cause hclean hcause

end Sys2Proof.Machine
end

section
/-!
The loops (R126, R127, R157, R168, R169): what a unit of the control families does to its own sequencer, step by step, and how LOOP,
LOOP.L and ENDL choose between going on, going back and trapping.
-/

namespace Sys2Proof.Machine

open Sys2Proof

/-! A unit of the control families, before its turn ends (R167). -/

/-- What a state on the way from the issue of a unit to the end of its turn has in common with the state before: the unit has done to its
own sequencer what a shape says, and nothing else that a program reads. -/
structure Shaped (i : Instr) (s t : State) (e : Shape) : Prop where
  own : (t.core.seq s.who).pc = e.pc ∧ (t.core.seq s.who).loops = e.loops ∧ (t.core.seq s.who).ended = e.ended
  done : t.core.done = s.core.done ++ e.done
  posts : t.core.posts = s.core.posts ++ e.posts
  others : ∀ q, q ≠ s.who → (t.core.seq q).loops = (s.core.seq q).loops ∧ (t.core.seq q).ended = (s.core.seq q).ended
  unwritten : Unwritten i s t
  work : SameWork s.core t.core
  hub : t.hub = s.hub
  parked : t.parked = s.parked

/-- The bookkeeping of a unit only moves its PC past it. -/
theorem shaped_issued {i : Instr} {f : Info} (hf : i.info = some f) (s : State) :
    Shaped i s (issued i f s) ⟨s.nextPc i, s.seq.loops, s.seq.ended, [], []⟩ where
  own := ⟨by simp [issued_pc, ctxOf, State.nextPc, hf], issued_seq_loops .., issued_seq_ended ..⟩
  done := by simp
  posts := by simp
  others q _ := ⟨issued_seq_loops .., issued_seq_ended ..⟩
  unwritten := issued_unwritten i f s hf
  work := by constructor <;> simp
  hub := rfl
  parked := rfl

/-- An update of a sequencer that leaves its registers alone: all but its PC, its loop stack, its end and its issue times. -/
def KeepsRegisters (g : Seq → Seq) : Prop :=
  ∀ v, (g v).x = v.x ∧ (g v).xp = v.xp ∧ (g v).p = v.p ∧ (g v).cl = v.cl ∧ (g v).tmask = v.tmask ∧ (g v).srseed = v.srseed

theorem SameRegisters.updSeq (c : Core) (q : SeqId) {g : Seq → Seq} (hg : KeepsRegisters g) : SameRegisters c (c.updSeq q g) := by
  constructor <;> intro p <;> rw [c.seq_updSeq_eq] <;> split <;> simp [Seq.getX, Seq.getXP, Seq.getP, Seq.getCl, hg _]

theorem Unwritten.updSeq {i : Instr} {s t : State} (h : Unwritten i s t) {g : Seq → Seq} (hg : KeepsRegisters g) :
    Unwritten i s (t.updCore fun c => c.updSeq s.who g) where
  memory := ⟨h.memory.hbm, h.memory.host, by simpa using h.memory.spad, h.memory.others⟩
  registers := h.registers.trans (.updSeq t.core s.who hg)
  stores := h.stores.trans (.of_eq (by simp) (by simp) (by simp) (by simp) (by simp))
  specials := h.specials.trans (by constructor <;> simp)
  pcs p hp := by simpa [Core.seq_updSeq_ne _ g hp] using h.pcs p hp
  tokens n := by simpa [Core.getTok] using h.tokens n

/-- An update of the unit's own sequencer changes the shape as it changes PC, loop stack and end. -/
theorem Shaped.updSeq {i : Instr} {s t : State} {e : Shape} (h : Shaped i s t e) {g : Seq → Seq} (hg : KeepsRegisters g)
    {pc : Word} {loops : List LoopEntry} {ended : Bool}
    (hown : ∀ v, v.pc = e.pc → v.loops = e.loops → v.ended = e.ended → (g v).pc = pc ∧ (g v).loops = loops ∧ (g v).ended = ended) :
    Shaped i s (t.updCore fun c => c.updSeq s.who g) { e with pc := pc, loops := loops, ended := ended } where
  own := by
    obtain ⟨hpc, hloops, hended⟩ := h.own
    simpa using hown _ hpc hloops hended
  done := by simpa using h.done
  posts := by simpa using h.posts
  others q hq := by simpa [Core.seq_updSeq_ne _ g hq] using h.others q hq
  unwritten := h.unwritten.updSeq hg
  work := by
    obtain ⟨huntimed, hrow, harray⟩ := h.work
    constructor <;> simpa
  hub := h.hub
  parked := h.parked

/-- A jump moves only the PC (R167). -/
theorem Shaped.jumpTo {i : Instr} {s t : State} {e : Shape} (h : Shaped i s t e) (f : Info) (a : Word) :
    Shaped i s (t.jumpTo (ctxOf s f) a) { e with pc := a } :=
  h.updSeq (g := fun v => { v with pc := a, minGap := if s.who = .mx then 1 else 2 }) (pc := a)
    (fun _ => ⟨rfl, rfl, rfl, rfl, rfl, rfl⟩) fun _ _ hloops hended => ⟨rfl, hloops, hended⟩

theorem Shaped.updLoops {i : Instr} {s t : State} {e : Shape} (h : Shaped i s t e) (g : List LoopEntry → List LoopEntry) :
    Shaped i s (t.updCore fun c => c.updSeq s.who fun v => { v with loops := g v.loops }) { e with loops := g e.loops } :=
  h.updSeq (g := fun v => { v with loops := g v.loops }) (loops := g e.loops) (fun _ => ⟨rfl, rfl, rfl, rfl, rfl, rfl⟩)
    fun _ hpc hloops hended => ⟨hpc, congrArg g hloops, hended⟩

/-- A completion that a unit notes joins those that are due later (R16, R157). -/
theorem Shaped.completeAfter {i : Instr} {s t : State} {e : Shape} (h : Shaped i s t e) {f : Info} (hf : i.info = some f)
    (hid : t.core.nextId = s.core.nextId) (hnow : t.core.now s.who = s.core.now s.who) (lat : Nat) (ws : List RegWrite) :
    Shaped i s (t.completeAfter (ctxOf s f) lat ws) { e with done := e.done ++ [s.pending i lat ws] } where
  own := by simpa [State.completeAfter] using h.own
  done := by
    show t.core.done ++ [⟨t.core.nextId, decide (s.who = .mx), t.core.now s.who + lat, s.who, s.seq.pc, ws, f.signal⟩] = _
    rw [h.done, hid, hnow, List.append_assoc, State.pending, unitSignal, hf]
    rfl
  posts := h.posts
  others q hq := by simpa [State.completeAfter] using h.others q hq
  unwritten := h.unwritten.completeAfter _ lat ws
  work := ⟨h.work.untimed, h.work.row, h.work.array⟩
  hub := h.hub
  parked := h.parked

/-- A unit that executes, and whose body gives a shape to the state that its bookkeeping leaves, runs in that shape. -/
theorem runs_of_shaped {i : Instr} {s : State} {body : Ctx → State → Eff} {e : Shape} (hexec : exec i s = issue i s body)
    (h : s.executes i = true)
    (hbody : ∀ f, i.info = some f → ∃ t, body (ctxOf s f) (issued i f s) = .ok t ∧ Shaped i s t e) : Runs i s e := by
  obtain ⟨f, hf, hissue⟩ := issue_executes h body
  obtain ⟨t, ht, hshape⟩ := hbody f hf
  rw [ht] at hissue
  obtain ⟨hown, hdone, hposts, hothers, hunwritten, hwork, hhub, hparked⟩ := hshape
  exact ⟨_, hexec.trans hissue, by simpa using hown, by simpa using hdone, by simpa using hposts, by simpa using hothers,
    hunwritten.afterIssue s.who, by simpa using hwork, by simpa using hhub, by simpa using hparked⟩

/-! LOOP and LOOP.L (R168, R169). -/

theorem issued_loops (i : Instr) (f : Info) (s : State) : ((issued i f s).regs (ctxOf s f)).loops = s.seq.loops :=
  issued_seq_loops ..

theorem loopEnter_of_nonpos {off : Int} (hoff : off ≤ 0) (n : Word) (u : Ctx) (s : State) :
    loopEnter n off u s = .error ⟨Cause.illegalField, 0⟩ := by
  simp [loopEnter, hoff, trapWith]

theorem loopEnter_of_zero {off : Int} (hoff : 0 < off) (u : Ctx) (s : State) :
    loopEnter 0 off u s = .ok (s.jumpTo u (u.pc + BitVec.ofInt 64 (4 * off) + 4)) := by
  simp [loopEnter, Int.not_le.2 hoff]

theorem loopEnter_of_room {n : Word} {off : Int} {u : Ctx} {s : State} (hoff : 0 < off) (hn : n ≠ 0)
    (hroom : (s.regs u).loops.length < 4) :
    loopEnter n off u s = .ok (s.updCore fun c => c.updSeq u.q fun v =>
      { v with loops := ⟨u.next, u.pc + BitVec.ofInt 64 (4 * off), n⟩ :: v.loops }) := by
  simp only [loopEnter, Int.not_le.2 hoff, hn, ge_iff_le, Nat.not_le.2 hroom, if_false]

theorem loopEnter_of_full {n : Word} {off : Int} {u : Ctx} {s : State} (hn : n ≠ 0) (hfull : 4 ≤ (s.regs u).loops.length) :
    loopEnter n off u s = .error ⟨Cause.illegalField, 0⟩ := by
  by_cases hoff : off ≤ 0
  · exact loopEnter_of_nonpos hoff n u s
  · simp only [loopEnter, hoff, hn, ge_iff_le, hfull, trapWith, if_false, if_true]

/-- What a loop instruction does after it has entered its loop: LOOP.L is a timed unit (R157). -/
def loopFinish (i : Instr) (u : Ctx) (s : State) : State :=
  match i with
  | .loopL .. => s.completeAfter u 1 []
  | _ => s

theorem exec_loop (h : Short) (o : LoopX) (s : State) : exec (.loop h o) s = issue (.loop h o) s fun u s =>
    if s.xPoison u o.a then trapWith Cause.undersizedDelay else loopEnter (s.x u o.a) o.o.toInt u s := rfl

theorem exec_loopL (h : Long) (o : LoopL) (s : State) : exec (.loopL h o) s = issue (.loopL h o) s fun u s =>
    (loopEnter (o.n.setWidth 64) o.o.toInt u s).map fun s => s.completeAfter u 1 [] := rfl

/-- With a clean count, both rows of R168 enter the loop, with their count and offset, and finish. -/
theorem loopRow_exec {i : Instr} {s : State} {off : Int} {n : Nat} (h : loopRow s i = some (off, n, false)) :
    ∃ body, exec i s = issue i s body ∧ n < 2 ^ 64 ∧ ∀ f, body (ctxOf s f) (issued i f s) =
      (loopEnter (BitVec.ofNat 64 n) off (ctxOf s f) (issued i f s)).map (loopFinish i (ctxOf s f)) := by
  unfold loopRow at h
  split at h
  next hd o =>
    obtain ⟨rfl, rfl, hclean⟩ : o.o.toInt = off ∧ (s.seq.getX o.a).toNat = n ∧ s.bad o.a = false := by simpa using h
    refine ⟨_, exec_loop hd o s, (s.seq.getX o.a).isLt, fun f => ?_⟩
    have hpoison : (issued (.loop hd o) f s).xPoison (ctxOf s f) o.a = false := (issued_getXP ..).trans hclean
    simp only [hpoison, Bool.false_eq_true, if_false, issued_x, BitVec.ofNat_toNat, BitVec.setWidth_eq]
    exact (congrFun Except.map_id _).symm
  next hd o =>
    obtain ⟨rfl, rfl⟩ : o.o.toInt = off ∧ o.n.toNat = n := by simpa using h
    refine ⟨_, exec_loopL hd o s, o.n.isLt.trans (by decide), fun f => ?_⟩
    rw [BitVec.ofNat_toNat]
    rfl
  next => cases h

theorem wordOfNat_ne_zero {n : Nat} (hpos : 0 < n) (hlt : n < 2 ^ 64) : BitVec.ofNat 64 n ≠ 0 := fun h =>
  hpos.ne' ((Nat.mod_eq_of_lt hlt).symm.trans (congrArg BitVec.toNat h))

/-- A shape that LOOP or LOOP.L reaches by entering its loop is the shape in which it finishes, with LOOP.L's completion. -/
theorem Shaped.loopFinish {i : Instr} {s t : State} {e : Shape} (h : Shaped i s t e) {off : Int} {n : Nat}
    (hrow : loopRow s i = some (off, n, false)) (hnone : e.done = []) {f : Info}
    (hf : i.info = some f) (hid : t.core.nextId = s.core.nextId) (hnow : t.core.now s.who = s.core.now s.who) :
    Shaped i s (loopFinish i (ctxOf s f) t) { e with done := loopDone s i } := by
  obtain ⟨pc, loops, ended, done, posts⟩ := e
  subst hnone
  unfold loopRow at hrow
  split at hrow
  next => exact h
  next => exact h.completeAfter hf hid hnow 1 []
  next => cases hrow

/-- A loop instruction of a clean count that enters its loop, and so reaches a shape with no completion noted, runs in that shape. -/
theorem goesTo_of_loopEnter {i : Instr} {s : State} {off : Int} {n : Nat} {a : Word} {loops : List LoopEntry} {t : Info → State}
    (hrow : loopRow s i = some (off, n, false)) (hex : s.executes i = true)
    (henter : ∀ f, i.info = some f → loopEnter (BitVec.ofNat 64 n) off (ctxOf s f) (issued i f s) = .ok (t f))
    (hclock : ∀ f, (t f).core.nextId = s.core.nextId ∧ (t f).core.now s.who = s.core.now s.who)
    (hshape : ∀ f, i.info = some f → Shaped i s (t f) ⟨a, loops, s.seq.ended, [], []⟩) : GoesTo i s a loops (loopDone s i) := by
  obtain ⟨body, hexec, -, hbody⟩ := loopRow_exec hrow
  refine runs_of_shaped hexec hex fun f hf => ⟨_, (hbody f).trans (by rw [henter f hf]; rfl), ?_⟩
  obtain ⟨hid, hnow⟩ := hclock f
  exact (hshape f hf).loopFinish hrow rfl hf hid hnow

theorem away_eq (s : State) (off : Int) : s.away off = s.seq.pc + BitVec.ofInt 64 (4 * off) := by
  rw [State.away, BitVec.ofInt_add, BitVec.ofInt_natCast, BitVec.ofNat_toNat, BitVec.setWidth_eq]

theorem away_succ (s : State) (off : Int) : s.away (off + 1) = s.seq.pc + BitVec.ofInt 64 (4 * off) + 4 := by
  rw [away_eq, Int.mul_add, BitVec.ofInt_add, BitVec.add_assoc]
  rfl

/-- A loop with passes to run, and room for its entry, pushes it and goes on (R169). -/
theorem loopRow_pushes {i : Instr} {s : State} {off : Int} {n : Nat} (hrow : loopRow s i = some (off, n, false))
    (hex : s.executes i = true) (hoff : 0 < off) (hn : 0 < n) (hroom : s.seq.loops.length < 4) :
    GoesTo i s (s.nextPc i) (⟨s.nextPc i, s.away off, BitVec.ofNat 64 n⟩ :: s.seq.loops) (loopDone s i) := by
  obtain ⟨-, -, hlt, -⟩ := loopRow_exec hrow
  refine goesTo_of_loopEnter hrow hex (fun f hf => ?enters) (fun f => ?clock) fun f hf =>
    (shaped_issued hf s).updLoops fun loops => ⟨s.nextPc i, s.away off, BitVec.ofNat 64 n⟩ :: loops
  case enters =>
    rw [loopEnter_of_room hoff (wordOfNat_ne_zero hn hlt) ((issued_loops i f s).symm ▸ hroom), away_eq]
    simp [ctxOf, State.nextPc, hf]
  case clock => simp [Core.now]

/-- A loop of no passes goes on behind its ENDL (R169). -/
theorem loopRow_skips {i : Instr} {s : State} {off : Int} (hrow : loopRow s i = some (off, 0, false))
    (hex : s.executes i = true) (hoff : 0 < off) : GoesTo i s (s.away (off + 1)) s.seq.loops (loopDone s i) := by
  refine goesTo_of_loopEnter hrow hex (fun f _ => ?enters) (fun f => ?clock) fun f hf =>
    (shaped_issued hf s).jumpTo f (s.away (off + 1))
  case enters => rw [away_succ]; exact loopEnter_of_zero hoff (ctxOf s f) (issued i f s)
  case clock => simp [State.jumpTo, Core.now, ctxOf]

/-- An offset that is not positive, and a fifth loop, trap (R169). -/
theorem loopRow_traps {i : Instr} {s : State} {off : Int} {n : Nat} (hrow : loopRow s i = some (off, n, false))
    (hex : s.executes i = true) (hmay : s.mayEnter) (hbad : off ≤ 0 ∨ 0 < n ∧ s.seq.loops.length ≥ 4) :
    TrapsWith i s Cause.illegalField 0 := by
  obtain ⟨body, hexec, hlt, hbody⟩ := loopRow_exec hrow
  refine trapsWith_of_error hexec hex hmay fun f _ => (hbody f).trans ?_
  have henter : loopEnter (BitVec.ofNat 64 n) off (ctxOf s f) (issued i f s) = .error ⟨Cause.illegalField, 0⟩ := by
    obtain hoff | ⟨hn, hfull⟩ := hbad
    · exact loopEnter_of_nonpos hoff ..
    · exact loopEnter_of_full (wordOfNat_ne_zero hn hlt) ((issued_loops i f s).symm ▸ hfull)
  rw [henter]
  rfl

/-! ENDL (R168, R169). -/

theorem pfxAccepted_of_decodeCheck {i : Instr} {f : Info} {ok : Bool} {c : Core} {q : SeqId} (h : decodeCheck i f ok c q = none) :
    pfxAccepted f = true := by
  unfold decodeCheck at h
  split_ifs at h with _ _ hok
  simpa using hok

/-- A unit that executes passes check 5 of R137. -/
theorem pfxAccepted_of_executes {i : Instr} {s : State} {f : Info} (hf : i.info = some f) (h : s.executes i = true) :
    pfxAccepted f = true := by
  simp only [State.executes, hf, Bool.and_eq_true, Option.isNone_iff_eq_none] at h
  obtain ⟨⟨⟨⟨hcheck, -⟩, -⟩, -⟩, -⟩ := h
  exact pfxAccepted_of_decodeCheck hcheck

/-- ENDL is one parcel long: it takes none of ARITH, IMM, MEM and PRED (R168). -/
theorem endl_nextPc {h : Short} {s : State} (hex : s.executes (.endl h) = true) : s.nextPc (.endl h) = s.seq.pc + 4 := by
  have hpfx : pfxAccepted (h.info 0x2F) = true := pfxAccepted_of_executes rfl hex
  obtain ⟨⟨⟨harith, himm⟩, hmem⟩, hpred⟩ :
      ((h.pfx.arith = none ∧ h.pfx.imm = none) ∧ h.pfx.mem = none) ∧ h.pfx.pred = none := by
    simpa [pfxAccepted, acceptsOf, Short.info] using hpfx
  simp [State.nextPc, Instr.info, Short.info, unitParcels, Pfx.count, harith, himm, hmem, hpred]

/-- The body of ENDL, on the loop stack as it stands. -/
def endlBody (u : Ctx) (s : State) : Eff :=
  match (s.regs u).loops with
  | [] => trapWith Cause.illegalField
  | e :: es =>
    if e.last ≠ u.pc then trapWith Cause.illegalField
    else if e.remain = 1 then .ok (s.updCore fun c => c.updSeq u.q fun q => { q with loops := es })
    else .ok ((s.jumpTo u e.start).updCore fun c =>
      c.updSeq u.q fun q => { q with loops := { e with remain := e.remain - 1 } :: es })

theorem exec_endl (h : Short) (s : State) : exec (.endl h) s = issue (.endl h) s endlBody := rfl

/-- The last pass of a loop: its entry is popped, and the unit goes on (R169). -/
theorem endl_pops {h : Short} {s : State} {e : LoopEntry} {es : List LoopEntry} (hex : s.executes (.endl h) = true)
    (hloops : s.seq.loops = e :: es) (hlast : e.last = s.seq.pc) (hremain : e.remain = 1) :
    GoesTo (.endl h) s (s.seq.pc + 4) es := by
  rw [← endl_nextPc hex]
  refine runs_of_shaped (exec_endl h s) hex fun f hf => ⟨_, ?body, (shaped_issued hf s).updLoops fun _ => es⟩
  case body =>
    simp only [endlBody, issued_loops, hloops]
    exact (if_neg (not_not.2 hlast)).trans (if_pos hremain)

/-- A pass before the last: the count goes down, and the unit goes to the start of the body (R169). -/
theorem endl_returns {h : Short} {s : State} {e : LoopEntry} {es : List LoopEntry} (hex : s.executes (.endl h) = true)
    (hloops : s.seq.loops = e :: es) (hlast : e.last = s.seq.pc) (hremain : e.remain ≠ 1) :
    GoesTo (.endl h) s e.start ({ e with remain := e.remain - 1 } :: es) := by
  refine runs_of_shaped (exec_endl h s) hex fun f hf =>
    ⟨_, ?body, ((shaped_issued hf s).jumpTo f e.start).updLoops fun _ => { e with remain := e.remain - 1 } :: es⟩
  case body =>
    simp only [endlBody, issued_loops, hloops]
    exact (if_neg (not_not.2 hlast)).trans (if_neg hremain)

/-- An ENDL that is not the top entry's, or finds no entry, traps (R169). -/
theorem endl_traps {h : Short} {s : State} (hex : s.executes (.endl h) = true) (hmay : s.mayEnter)
    (hother : ∀ e ∈ s.seq.loops.head?, e.last ≠ s.seq.pc) : TrapsWith (.endl h) s Cause.illegalField 0 := by
  refine trapsWith_of_error (exec_endl h s) hex hmay fun f _ => ?_
  cases hloops : s.seq.loops with
  | nil => simp only [endlBody, issued_loops, hloops, trapWith]
  | cons e es =>
    simp only [endlBody, issued_loops, hloops]
    exact if_pos (hother e (by simp [hloops]))

/-- Settles O5: each row enters its loop as R169 says (`loopRow_pushes`, `loopRow_skips`) or traps (`loopRow_traps`), and ENDL returns, pops
or traps by the top of the loop stack. -/
theorem loopsRunTheirCount : Obligations.LoopsRunTheirCount := by
  refine ⟨fun _ _ _ _ => loopRow_pushes, fun _ _ _ => loopRow_skips, fun h s e es hex hloops hlast => ?endl,
    fun _ _ _ _ => loopRow_traps, fun _ _ => endl_traps⟩
  case endl =>
    split
    · exact endl_pops hex hloops hlast ‹_›
    · exact endl_returns hex hloops hlast ‹_›

end Sys2Proof.Machine
end

section
/-!
A word of HBM written where there is room, and read again with its marks (R295, R437).
-/

namespace Sys2Proof.Machine

open Sys2Proof

/-- What a write to a word of HBM that finds room does to the package, as far as the sync unit sees it; another write of the word finds
room too. -/
structure Hub.WroteWord (h g : Hub) (pa : Nat) (v : Word) : Prop where
  hbm : g.hbm = memWrite h.hbm pa (wordBytes v.toNat 8)
  hbmUe : g.hbmUe = setMarks h.hbmUe pa 8 []
  host : g.host = h.host
  held : g.heldWrites = h.heldWrites
  waits : g.syncWait = h.syncWait
  out : g.out = h.out
  answers : ∀ p status settled body, g.answerTo p status settled body = h.answerTo p status settled body
  hbmOpen : ∀ a n, g.hbmOpen a n = h.hbmOpen a n
  room : g.mustHold pa 8 = false

theorem wordBytes_length (v n : Nat) : (wordBytes v n).length = n := by simp [wordBytes]

theorem Hub.touch_eq (h : Hub) (pa n : Nat) : ∃ d, h.touch pa n = { h with ckpt := { h.ckpt with dirty := d } } := by
  unfold Hub.touch
  split
  · exact ⟨_, rfl⟩
  · exact ⟨h.ckpt.dirty, rfl⟩

/-- A page whose old content is staged keeps no further write waiting. -/
theorem Hub.unstaged_stagePages (h : Hub) (pa n : Nat) : (h.stagePages pa n).unstaged pa n = [] := by
  simp only [Hub.unstaged, Hub.stagePages, List.filter_eq_nil_iff]
  intro p hp
  simp only [List.any_append, List.any_map, Function.comp_def, Bool.and_eq_true, Bool.not_eq_true', not_and, Bool.not_eq_false,
    Bool.or_eq_true]
  intro hin
  by_cases hstaged : h.ckpt.staged.any (fun x => decide (x.1 = p)) = true
  · exact .inl hstaged
  · refine .inr (List.any_eq_true.2 ⟨p, ?_, by simp⟩)
    simp only [List.mem_filter]
    exact ⟨hp, by simpa [hstaged] using hin⟩

theorem Hub.wroteWord_of_room {h : Hub} {pa : Nat} (hroom : h.mustHold pa 8 = false) (v : Word) :
    h.WroteWord (h.writeHbm pa (wordBytes v.toNat 8) []) pa v := by
  obtain ⟨d, hd⟩ := (h.stagePages pa 8).touch_eq pa 8
  have heq : h.writeHbm pa (wordBytes v.toNat 8) [] =
      { h with
        ckpt := { (h.stagePages pa 8).ckpt with dirty := d }
        hbm := memWrite h.hbm pa (wordBytes v.toNat 8), hbmUe := setMarks h.hbmUe pa 8 [] } := by
    simp only [Hub.writeHbm, wordBytes_length, hroom, Hub.takeIn, hd]
    rfl
  have hstaged : (h.writeHbm pa (wordBytes v.toNat 8) []).unstaged pa 8 = [] := by
    rw [heq]
    exact h.unstaged_stagePages pa 8
  have hroom' : (h.writeHbm pa (wordBytes v.toNat 8) []).mustHold pa 8 = false := by
    rw [Hub.mustHold, Bool.or_eq_false_iff] at hroom
    rw [Hub.mustHold, hstaged, heq]
    simpa [Hub.stagingFull] using hroom.1
  rw [heq] at hroom' ⊢
  exact ⟨rfl, rfl, rfl, rfl, rfl, rfl, fun _ _ _ _ => rfl, fun _ _ => rfl, hroom'⟩

/-- No held write reaches an extent where a write need not wait. -/
theorem Hub.heldWrites_apart {h : Hub} {pa n : Nat} (hroom : h.mustHold pa n = false) :
    ∀ w ∈ h.heldWrites, ¬(w.pa < pa + n ∧ pa < w.pa + w.bytes.length) := by
  rw [Hub.mustHold, Bool.or_eq_false_iff, List.any_eq_false] at hroom
  simpa using hroom.1

theorem memRead_memWrite_same (m : AMap Byte) (a : Nat) (bs : List Byte) : memRead (memWrite m a bs) a bs.length = bs := by
  refine List.ext_getElem (memRead_length ..) fun i hi hi' => ?_
  have hget := memRead_getD (memWrite m a bs) a bs.length i hi'
  rw [memGet_memWrite, if_pos ⟨by omega, by omega⟩, Nat.add_sub_cancel_left] at hget
  rwa [List.getD_eq_getElem _ _ hi, List.getD_eq_getElem _ _ hi'] at hget

/-- The bytes of a held write laid over those read from an address. -/
def HeldWrite.laidOver (pa : Nat) (bs : List Byte) (w : HeldWrite) : List Byte :=
  bs.mapIdx fun i b => if w.pa ≤ pa + i ∧ pa + i < w.pa + w.bytes.length then w.bytes.getD (pa + i - w.pa) b else b

theorem HeldWrite.laidOver_apart {w : HeldWrite} {pa : Nat} {bs : List Byte}
    (hapart : ¬(w.pa < pa + bs.length ∧ pa < w.pa + w.bytes.length)) : w.laidOver pa bs = bs :=
  List.ext_getElem (by simp [laidOver]) fun i _ hi => by
    simp only [laidOver, List.getElem_mapIdx]
    exact if_neg (by omega)

theorem Hub.readHbm_eq (h : Hub) (pa n : Nat) : h.readHbm pa n = h.heldWrites.foldl (HeldWrite.laidOver pa) (memRead h.hbm pa n) := rfl

/-- Where a write need not wait, HBM reads as its bytes stand. -/
theorem Hub.readHbm_of_room {h : Hub} {pa n : Nat} (hroom : h.mustHold pa n = false) : h.readHbm pa n = memRead h.hbm pa n := by
  rw [h.readHbm_eq]
  refine List.foldlRecOn (motive := (· = memRead h.hbm pa n)) _ _ rfl fun bs hbs w hw => ?_
  subst hbs
  exact HeldWrite.laidOver_apart (by rw [memRead_length]; exact h.heldWrites_apart hroom w hw)

/-- Every held write marks only bytes that it writes (R295). -/
def Hub.MarksInside (h : Hub) : Prop := ∀ w ∈ h.heldWrites, ∀ m ∈ w.marks, m < w.bytes.length

/-- The marks of memory with those of a held write's bytes replaced by its own. -/
def HeldWrite.marksOver (ue : List Nat) (w : HeldWrite) : List Nat := setMarks ue w.pa w.bytes.length (w.marks.map (w.pa + ·))

theorem Hub.readMarks_eq (h : Hub) (pa n : Nat) :
    h.readMarks pa n = (marksIn (h.heldWrites.foldl HeldWrite.marksOver h.hbmUe) pa n).map (· - pa) := rfl

theorem HeldWrite.marksIn_marksOver {w : HeldWrite} {ue : List Nat} {pa n : Nat} (hinside : ∀ m ∈ w.marks, m < w.bytes.length)
    (hapart : ¬(w.pa < pa + n ∧ pa < w.pa + w.bytes.length)) (hue : marksIn ue pa n = []) : marksIn (w.marksOver ue) pa n = [] := by
  simp only [marksIn, List.filter_eq_nil_iff, decide_eq_true_eq] at hue ⊢
  simp only [marksOver, setMarks, List.mem_append, List.mem_map, List.mem_filter]
  rintro x (⟨m, hm, rfl⟩ | ⟨hx, -⟩)
  · have := hinside m hm
    omega
  · exact hue x hx

/-- A word that was written without marks reads without marks, whatever is held elsewhere. -/
theorem Hub.WroteWord.readMarks {h g : Hub} {pa : Nat} {v : Word} (hw : h.WroteWord g pa v) (hmarks : h.MarksInside) :
    g.readMarks pa 8 = [] := by
  rw [Hub.readMarks_eq, List.map_eq_nil_iff]
  refine List.foldlRecOn (motive := (marksIn · pa 8 = [])) _ _ ?_ fun ue hue w hheld => ?_
  · simp [hw.hbmUe, marksIn, setMarks]
  · exact HeldWrite.marksIn_marksOver (hmarks w (hw.held ▸ hheld)) (Hub.heldWrites_apart hw.room w hheld) hue

theorem Hub.WroteWord.entryAt {h g : Hub} {pa : Nat} {v : Word} (hw : h.WroteWord g pa v) :
    g.entryAt pa = leNat (wordBytes v.toNat 8) := by
  have hread := memRead_memWrite_same h.hbm pa (wordBytes v.toNat 8)
  rw [wordBytes_length] at hread
  rw [Hub.entryAt, Hub.readHbm_of_room hw.room, hw.hbm, hread]

theorem Hub.WroteWord.writes {h g : Hub} {pa : Nat} {v : Word} (hw : h.WroteWord g pa v) :
    Writes h.hbm g.hbm pa (wordBytes v.toNat 8) := fun x => by rw [hw.hbm, memGet_memWrite]

theorem Writes.trans {m m' m'' : AMap Byte} {pa : Nat} {bs bs' : List Byte} (h : Writes m m' pa bs) (h' : Writes m' m'' pa bs')
    (hlen : bs.length = bs'.length) : Writes m m'' pa bs' := fun x => by
  rw [h' x, h x, hlen]
  split <;> rfl

end Sys2Proof.Machine
end

section
/-!
The end of an operation in flight (R16, R239): its hold ends and its post is made.
-/

namespace Sys2Proof.Machine

open Sys2Proof

/-- A sequencer that an operation holds goes on. -/
def Seq.letGo (id now : Nat) (v : Seq) : Seq :=
  if v.hold = some id then { v with hold := none, last := now, minGap := 1, redo := false } else v

theorem Seq.letGo_hold (v : Seq) (id now : Nat) : (v.letGo id now).hold = if v.hold = some id then none else v.hold := by
  unfold Seq.letGo
  split <;> rfl

theorem Seq.letGo_keeps (v : Seq) (id now : Nat) :
    (v.letGo id now).pc = v.pc ∧ (v.letGo id now).loops = v.loops ∧ (v.letGo id now).ended = v.ended := by
  unfold Seq.letGo
  split <;> exact ⟨rfl, rfl, rfl⟩

theorem Seq.letGo_registers (v : Seq) (id now : Nat) :
    (v.letGo id now).x = v.x ∧ (v.letGo id now).xp = v.xp ∧ (v.letGo id now).p = v.p := by
  unfold Seq.letGo
  split <;> exact ⟨rfl, rfl, rfl⟩

/-- An operation that ends is out of flight before its hold ends. -/
def Core.endFlight (c : Core) (f : Flight) : Core := (c.dropFlight f.id).updSeq f.q (Seq.letGo f.id (c.now f.q))

theorem Core.finish_eq (c : Core) (f : Flight) :
    c.finish f = if f.quiet then c.endFlight f else (c.endFlight f).post f.id f.q f.pc f.sig := rfl

@[simp] theorem Core.seq_dropFlight (c : Core) (n : Nat) (q : SeqId) : (c.dropFlight n).seq q = c.seq q := by cases q <;> rfl

theorem Core.seq_endFlight (c : Core) (f : Flight) (q : SeqId) :
    (c.endFlight f).seq q = if q = f.q then (c.seq q).letGo f.id (c.now f.q) else c.seq q := by
  rw [Core.endFlight, Core.seq_updSeq_eq, Core.seq_dropFlight]

theorem Core.seq_finish (c : Core) (f : Flight) (q : SeqId) : (c.finish f).seq q = (c.endFlight f).seq q := by
  rw [Core.finish_eq]
  split <;> simp

theorem keepsButXP_endFlight (c : Core) (f : Flight) : KeepsButXP c (c.endFlight f) := by
  refine KeepsButXP.trans (b := c.dropFlight f.id) ⟨rfl, .of_eq rfl rfl rfl rfl rfl, ?_, fun q => by simp, fun q => by simp⟩
    (keepsButXP_updSeq _ f.q fun v => v.letGo_keeps _ _)
  constructor <;> simp [Core.dropFlight]

theorem keepsButXP_finish (c : Core) (f : Flight) : KeepsButXP c (c.finish f) := by
  rw [Core.finish_eq]
  split
  · exact keepsButXP_endFlight c f
  · exact (keepsButXP_endFlight c f).trans (keepsButXP_post ..)

theorem Core.post_posts (c : Core) (n : Nat) (q : SeqId) (pc : Word) (sig : BitVec 8) :
    (c.post n q pc sig).posts = c.posts ++ signalPosts n q pc sig := by
  unfold Core.post signalPosts
  cases byteTokens sig with
  | none => simp
  | some w => rfl

/-- What the end of an operation leaves of the lists of the core's work: it is no longer in flight, and its post is made. -/
theorem Core.finish_work (c : Core) (f : Flight) :
    (c.finish f).flight = c.flight.filter (fun g => g.id != f.id) ∧ (c.finish f).done = c.done ∧
      (c.finish f).posts = c.posts ++ if f.quiet then [] else signalPosts f.id f.q f.pc f.sig := by
  rw [Core.finish_eq]
  split <;> simp [Core.post_posts, Core.endFlight, Core.dropFlight]

/-- The end of an operation, after an update of its sequencer that leaves its place and its hold. -/
theorem finished_finish (s : State) (f : Flight) {g : Seq → Seq}
    (hg : ∀ v, (g v).pc = v.pc ∧ (g v).loops = v.loops ∧ (g v).ended = v.ended) (hhold : ∀ v, (g v).hold = v.hold) :
    Finished f s (s.updCore fun c => (c.updSeq f.q g).finish f) := by
  have hkeep := (keepsButXP_updSeq s.core f.q hg).trans (keepsButXP_finish _ f)
  have hsame : ∀ q, ((s.core.updSeq f.q g).seq q).hold = (s.core.seq q).hold := fun q => by
    rw [Core.seq_updSeq_eq]
    split
    · exact hhold _
    · rfl
  obtain ⟨hflight, hdone, hposts⟩ := (s.core.updSeq f.q g).finish_work f
  refine ⟨by simpa using hflight, fun q => ?_, by simpa using hposts, hkeep.pcs, by simpa using hdone, hkeep.loops, hkeep.specials⟩
  rw [State.updCore_core, Core.seq_finish, Core.seq_endFlight]
  by_cases hq : q = f.q
  · simp [hq, Seq.letGo_hold, hhold]
  · simp [hq, hsame]

theorem Core.getX_finish (c : Core) (f : Flight) (q : SeqId) (r : BitVec 5) :
    ((c.finish f).seq q).getX r = (c.seq q).getX r ∧ ((c.finish f).seq q).getXP r = (c.seq q).getXP r := by
  rw [Core.seq_finish, Core.seq_endFlight]
  split <;> simp [Seq.getX, Seq.getXP, Seq.letGo_registers]

theorem Core.getP_finish (c : Core) (f : Flight) (q : SeqId) (r : BitVec 3) : ((c.finish f).seq q).getP r = (c.seq q).getP r := by
  rw [Core.seq_finish, Core.seq_endFlight]
  split <;> simp [Seq.getP, Seq.letGo_registers]

end Sys2Proof.Machine
end

section
/-!
The sync unit (R112, R272): the table's rule, the operations that wait at an object, and SYNC_OP_PERFORM of a core's operation.
-/

namespace Sys2Proof.Machine

open Sys2Proof

/-! The sync unit's rule (R272). -/

/-- The package after an operation wrote an object's word, or left it. -/
def Hub.withWord (h : Hub) (pa : Nat) : Option Word → Hub
  | some v => h.writeHbm pa (wordBytes v.toNat 8) []
  | none => h

theorem syncRule_relL (w : Word) : syncRule .relL w = some (some 0) := rfl

theorem syncRule_acqL_of_ne {w : Word} (h : w ≠ 0) : syncRule .acqL w = none := if_neg h

/-- An operation on the word alone goes as the table says. -/
theorem Hub.syncDo_eq_rule (h : Hub) {k : SyncKind} (hk : wordKind k = true) (pa pkg core fn : Nat) :
    h.syncDo k pa pkg core fn = (syncRule k (BitVec.ofNat 64 (h.entryAt pa))).elim .waits
      fun r => .done (BitVec.ofNat 64 (h.entryAt pa)) (h.withWord pa r) := by
  unfold Hub.syncDo syncRule
  generalize BitVec.ofNat 64 (h.entryAt pa) = w
  cases k with
  | acqL => dsimp only; split <;> rfl
  | acqG v => dsimp only; split <;> rfl
  | relL => rfl
  | relI => simp [Hub.withWord, BitVec.ofNat_add]
  | sycas e n => dsimp only; split <;> rfl
  | syrd => rfl
  | bind => cases hk
  | unbind => cases hk

theorem Hub.syncFor_eq_rule {h : Hub} {w : SyncWait} (hopen : h.hbmOpen w.pa 8 = true) (hk : wordKind w.kind = true) :
    h.syncFor w = (syncRule w.kind (BitVec.ofNat 64 (h.entryAt w.pa))).elim .waits
      fun r => .done (BitVec.ofNat 64 (h.entryAt w.pa)) (h.withWord w.pa r) := by
  rw [Hub.syncFor, if_pos hopen, h.syncDo_eq_rule hk]

/-! The operations that wait at an object (R112). -/

/-- Nothing that waits at an object can be performed. -/
def State.quietAt (s : State) (pa : Nat) : Prop := ∀ x ∈ s.hub.syncWait, x.pa = pa → s.hub.syncFor x = .waits

theorem State.satisfied_of_quiet {s : State} {pa : Nat} (h : s.quietAt pa) : s.satisfied pa = none := by
  refine List.find?_eq_none.2 fun x hx => ?_
  by_cases hpa : x.pa = pa
  · simp [h x hx hpa]
  · simp [hpa]

theorem State.settled_of_quiet {s : State} {pa : Nat} (h : s.quietAt pa) : s.settled pa = s := by
  unfold State.settled
  cases s.hub.syncWait.length with
  | zero => rfl
  | succ n => rw [State.settle, State.satisfied_of_quiet h]

/-- The only operation that waits, where it has become satisfied, is performed. -/
theorem State.settled_of_single {s : State} {w : SyncWait} {old : Word} {h : Hub} (hwait : s.hub.syncWait = [w])
    (hwanted : s.awaits w = true) (hdone : s.hub.syncFor w = .done old h) :
    s.settled w.pa =
      { s with hub := { h with syncWait := h.syncWait.erase w } }.deliver w.who old (s.hub.readMarks w.pa 8) := by
  have hsat : s.satisfied w.pa = some w := by simp [State.satisfied, hwait, hwanted, hdone]
  rw [State.settled, hwait, List.length_singleton, State.settle, hsat]
  simp only [hdone]
  rfl

theorem State.syncArrive_of_waits {s : State} {w : SyncWait} (hquiet : s.quietAt w.pa) (h : s.hub.syncFor w = .waits) :
    s.syncArrive w = (.waits, s.updHub fun h =>
      { h with syncWait := h.syncWait.filter s.awaits ++ [{ w with no := h.nextId }], nextId := h.nextId + 1 }) := by
  simp only [State.syncArrive, State.settled_of_quiet hquiet, h]

theorem State.syncArrive_of_done {s : State} {w : SyncWait} {old : Word} {g : Hub} (hquiet : s.quietAt w.pa)
    (h : s.hub.syncFor w = .done old g) :
    s.syncArrive w = (.done old g, ({ s with hub := g }.deliver w.who old (s.hub.readMarks w.pa 8)).settled w.pa) := by
  simp only [State.syncArrive, State.settled_of_quiet hquiet, h]

/-! SYNC_OP_PERFORM of an operation of the core in hand. -/

/-- What an operation of the core in hand brings to the sync unit. -/
def State.arrival (s : State) (f : Flight) (k : SyncKind) (pa : Nat) : SyncWait :=
  ⟨.core s.core.id f.id, k, pa, s.hub.pkg, s.core.id, s.core.func, f.hnd.map (·.2), 0⟩

/-- An operation that is due, whose writes have been made and which has not arrived yet. -/
structure Arrives (s : State) (f : Flight) (k : SyncKind) (pa : Nat) : Prop where
  phase : s.phase ≠ .hub
  due : s.due f
  op : ∃ va d, f.op = .sync k (.hbm pa) va d
  stage : f.stage = .away
  written : isRel k = true → s.core.writesPending f.id = false
  new : s.hub.syncHolds (.core s.core.id f.id) k pa = false

theorem exec_syncOpPerform_of_arrives {s : State} {f : Flight} {k : SyncKind} {pa : Nat} (h : Arrives s f k pa)
    (hend : (s.syncArrive (s.arrival f k pa)).1 ≠ .refused) :
    exec (.syncOpPerform f.id) s = .next (s.syncArrive (s.arrival f k pa)).2 := by
  obtain ⟨hphase, ⟨hflight, hdue⟩, ⟨va, d, hop⟩, hstage, hwritten, hnew⟩ := h
  have hready : (f.stage != .away || decide (s.core.pulse < f.due) || isRel k && s.core.writesPending f.id) = false := by
    cases hrel : isRel k with
    | false => simp [hstage, hdue]
    | true => simp [hstage, hdue, hwritten hrel]
  show execSyncOpPerform f.id s = _
  simp only [execSyncOpPerform, bne_iff_ne, ne_eq, hphase, not_false_eq_true, if_true, State.syncPerformCore, hflight, hop, hready,
    Bool.false_eq_true, if_false, hnew]
  split
  · exact absurd ‹_› hend
  · rfl

/-- The reply to an operation of the core in hand is on its way to it; nothing that a program reads has changed. -/
structure Replies (f : Flight) (old : Word) (s t : State) : Prop where
  flight : ∃ g, t.core.flightOf f.id = some g ∧ g.stage = .done ∧ g.data = wordBytes old.toNat 8
  spad : t.core.spad = s.core.spad
  registers : SameRegisters s.core t.core
  stores : SameStores s.core t.core
  specials : SameSpecials s.core t.core
  hub : t.hub = s.hub

theorem Core.flightOf_updFlight {c : Core} {n : Nat} {f : Flight} {g : Flight → Flight} (hf : c.flightOf n = some f)
    (hg : ∀ x, (g x).id = x.id) : (c.updFlight n g).flightOf n = some (g f) := by
  have hid : f.id = n := by simpa using List.find?_some hf
  have hkeep : (fun x : Flight => decide (x.id = n)) ∘ (fun x => if x.id = n then g x else x) = fun x => decide (x.id = n) := by
    funext x
    by_cases hx : x.id = n <;> simp [hx, hg]
  rw [Core.flightOf, Core.updFlight, List.find?_map, hkeep]
  rw [Core.flightOf] at hf
  simp [hf, hid]

theorem replies_deliver {s : State} {f : Flight} (hf : s.core.flightOf f.id = some f) (old : Word) (marks : List Nat) :
    Replies f old s (s.deliver (.core s.core.id f.id) old marks) := by
  have hcore : s.deliver (.core s.core.id f.id) old marks =
      { s with
        free := s.free + 1
        core := s.core.updFlight f.id fun x =>
          { x with stage := .done, due := s.core.pulse + 1 + Config.latency s.free, data := wordBytes old.toNat 8, marks := marks } } :=
    if_pos rfl
  rw [hcore]
  exact ⟨⟨_, Core.flightOf_updFlight hf fun _ => rfl, rfl, rfl⟩, rfl, .of_seq fun q => by cases q <;> rfl, .of_eq rfl rfl rfl rfl rfl,
    by constructor <;> simp [Core.updFlight], rfl⟩

theorem quietAt_of_none {s : State} {pa : Nat} (h : ∀ x ∈ s.hub.syncWait, x.pa ≠ pa) : s.quietAt pa :=
  fun x hx hpa => absurd hpa (h x hx)

theorem syncHolds_of_none {h : Hub} {pa : Nat} (hnone : ∀ x ∈ h.syncWait, x.pa ≠ pa) (who : Waiter) (k : SyncKind) :
    h.syncHolds who k pa = false := by
  simp only [Hub.syncHolds, List.any_eq_false]
  intro x hx
  simp [hnone x hx]

/-- Where the table makes an operation wait, it stands at the object, behind those there. -/
theorem syncOpPerform_waits {s : State} {f : Flight} {k : SyncKind} {pa : Nat} (h : Arrives s f k pa) (hk : wordKind k = true)
    (hquiet : s.quietAt pa) (hopen : s.hub.hbmOpen pa 8 = true) (hrule : syncRule k (BitVec.ofNat 64 (s.hub.entryAt pa)) = none) :
    ∃ t, exec (.syncOpPerform f.id) s = .next t ∧ t.core = s.core ∧ SameMemory s t ∧
      t.hub.syncWait = s.hub.syncWait.filter s.awaits ++ [{ s.arrival f k pa with no := s.hub.nextId }] := by
  have hfor : s.hub.syncFor (s.arrival f k pa) = .waits := by
    rw [Hub.syncFor_eq_rule hopen hk]
    exact congrArg (Option.elim · _ _) hrule
  have harrive := State.syncArrive_of_waits (w := s.arrival f k pa) hquiet hfor
  refine ⟨_, exec_syncOpPerform_of_arrives h (by rw [harrive]; nofun), ?_⟩
  rw [harrive]
  exact ⟨rfl, ⟨fun _ => rfl, fun _ => rfl, fun _ => rfl, rfl⟩, rfl⟩

/-- Where the table lets an operation go on, the word is written as it says, the reply starts, and what has become satisfied at the
object follows. -/
theorem syncOpPerform_performs {s : State} {f : Flight} {k : SyncKind} {pa : Nat} (h : Arrives s f k pa) (hk : wordKind k = true)
    (hquiet : s.quietAt pa) (hopen : s.hub.hbmOpen pa 8 = true) {r : Option Word}
    (hrule : syncRule k (BitVec.ofNat 64 (s.hub.entryAt pa)) = some r) :
    ∃ u, exec (.syncOpPerform f.id) s = .next (u.settled pa) ∧
      Replies f (BitVec.ofNat 64 (s.hub.entryAt pa)) { s with hub := s.hub.withWord pa r } u := by
  have hfor : s.hub.syncFor (s.arrival f k pa) = .done (BitVec.ofNat 64 (s.hub.entryAt pa)) (s.hub.withWord pa r) := by
    rw [Hub.syncFor_eq_rule hopen hk]
    exact congrArg (Option.elim · _ _) hrule
  have harrive := State.syncArrive_of_done (w := s.arrival f k pa) hquiet hfor
  refine ⟨_, (exec_syncOpPerform_of_arrives h (by rw [harrive]; nofun)).trans ?_,
    replies_deliver (s := { s with hub := s.hub.withWord pa r }) h.due.1 (BitVec.ofNat 64 (s.hub.entryAt pa)) (s.hub.readMarks pa 8)⟩
  rw [harrive]
  rfl

theorem Hub.withWord_keeps {h : Hub} {pa : Nat} (hroom : h.mustHold pa 8 = false) (r : Option Word) :
    (h.withWord pa r).host = h.host ∧ (h.withWord pa r).syncWait = h.syncWait := by
  cases r with
  | none => exact ⟨rfl, rfl⟩
  | some v =>
    have hw := Hub.wroteWord_of_room hroom v
    exact ⟨hw.host, hw.waits⟩

/-- What the table lets an operation do at an object where none waits: the word is written, and its reply starts. -/
theorem syncOpPerform_performs_alone {s : State} {f : Flight} {k : SyncKind} {pa : Nat} (h : Arrives s f k pa) (hk : wordKind k = true)
    (hnone : ∀ x ∈ s.hub.syncWait, x.pa ≠ pa) (hopen : s.hub.hbmOpen pa 8 = true) (hroom : s.hub.mustHold pa 8 = false)
    {r : Option Word} (hrule : syncRule k (BitVec.ofNat 64 (s.hub.entryAt pa)) = some r) :
    ∃ t, exec (.syncOpPerform f.id) s = .next t ∧
      Replies f (BitVec.ofNat 64 (s.hub.entryAt pa)) { s with hub := s.hub.withWord pa r } t := by
  obtain ⟨t, hexec, hreplies⟩ := syncOpPerform_performs h hk (quietAt_of_none hnone) hopen hrule
  have hquiet : t.quietAt pa := quietAt_of_none (by rwa [hreplies.hub, (Hub.withWord_keeps hroom r).2])
  exact ⟨t, by rw [hexec, State.settled_of_quiet hquiet], hreplies⟩

end Sys2Proof.Machine
end

section
/-!
SYNC_OP_PERFORM and SYNC_REPLY (R112, R272), clause by clause. The first and the third clause of `Obligations.SyncUnitAppliesItsRule` hold
as stated, the second where held writes mark only the bytes they write (`Hub.MarksInside`); a state with a held write that marks a byte
beyond its own refutes it.
-/

namespace Sys2Proof.Machine

open Sys2Proof

/-! The three clauses. -/

theorem Arrives.of_none {s : State} {f : Flight} {k : SyncKind} {pa va : Nat} {d : Option (BitVec 5)} (hphase : s.phase ≠ .hub)
    (hdue : s.due f) (hop : f.op = .sync k (.hbm pa) va d) (hstage : f.stage = .away)
    (hwritten : isRel k = true → s.core.writesPending f.id = false) (hnone : ∀ x ∈ s.hub.syncWait, x.pa ≠ pa) : Arrives s f k pa :=
  ⟨hphase, hdue, ⟨va, d, hop⟩, hstage, hwritten, syncHolds_of_none hnone _ _⟩

/-- R272 at an object where none waits: the operation waits there, or the word is written as the table says and the reply starts. -/
theorem syncOpPerform_applies_rule {s : State} {f : Flight} {k : SyncKind} {pa va : Nat} {d : Option (BitVec 5)} (hphase : s.phase ≠ .hub)
    (hdue : s.due f) (hop : f.op = .sync k (.hbm pa) va d) (hstage : f.stage = .away) (hk : wordKind k = true)
    (hwritten : isRel k = true → s.core.writesPending f.id = false) (hnone : ∀ x ∈ s.hub.syncWait, x.pa ≠ pa)
    (hopen : s.hub.hbmOpen pa 8 = true) :
    let w := BitVec.ofNat 64 (leNat (s.hub.readHbm pa 8))
    (syncRule k w = none → ∃ t, exec (.syncOpPerform f.id) s = .next t ∧ t.core = s.core ∧ SameMemory s t ∧
      t.hub.syncWait = s.hub.syncWait.filter s.awaits ++
        [⟨.core s.core.id f.id, k, pa, s.hub.pkg, s.core.id, s.core.func, f.hnd.map (·.2), s.hub.nextId⟩]) ∧
    (∀ r, syncRule k w = some r → s.hub.mustHold pa 8 = false →
      ∃ t g, exec (.syncOpPerform f.id) s = .next t ∧ t.core.flightOf f.id = some g ∧ g.stage = .done ∧
        g.data = wordBytes w.toNat 8 ∧ t.core.spad = s.core.spad ∧ SameRegisters s.core t.core ∧ SameStores s.core t.core ∧
        SameSpecials s.core t.core ∧ t.hub.host = s.hub.host ∧ t.hub.syncWait = s.hub.syncWait ∧
        match r with
        | some v => Writes s.hub.hbm t.hub.hbm pa (wordBytes v.toNat 8)
        | none => t.hub.hbm = s.hub.hbm) := by
  have harrives := Arrives.of_none hphase hdue hop hstage hwritten hnone
  refine ⟨syncOpPerform_waits harrives hk (quietAt_of_none hnone) hopen, fun r hrule hroom => ?_⟩
  obtain ⟨t, hexec, ⟨g, hg, hdone, hdata⟩, hspad, hregs, hstores, hspecials, hhub⟩ :=
    syncOpPerform_performs_alone harrives hk hnone hopen hroom hrule
  refine ⟨t, g, hexec, hg, hdone, hdata, hspad, hregs, hstores, hspecials, ?_⟩
  rw [hhub]
  refine ⟨(Hub.withWord_keeps hroom r).1, (Hub.withWord_keeps hroom r).2, ?_⟩
  cases r with
  | none => rfl
  | some v => exact (Hub.wroteWord_of_room hroom v).writes

/-- What the sync unit sends to the package whose operation it performs. -/
theorem State.deliver_packet_hub (s : State) (p : Packet) (old : Word) (marks : List Nat) :
    (s.deliver (.packet p) old marks).hub = s.hub.send (s.hub.answerTo p 0 false (.data (wordBytes old.toNat 8) marks)) := rfl

/-- R112: where held writes mark only their own bytes, a release that satisfies the acquire of another package performs it in the same
moment, and its answer carries no mark. -/
theorem syncOpPerform_release_satisfies_acquire {s : State} {f : Flight} {pa : Nat} {p : Packet} {pkg core fn no : Nat}
    {via : Option Hnd} (h : Arrives s f .relL pa) (hwait : s.hub.syncWait = [⟨.packet p, .acqL, pa, pkg, core, fn, via, no⟩])
    (hroom : s.hub.mustHold pa 8 = false) (hmarks : s.hub.MarksInside) (hopen : s.hub.hbmOpen pa 8 = true)
    (hword : BitVec.ofNat 64 (s.hub.entryAt pa) ≠ 0) :
    ∃ t, exec (.syncOpPerform f.id) s = .next t ∧ Writes s.hub.hbm t.hub.hbm pa (wordBytes 1 8) ∧ t.hub.syncWait = [] ∧
      t.hub.out = s.hub.out ++ [s.hub.answerTo p 0 false (.data (wordBytes 0 8) [])] := by
  have hquiet : s.quietAt pa := by
    intro x hx hpa
    obtain rfl := List.mem_singleton.1 (hwait ▸ hx)
    rw [Hub.syncFor_eq_rule hopen rfl]
    exact congrArg (Option.elim · _ _) (syncRule_acqL_of_ne hword)
  obtain ⟨u, hexec, hreplies⟩ := syncOpPerform_performs h rfl hquiet hopen (syncRule_relL _)
  have hzero : s.hub.WroteWord u.hub pa 0 := by
    rw [hreplies.hub]
    exact Hub.wroteWord_of_room hroom 0
  have hone := Hub.wroteWord_of_room hzero.room 1
  have hdone : u.hub.syncFor ⟨.packet p, .acqL, pa, pkg, core, fn, via, no⟩ = .done 0 (u.hub.withWord pa (some 1)) := by
    rw [Hub.syncFor_eq_rule (by rwa [hzero.hbmOpen]) rfl, hzero.entryAt]
    rfl
  refine ⟨_, hexec.trans (congrArg _ (State.settled_of_single (hzero.waits.trans hwait) rfl hdone)), ?_⟩
  rw [hzero.readMarks hmarks, State.deliver_packet_hub]
  refine ⟨hzero.writes.trans hone.writes rfl, ?_, ?_⟩
  · show (u.hub.withWord pa (some 1)).syncWait.erase _ = []
    rw [Hub.withWord, hone.waits, hzero.waits, hwait, List.erase_cons_head]
  · show (u.hub.withWord pa (some 1)).out ++ [(u.hub.withWord pa (some 1)).answerTo p 0 false (.data (wordBytes 0 8) [])] = _
    rw [Hub.withWord, hone.out, hzero.out, hone.answers, hzero.answers]

theorem syncReply_writes {s : State} {f : Flight} {k : SyncKind} {l : Loc} {va : Nat} {r : BitVec 5} (hdue : s.due f)
    (hop : f.op = .sync k l va (some r)) (hstage : f.stage = .done) (hmarks : f.marks = []) :
    exec (.syncReply f.id) s = .next (s.updCore fun c =>
      (c.updSeq f.q fun q => q.setX r (BitVec.ofNat 64 (leNat f.data)) false).finish f) := by
  show execSyncReply f.id s = _
  simp [execSyncReply, hdue.1, hdue.2, hop, hstage, hmarks]

theorem syncReply_ends {s : State} {f : Flight} {k : SyncKind} {l : Loc} {va : Nat} (hdue : s.due f)
    (hop : f.op = .sync k l va none) (hstage : f.stage = .done) :
    exec (.syncReply f.id) s = .next (s.updCore fun c => c.finish f) := by
  show execSyncReply f.id s = _
  simp [execSyncReply, hdue.1, hdue.2, hop, hstage]

/-- SYNC_REPLY gives the old word to the destination, if there is one, and lets CT go on. -/
theorem syncReply_answers {s : State} {f : Flight} {k : SyncKind} {l : Loc} {va : Nat} {d : Option (BitVec 5)} (hdue : s.due f)
    (hop : f.op = .sync k l va d) (hstage : f.stage = .done) (hmarks : d.isSome = true → f.marks = []) :
    ∃ t, exec (.syncReply f.id) s = .next t ∧ Finished f s t ∧ SameMemory s t ∧ SameStores s.core t.core ∧ SameP s.core t.core ∧
      match d with
      | some r => LandsX f.q r (BitVec.ofNat 64 (leNat f.data)) false s.core t.core
      | none => SameX s.core t.core := by
  cases d with
  | some r =>
    have hkeep := (keepsButXP_setX s.core f.q r (BitVec.ofNat 64 (leNat f.data)) false).trans (keepsButXP_finish _ f)
    refine ⟨_, syncReply_writes hdue hop hstage (hmarks rfl), finished_finish s f (by simp) (by simp), .updCore hkeep.spad, hkeep.stores,
      fun p t => ?_, fun p t => ?_⟩
    · exact (Core.getP_finish ..).trans (sameP_setX ..)
    · obtain ⟨hx, hxp⟩ := landsX_setX s.core f.q r (BitVec.ofNat 64 (leNat f.data)) false p t
      obtain ⟨hx', hxp'⟩ := Core.getX_finish (s.core.updSeq f.q fun q => q.setX r (BitVec.ofNat 64 (leNat f.data)) false) f p t
      exact ⟨hx'.trans hx, hxp'.trans hxp⟩
  | none =>
    have hkeep := keepsButXP_finish s.core f
    have hfinished := finished_finish s f (g := id) (fun _ => ⟨rfl, rfl, rfl⟩) fun _ => rfl
    have hid : s.core.updSeq f.q id = s.core := by cases f.q <;> rfl
    refine ⟨_, syncReply_ends hdue hop hstage, ?_, .updCore hkeep.spad, hkeep.stores,
      fun p t => Core.getP_finish .., fun p t => Core.getX_finish ..⟩
    simpa [State.updCore, hid] using hfinished

/-! A held write with a stray mark. -/

/-- A REL.L at the object at address 8, whose writes have been made. -/
def dueRelease : Flight :=
  { id := 0, q := .ct, pc := 0, path := 8, cls := 0, op := .sync .relL (.hbm 8) 8 none, stage := .away, due := 0, sig := 0, level := 0,
    quiet := false, data := [], marks := [], hnd := none, late := false }

/-- An ACQ.L that another package asks for. -/
def foreignAcquire : Packet :=
  { ver := 1, kind := 4, path := 0, src := 2, dst := 0, ports := [], hptr := 1, nhop := 0, tenant := 0, va := 8, len := 0, circuit := 0,
    tag := 9, status := 0, settled := false, group := 0, reserved := false, body := .sync .acqL }

/-- A held write of the one byte at address 0 that carries a mark eight bytes on, outside the bytes it writes. -/
def strayWrite : HeldWrite := ⟨0, 0, [0], [8]⟩

/-- The release is due at an object whose word is 1 and at which the acquire waits, beside a held write with a stray mark. -/
def besideStrayWrite : State :=
  { State.reset with
    phase := .issue
    core := { Core.idle 0 0 0 with flight := [dueRelease] }
    hub := { Hub.reset with
      hbm := [(8, 1)], heldWrites := [strayWrite], syncWait := [⟨.packet foreignAcquire, .acqL, 8, 2, 0, 0, none, 0⟩]
      power := { Power.reset with unitLevel := List.replicate 56 (some 0) } } }

/-- The acquire is answered with the word that the release wrote and with the stray mark. -/
theorem acquire_answered_with_stray_mark :
    ∃ t, exec (.syncOpPerform dueRelease.id) besideStrayWrite = .next t ∧ t.hub.out.map (·.body) = [.data (wordBytes 0 8) [0]] :=
  ⟨_, rfl, by decide⟩

/-- Refutes O26: its second clause leaves the held writes free. Where one of them carries a mark beyond the bytes it writes, and that mark lies
in the object's word, the acquire that the release satisfies is answered with the mark (R295), and not with clean data. -/
theorem not_syncUnitAppliesItsRule : ¬ Obligations.SyncUnitAppliesItsRule := by
  rintro ⟨-, hrelease, -⟩
  obtain ⟨t, hexec, -, -, hout⟩ := hrelease besideStrayWrite dueRelease 8 8 none foreignAcquire 2 0 0 none 0 (by decide)
    ⟨by decide, by decide⟩ rfl rfl (by decide) rfl (by decide) (by decide) (by decide)
  obtain ⟨u, hexec', hbodies⟩ := acquire_answered_with_stray_mark
  cases hexec.symm.trans hexec'
  rw [hout] at hbodies
  exact absurd hbodies (by decide)

end Sys2Proof.Machine
end
